-- ==== Sys2Proof/Word.lean ====
section
/-! DEFINITION. The machine's word types (spec 00 R1, 03 R66): 64-bit scalars, 512-bit vectors, bytes. -/

namespace Sys2Proof

/-- A 64-bit scalar or floating-point register value (03 R66). -/
abbrev Word := BitVec 64

/-- A 512-bit vector register value (03 R66, 09 R185). -/
abbrev Vec := BitVec 512

/-- A byte of any memory. -/
abbrev Byte := BitVec 8

/-- A six-bit scalar register field: 0-47 name x registers, 48-63 queue registers (03 R66). -/
abbrev XField := BitVec 6

/-- A five-bit f or v register field (03 R66). -/
abbrev FField := BitVec 5

/-- A three-bit predicate field (03 R66). -/
abbrev PField := BitVec 3

end Sys2Proof
end

