-- ==== Sys2Proof/Syntax.lean ====
section
/-! DEFINITION. The syntax of every step of the part: one constructor of Instr per row of spec/opcode_table.json.
C-words and A-words carry their operand fields as the encodings of 03 R61-R64 give them; the S and G bits belong to
the bundle (03 R57) and stand there. A machine step (a message in flight, an engine's event) carries its payload. -/

namespace Sys2Proof

/-- Scalar floating-point formats, coded by fmt (03 R64). -/
inductive Fmt where
  | d | s | h | bf
deriving DecidableEq, Repr

/-- Width codes of SEXT and ZEXT (08 R162). -/
inductive ExtW where
  | b | h | w
deriving DecidableEq, Repr

/-- Operations of AMO (12 R242), in the order of their fn codes. -/
inductive AmoOp where
  | add | swap | cas | min | max | minu | maxu | and | or | xor | faddD | faddS
deriving DecidableEq, Repr

/-- Operations of RED (12 R242), in the order of their fn codes. -/
inductive RedOp where
  | add | min | max | and | or | xor | faddD | faddS
deriving DecidableEq, Repr

/-- Operand fields of format CM (03 R61): rd, ra, predicate, imm7. -/
structure Cm where
  rd : XField
  ra : XField
  p : PField
  imm : BitVec 7
deriving DecidableEq, Repr

/-- Operand fields of a CM form whose data register is an f or v register (03 R66). -/
structure CmF where
  fd : FField
  ra : XField
  p : PField
  imm : BitVec 7
deriving DecidableEq, Repr

/-- Operand fields of format AV (03 R64). -/
structure Av where
  vd : FField
  va : FField
  vb : FField
  vm : BitVec 2
  mu : BitVec 1
  ew : BitVec 2
  fn : BitVec 5
deriving DecidableEq, Repr

/-- Operand fields of format AM (03 R64, 10 R210). -/
structure Am where
  xd : XField
  xa : XField
  xb : XField
  fs : FField
  ts : BitVec 1
deriving DecidableEq, Repr

/-- The place that performs an access (13 R254, R260). -/
inductive Place where
  /-- A compute, control or management core: its scratchpad, mailbox, atomic slot, node unit. -/
  | core (n : Nat)
  /-- Memory controller c of die d with its Capo and hold queue. -/
  | ctrl (d c : Nat)
  /-- An expansion port. -/
  | port (p : Nat)
  /-- The host and its memory. -/
  | host
  /-- Another chip. -/
  | chip (n : Nat)
deriving DecidableEq, Repr

/-- The task an item in flight acts for: its core and slot when it was sent, and its GTID, by which results are routed
(18 R340). `item` numbers the item among the task's outstanding accesses. -/
structure Who where
  core : Nat
  slot : Nat
  gtid : Word
  item : Nat
deriving DecidableEq, Repr

/-- A resolved location: a scratchpad byte of a core, or a physical address with its leaf's key; `held` is the latter
under write-block at its hold controller (04 R102). -/
inductive Loc where
  | sp (core addr : Nat)
  | phys (pa key : Nat)
  | held (die ctl pa key : Nat)
deriving DecidableEq, Repr

/-- The counted page of an access (04 R100): its region, the die of the requesting core, the page's first byte and its
SIZE code. -/
structure AccPage where
  region : Nat
  die : Nat
  va : Nat
  size : Nat
deriving DecidableEq, Repr

/-- What kind of write a posted write is. -/
inductive WKind where
  | store | stn (hi : Bool) | row | sub (hix sb : Nat)
deriving DecidableEq, Repr

/-- A posted write (07 R150). -/
structure WritePkt where
  who : Who
  kind : WKind
  loc : Loc
  acc : Option AccPage
  va : Word
  data : List Byte
deriving DecidableEq, Repr

/-- A remote or device read (07 R150): `idx` places the data in the destination (element number). -/
structure ReadPkt where
  who : Who
  loc : Loc
  acc : Option AccPage
  va : Word
  size : Nat
  idx : Nat
deriving DecidableEq, Repr

/-- Load data on its way back; `bad` marks an uncorrectable error in it (07 R149). -/
structure LoadPkt where
  who : Who
  idx : Nat
  data : BitVec 512
  bad : Bool
deriving DecidableEq, Repr

/-- An atomic message (12 R239, R246). `red` marks a RED. `op` is the AMO fn code of the operation. -/
structure AtomPkt where
  who : Who
  source : Nat
  home : Nat
  seq : Nat
  red : Bool
  op : AmoOp
  fn : Nat
  b : Word
  c : Word
  loc : Loc
  va : Word
deriving DecidableEq, Repr

/-- A message (15 R297): header, payload, and the task it was sent for; `counted` says it counts in OSC (R237). -/
structure Msg where
  hdr : Word
  pay : List Word
  who : Who
  counted : Bool
deriving DecidableEq, Repr

/-- What an error notice is about beyond its words (19 R349), the core that sends it and its sequence number (15 R302). -/
structure NoticePkt where
  dst : Nat
  who : Who
  kind : Nat
  reason : Nat
  core : Nat
  region : Nat
  addr : Word
  sender : Nat
  seq : Nat
deriving DecidableEq, Repr

/-- An entry of a die's ready queue (16 R318): a spilled pair or a spawn, with the cycle of its creation (20 R367). -/
inductive ReadyItem where
  | pair (a b : Word)
  | spawn (gtid x3 : Word) (pcw cls aff born : Nat) (startTask : Bool)
deriving DecidableEq, Repr

/-- A ready-queue entry with its region. -/
structure ReadyEntry where
  region : Nat
  item : ReadyItem
deriving DecidableEq, Repr

/-- The origin of a LINK: the tombstone port it settles, or none when a tombstone forwarded it (14 R281, R284). -/
structure Origin where
  node : Nat
  port : Nat
deriving DecidableEq, Repr

/-- A node message naming a target port and a word (14 R283); `last` is the node unit that sent it last. -/
structure LinkPkt where
  src : Nat
  gtid : Word
  item : Nat
  slot : Nat
  region : Nat
  node : Nat
  gen : Nat
  port : Nat
  word : Word
  origin : Option Origin
  last : Nat
deriving DecidableEq, Repr

/-- A CLAIM and its reply (14 R274). `which` is 0 for the first claim sent (the lower index), 1 for the second. -/
structure ClaimPkt where
  claimer : Nat
  buf : Nat
  region : Nat
  which : Nat
  word : Word
  partner : Word
deriving DecidableEq, Repr

/-- A tombstone written at a remote owner (14 R281, R283). -/
structure TombPkt where
  src : Nat
  gtid : Word
  item : Nat
  slot : Nat
  region : Nat
  node : Nat
  ports : List Word
  out : Nat
deriving DecidableEq, Repr

/-- An acquire on its way to the Capo (05 R123). -/
structure AcqPkt where
  who : Who
  region : Nat
  guardPa : Nat
  guardVa : Word
  excl : Bool
  inPlace : Bool
  hix : Nat
  window : Nat
  wlen : Nat
  vlast : Nat
  chip : Nat
deriving DecidableEq, Repr

/-- Messages between a Capo and a core about one guard (05 R123). `n` is a count, version or status as the message
needs; `core` and `chip` name the core concerned. -/
structure GuardPkt where
  guardPa : Nat
  guardVa : Word
  region : Nat
  core : Nat
  chip : Nat
  hix : Nat
  v : Nat
  n : Nat
  window : Nat
  vlast : Nat
deriving DecidableEq, Repr

/-- How a release reaches the Capo (05 R127): the stamps it asks for. -/
inductive RelKind where
  | shared | none | all | written (sbs : List Nat) | pinned (sbs : List Nat)
deriving DecidableEq, Repr

/-- What a parked guard instruction asked of the Capo (05 R116, R117, R128, R129). -/
inductive CapoOp where
  | bind (base stamps ovfl : Nat) (nsb sblog : Nat)
  | unbind
  | gstat
  | flushed
deriving DecidableEq, Repr

/-- A barrier operation at its owner (17 R324, R326). -/
inductive BarOp where
  | init (iw : Word)
  | arrive (rb : Word)
  | wait (rb : Word)
  | arriveWait (rb : Word)
deriving DecidableEq, Repr

/-- A barrier operation or answer in flight. -/
structure BarPkt where
  who : Who
  owner : Nat
  addr : Nat
  op : BarOp
deriving DecidableEq, Repr

/-- What a die's authentication and harvest found at boot (21 R375, 16 R320). -/
structure BootDie where
  die : Nat
  live : Bool
  fused : List Nat
deriving DecidableEq, Repr

/-- The outcome of a boot as firmware and hardware report it (21 R375). -/
structure BootPkt where
  chip : Nat
  err : Nat
  dies : List BootDie
  expansion : List Nat
deriving DecidableEq, Repr

/-- One trace record (20 R364). -/
structure TraceRec where
  w0 : Word
  w1 : Word
  w2 : Word
  w3 : Word
deriving DecidableEq, Repr

/-- One scale-out frame as the receiving port sees it (22 R387, R388): the packets it carries by their messages. -/
structure FramePkt where
  port : Nat
  ethertype : Nat
  dstChip : Nat
  srcChip : Nat
  fseq : Nat
  aseq : Nat
  ackOnly : Bool
  nak : Bool
  msgs : List Msg
deriving DecidableEq, Repr

/-- Every step of the part, one constructor per row of spec/opcode_table.json, in the table's order. -/
inductive Instr where
  -- C-words (03 R70)
  | nop
  | ldb (m : Cm) | ldbu (m : Cm) | ldh (m : Cm) | ldhu (m : Cm) | ldw (m : Cm) | ldwu (m : Cm) | ldd (m : Cm)
  | stb (m : Cm) | sth (m : Cm) | stw (m : Cm) | std (m : Cm)
  | fldS (m : CmF) | fldD (m : CmF) | fstS (m : CmF) | fstD (m : CmF)
  | ldx (rd ra rb : XField) (scaled sext : BitVec 1) (size : BitVec 2)
  | stx (rd ra rb : XField) (scaled : BitVec 1) (size : BitVec 2)
  | stn (m : Cm)
  | vld (m : CmF) | vst (m : CmF)
  | vlds (vd : FField) (ra rb : XField) (mask ew : BitVec 2)
  | vsts (vd : FField) (ra rb : XField) (mask ew : BitVec 2)
  | vgath (vd : FField) (ra : XField) (vi : FField) (mask ew : BitVec 2)
  | vscat (vd : FField) (ra : XField) (vi : FField) (mask ew : BitVec 2)
  | amo (rd ra rb : XField) (op : AmoOp) | amoAq (rd ra rb : XField) (op : AmoOp)
  | amoRl (rd ra rb : XField) (op : AmoOp) | amoAr (rd ra rb : XField) (op : AmoOp)
  | red (ra rb : XField) (op : RedOp) | redRl (ra rb : XField) (op : RedOp)
  | fence (ra : XField)
  | waitr (file : BitVec 2) (rd ra rb : XField)
  | b (off : BitVec 22) | bl (off : BitVec 22) | bp (p : PField) (n : BitVec 1) (off : BitVec 18)
  | jr (rd ra : XField)
  | cpy (rd ra : XField) | cpy2 (rd ra : XField)
  | bind (rd ra rb : XField) | unbind (rd ra : XField)
  | acqX (rd ra rb : XField) | acqS (rd ra rb : XField) | acqXi (rd ra rb : XField) | acqSi (rd ra rb : XField)
  | rel (rd ra : XField) | relW (rd ra : XField) | gflush (rd ra : XField) | gstat (rd ra : XField)
  | rowact (ra : XField) | rowuse (ra rb : XField) | rowclose (ra : XField) | rowstat (rd ra : XField)
  | barinit (rd ra rb : XField) | bararr (rd ra rb : XField) | barwait (rd ra rb : XField) | bararw (rd ra rb : XField)
  | loopinit (rd ra rb : XField) | getchunk (rd ra : XField)
  | spawn (rd ra rb : XField) | join (rd ra : XField)
  | tail | yield
  | tagen (ra : XField) | tagdis (ra : XField) | tagpend (rd : XField) | tagclr (rd ra : XField) | tagtest (rd ra : XField)
  | nport (rd ra : XField) | npay (rd ra : XField) | nnew (rd ra rb : XField) | nset (rd ra : XField)
  | nsetp (rd ra rb : XField) | nlink (ra rb : XField) | npush (ra rb : XField)
  | gangform (rd ra rb : XField) | gangwait (rd : XField) | disband (rd : XField)
  | pairon (rd ra : XField) | pairoff (rd : XField)
  | srrd (rd : XField) (sr : BitVec 12) | srwr (rs : XField) (sr : BitVec 12)
  | srset (rs : XField) (sr : BitVec 12) | srclr (rs : XField) (sr : BitVec 12)
  | trap (ra : XField) (imm : BitVec 10)
  | tctxrd (rd ra rb : XField) | tctxwr (rd ra rb : XField) | tresume (rd ra rb : XField) | tkill (rd ra : XField)
  | tpreempt (rd ra rb : XField)
  | bkpt | trace (ra : XField)
  -- A-words (03 R71)
  | anop
  | add (rd ra rb : XField) | sub (rd ra rb : XField) | mul (rd ra rb : XField) | mulhSs (rd ra rb : XField)
  | mulhUu (rd ra rb : XField) | mulhSu (rd ra rb : XField) | div (rd ra rb : XField) | divu (rd ra rb : XField)
  | rem (rd ra rb : XField) | remu (rd ra rb : XField) | and (rd ra rb : XField) | or (rd ra rb : XField)
  | xor (rd ra rb : XField) | andn (rd ra rb : XField) | sll (rd ra rb : XField) | srl (rd ra rb : XField)
  | sra (rd ra rb : XField) | rol (rd ra rb : XField) | ror (rd ra rb : XField) | slt (rd ra rb : XField)
  | sltu (rd ra rb : XField) | min (rd ra rb : XField) | max (rd ra rb : XField) | minu (rd ra rb : XField)
  | maxu (rd ra rb : XField) | clz (rd ra : XField) | ctz (rd ra : XField) | popc (rd ra : XField)
  | bswap (rd ra : XField) | sext (rd ra : XField) (w : ExtW) | zext (rd ra : XField) (w : ExtW)
  | addi (rd ra : XField) (imm : BitVec 13) | andi (rd ra : XField) (imm : BitVec 13)
  | ori (rd ra : XField) (imm : BitVec 13) | xori (rd ra : XField) (imm : BitVec 13)
  | slli (rd ra : XField) (n : BitVec 6) | srli (rd ra : XField) (n : BitVec 6) | srai (rd ra : XField) (n : BitVec 6)
  | slti (rd ra : XField) (imm : BitVec 12) | sltiu (rd ra : XField) (imm : BitVec 12)
  | movi (rd : XField) (imm : BitVec 19) | movhi (rd : XField) (imm : BitVec 19)
  | bfx (rd ra : XField) (pos wm1 : BitVec 6) | bfi (rd ra : XField) (pos wm1 : BitVec 6)
  | cmp (pd : PField) (ra rb : XField) (c : BitVec 3) | cmpi (pd : PField) (ra : XField) (c : BitVec 3) (imm : BitVec 10)
  | sel (rd ra rb : XField) (p : PField) (inv : BitVec 1) | plog (pd pa pb : PField) (tt : BitVec 4)
  | addsh (rd ra rb : XField) (n : BitVec 6)
  | fadd (fmt : Fmt) (rm : BitVec 3) (fd fa fb : FField) | fsub (fmt : Fmt) (rm : BitVec 3) (fd fa fb : FField)
  | fmul (fmt : Fmt) (rm : BitVec 3) (fd fa fb : FField) | fdiv (fmt : Fmt) (rm : BitVec 3) (fd fa fb : FField)
  | fsqrt (fmt : Fmt) (rm : BitVec 3) (fd fa : FField)
  | fma (fmt : Fmt) (rm : BitVec 3) (fd fa fb fc : FField) | fms (fmt : Fmt) (rm : BitVec 3) (fd fa fb fc : FField)
  | fnma (fmt : Fmt) (rm : BitVec 3) (fd fa fb fc : FField) | fnms (fmt : Fmt) (rm : BitVec 3) (fd fa fb fc : FField)
  | fminmax (fmt : Fmt) (v : BitVec 3) (fd fa fb : FField) | fsgn (fmt : Fmt) (v : BitVec 3) (fd fa fb : FField)
  | fcmp (fmt : Fmt) (c : BitVec 3) (pd : PField) (fa fb : FField) | fclass (fmt : Fmt) (rd : XField) (fs : FField)
  | fcvt (dst src : Fmt) (rm : BitVec 3) (fd fa : FField)
  | fcvti (fmt : Fmt) (rm : BitVec 3) (toF : BitVec 1) (ty : BitVec 2) (x : XField) (f : FField)
  | fmv (fmt : Fmt) (toF : BitVec 1) (x : XField) (f : FField)
  | vint (a : Av) | vfp (a : Av) | vfma (a : Av) | vcmp (a : Av) | vfcmp (a : Av) | vsel (a : Av) | vred (a : Av)
  | vdot (a : Av) | vcvt (a : Av) | vperm (a : Av) | vslide (a : Av) | vbcast (a : Av)
  | vmovx (x : XField) (v : FField) (e : BitVec 6) (ew : BitVec 2) (fn : BitVec 5)
  | vmask (a : Av) | vscale (a : Av) | viota (a : Av) | vxch (a : Av)
  | mmaD (a : Am) | mmaS (a : Am) | mmaH (a : Am) | mmaBf (a : Am) | mmaE4 (a : Am) | mmaE4E5 (a : Am)
  | mmaE5E4 (a : Am) | mmaE5 (a : Am) | mmaF4 (a : Am) | mmaE4F4 (a : Am) | mmaI8 (a : Am)
  -- queue steps of the bundle being executed (11 R229)
  | q0Push (v : Word) | q1Push (v : Word) | q2Push (v : Word) | q1Pop | q3Pop | q4Push (v : Word) | q5Push (v : Word)
  | q6Pop | q7Pop | q8Pop | q9Push (v : Word) | q10Push (v : Word) | q11Pop | q12Push (v : Word) | q13Pop
  -- special-register steps of the bundle being executed, and their completions (18 R345)
  | tlbinvPage (vpn : BitVec 44) | tlbinvRegion | tlbinvEveryRegion | tlbInvalidationDone (core : Nat)
  | holdrel (vpn : BitVec 44) | holdReleaseDone (core : Nat)
  | ctreq (v : Word) | connectionTableSwitch (core : Nat) | circuitRetrained (core : Nat)
  | mxlotWrite (v : Word) | rqlotWrite (v : Word) | fpctlWrite (v : Word) | pwrcapWrite (v : Word)
  | l2prdRead (rd : XField) | registerWrite (page : Bool) (n : BitVec 12) (v : Word) | alogcntClear (region : Nat)
  -- tasks and ready queues (15, 16)
  | dispatch (core : Nat) | readyQueuePull (core : Nat) | spawnPlace (die : Nat) (who : Option Who) (e : ReadyEntry)
  | stealTimer (die : Nat) | stealRequest (thief victim : Nat) | stealAnswer (thief : Nat) (es : List ReadyEntry)
  -- interaction nets (14)
  | bagPop (core : Nat) | claim (k : ClaimPkt) | claimReply (k : ClaimPkt) (node : Option (List Word))
  | release (k : ClaimPkt) | tomb (t : TombPkt) | link (l : LinkPkt) | defer (claimer : Nat) (l : LinkPkt)
  | redefer (l : LinkPkt) | ack (l : LinkPkt) | settle (l : LinkPkt) (expect : Bool)
  -- messages, notices, atomics (12, 15, 19)
  | messageArrive (m : Msg) | bounce (m : Msg) (reason : Nat) | messageStatus (who : Who) (w : Word)
  | errorNotice (n : NoticePkt) | atomicMessage (a : AtomPkt) | stnMessage (w : WritePkt)
  | amoReturn (who : Who) (v : Word) | scaleOutAtomic (chip core : Nat) (a : AtomPkt)
  -- memory traffic (07, 12, 21)
  | remoteWrite (w : WritePkt) | writeAck (who : Who) | remoteRead (r : ReadPkt) | loadReply (l : LoadPkt)
  | backInvalidateResponse (die ctl line : Nat) (data : List Byte) | expanderSnoop (port addr : Nat)
  | hostMemoryAccess (pa : Nat) (write : Option (List Byte)) (len : Nat) (cached : Bool)
  | hostMessageWrite (off : Nat) (words : List Word) | hrheadWrite (v : Word)
  | attest (region : Nat) | keyload (region : Nat) (dbg : Bool) | keyfree (region slot : Nat)
  | securityRequestDone (result rslot : Nat)
  -- completions inside the core (08, 11, 13, 07)
  | fenceComplete (core slot : Nat) | dividerStart (core : Nat) | dividerResult (core : Nat)
  | sfuStart (cluster : Nat) | sfuResult (core slot : Nat) | copyStart (id : Nat) | copyComplete (id : Nat)
  -- guards (05)
  | acqreq (a : AcqPkt) | grant (g : GuardPkt) (status : Nat) (poison : Bool) (a : AcqPkt) | pull (g : GuardPkt) (inPlace : Bool)
  | forward (g : GuardPkt) (recipient : Nat) (inPlace : Bool) | fwddone (g : GuardPkt) (sent lost : Nat)
  | done (g : GuardPkt) (status : Nat)
  | unpin (g : GuardPkt) | guardRelease (who : Who) (g : GuardPkt) (r : RelKind)
  | guardAnswer (who : Who) (g : GuardPkt) (w : Word) | guardHomeTimeout (who : Who) (g : GuardPkt)
  | forwardTimeout (g : GuardPkt)
  -- Harp (06)
  | bankReady (cluster bank : Nat) | prechargeEnd (cluster bank : Nat) | refreshWindow (cluster bank : Nat)
  | refreshEnd (cluster bank : Nat) | autoClose (cluster bank : Nat) | rowTransfer (cluster slot : Nat) (tag : Nat)
  | deferredClose (cluster bank : Nat) | rowstatStatus (who : Who) (w : Word)
  -- matrix engine (10)
  | mmaAccept (cluster : Nat) | rowBlockComplete (cluster : Nat) | dutyIdleEnd (cluster : Nat)
  -- barriers and the loop unit (17)
  | barrierOperation (k : BarPkt) | barrierAnswer (who : Who) (w : Word) | barrierRelease (who : Who) (w : Word)
  | staggerExpiry (who : Who) (w : Word) | barrierBoundExpiry (who : Who) | barrierCancel (who : Who) (owner addr : Nat)
  | getchunkResult (who : Who) (counter : Nat)
  -- gangs, stops, regions (09, 18, 16)
  | gangForms (core : Nat) | gangformTimeout (core : Nat) | taskStop (core slot : Nat)
  | start (m : Msg) | kill (m : Msg) | regionComplete (region : Nat)
  -- reliability and pairs (19)
  | coreSeal (core : Nat) | sramScrub (core addr : Nat) (bad : Bool) | dramScrub (pa : Nat) (bad : Bool)
  | intervalClose (core : Nat) | fingerprintExchange (core : Nat)
  -- trace and replay (20)
  | traceRecordWrite (die : Nat) (r : TraceRec) | replayTimeout (die core : Nat)
  -- package network, scale-out, power, boot (22, 21)
  | flitReceive (flight : Nat) (crcOk : Bool) | outputSpill (die ep : Nat) | spillDrain (die ep : Nat)
  | calibrationPause (die ep : Nat) | calibrationEnd (die ep : Nat) | frameReceive (f : FramePkt)
  | retransmitTimeout (port : Nat) | portDown (port : Nat) | chipUnreachable (chip : Nat)
  | governorTick (watts : Nat) | telemetrySample (pkg : Nat) (die : List Nat) | packageReset (k : BootPkt)
  | capoOperation (who : Who) (g : GuardPkt) (op : CapoOp) | contextReadBack (core slot : Nat) (ctx : Nat)
  | portTraining (port chip : Nat)
deriving DecidableEq, Repr

/-- The machine steps that the part itself schedules: items in flight, timed events and the actions of its units. Each is
the step of Instr of the same name (Laws/Events.lean). -/
inductive Event where
  | tlbInvalidationDone (core : Nat) | holdReleaseDone (core : Nat) | connectionTableSwitch (core : Nat)
  | circuitRetrained (core : Nat) | alogcntClear (region : Nat) | dispatch (core : Nat) | readyQueuePull (core : Nat)
  | spawnPlace (die : Nat) (who : Option Who) (e : ReadyEntry) | stealTimer (die : Nat)
  | stealRequest (thief victim : Nat) | stealAnswer (thief : Nat) (es : List ReadyEntry) | bagPop (core : Nat)
  | claim (k : ClaimPkt) | claimReply (k : ClaimPkt) (node : Option (List Word)) | release (k : ClaimPkt)
  | tomb (t : TombPkt) | link (l : LinkPkt) | defer (claimer : Nat) (l : LinkPkt) | redefer (l : LinkPkt)
  | ack (l : LinkPkt) | settle (l : LinkPkt) (expect : Bool) | messageArrive (m : Msg)
  | bounce (m : Msg) (reason : Nat) | messageStatus (who : Who) (w : Word) | errorNotice (n : NoticePkt)
  | atomicMessage (a : AtomPkt) | stnMessage (w : WritePkt) | amoReturn (who : Who) (v : Word)
  | scaleOutAtomic (chip core : Nat) (a : AtomPkt) | remoteWrite (w : WritePkt) | writeAck (who : Who)
  | remoteRead (r : ReadPkt) | loadReply (l : LoadPkt) | securityRequestDone (result rslot : Nat)
  | fenceComplete (core slot : Nat) | dividerStart (core : Nat) | dividerResult (core : Nat)
  | sfuStart (cluster : Nat) | sfuResult (core slot : Nat) | copyStart (id : Nat) | copyComplete (id : Nat)
  | acqreq (a : AcqPkt) | grant (g : GuardPkt) (status : Nat) (poison : Bool) (a : AcqPkt)
  | pull (g : GuardPkt) (inPlace : Bool) | forward (g : GuardPkt) (recipient : Nat) (inPlace : Bool)
  | fwddone (g : GuardPkt) (sent lost : Nat) | done (g : GuardPkt) (status : Nat) | unpin (g : GuardPkt)
  | guardRelease (who : Who) (g : GuardPkt) (r : RelKind) | guardAnswer (who : Who) (g : GuardPkt) (w : Word)
  | guardHomeTimeout (who : Who) (g : GuardPkt) | forwardTimeout (g : GuardPkt) | bankReady (cluster bank : Nat)
  | prechargeEnd (cluster bank : Nat) | refreshWindow (cluster bank : Nat) | refreshEnd (cluster bank : Nat)
  | autoClose (cluster bank : Nat) | rowTransfer (cluster slot : Nat) (tag : Nat)
  | deferredClose (cluster bank : Nat) | rowstatStatus (who : Who) (w : Word) | mmaAccept (cluster : Nat)
  | rowBlockComplete (cluster : Nat) | dutyIdleEnd (cluster : Nat) | barrierOperation (k : BarPkt)
  | barrierAnswer (who : Who) (w : Word) | barrierRelease (who : Who) (w : Word)
  | staggerExpiry (who : Who) (w : Word) | barrierBoundExpiry (who : Who)
  | barrierCancel (who : Who) (owner addr : Nat) | getchunkResult (who : Who) (counter : Nat)
  | gangForms (core : Nat) | gangformTimeout (core : Nat) | taskStop (core slot : Nat) | start (m : Msg)
  | kill (m : Msg) | regionComplete (region : Nat) | coreSeal (core : Nat) | intervalClose (core : Nat)
  | fingerprintExchange (core : Nat) | traceRecordWrite (die : Nat) (r : TraceRec) | replayTimeout (die core : Nat)
  | outputSpill (die ep : Nat) | spillDrain (die ep : Nat) | calibrationPause (die ep : Nat)
  | calibrationEnd (die ep : Nat) | frameReceive (f : FramePkt) | retransmitTimeout (port : Nat)
  | portDown (port : Nat) | chipUnreachable (chip : Nat) | governorTick (watts : Nat)
  | telemetrySample (pkg : Nat) (die : List Nat) | capoOperation (who : Who) (g : GuardPkt) (op : CapoOp)
  | contextReadBack (core slot : Nat) (ctx : Nat)
deriving DecidableEq, Repr

end Sys2Proof
end

