-- ==== Sys2Proof/WellFormed.lean ====
section
/-! DEFINITION. Well-formed instructions: the operand codes the spec assigns. Every other code of a field raises the
illegal-instruction trap (03 R65, R72). Whether a register may be a queue register, and whether the core may run the
instruction, is judged when the bundle would issue (03 R68, R72). -/

namespace Sys2Proof

/-- Elements of a vector register at an ew code (09 R185). -/
def elems (ew : BitVec 2) : Nat := 64 / 2 ^ ew.toNat

/-- A rounding-mode code other than 0b110 and 0b111 (02 R35). -/
def rmOk (rm : BitVec 3) : Bool := decide (rm.toNat < 6)

/-- The variant bit at an element width: free at 8 and 16 bits, zero above (09 R185). -/
def variantOk (ew : BitVec 2) (v : Bool) : Bool := decide (ew.toNat < 2) || !v

/-- A saturate bit is permitted at 8 bits only. -/
def satOk (ew : BitVec 2) (v : Bool) : Bool := decide (ew.toNat = 0) || !v

/-- The ratio k of a VCVT code: wider width over narrower (09 R195). -/
def vcvtRatio (fn : Nat) : Nat :=
  match fn with
  | 6 | 7 | 24 | 25 | 26 | 27 | 30 | 31 => 1
  | 14 | 15 | 16 | 17 | 18 | 19 | 22 | 23 | 28 | 29 => 4
  | _ => 2

/-- VCVT codes with an E4M3 or E5M2 destination. -/
def vcvtSatDst (fn : Nat) : Bool :=
  match fn with
  | 9 | 11 | 13 | 15 | 17 | 20 => true
  | _ => false

/-- A WAITR register field: an x register below 48, or for f and v a register or exactly "none" (18 R344). -/
def waitrField (file : BitVec 2) (r : XField) : Bool :=
  if file.toNat = 0 then decide (r.toNat < 48) else decide (r.toNat ≤ 32)

/-- An MMA that carries tensor scales, and whether its form may (10 R210). -/
def mmaOk (scaled : Bool) (a : Am) : Bool :=
  if a.ts.toNat = 0 then decide (a.fs.toNat = 0) else scaled && decide (a.fs.toNat ≠ 31)

/-- Vector operand codes (09 R188-R200, R205). -/
def vintOk (a : Av) : Bool := decide (a.fn.toNat ≤ 20)

def vfpOk (a : Av) : Bool :=
  decide (a.fn.toNat % 8 ≠ 7) && (decide (a.fn.toNat % 8 < 5) || decide (a.vb.toNat = 0)) &&
    variantOk a.ew (a.fn.getLsbD 3) && satOk a.ew (a.fn.getLsbD 4)

def vfmaOk (a : Av) : Bool :=
  !a.fn.getLsbD 2 && variantOk a.ew (a.fn.getLsbD 3) && satOk a.ew (a.fn.getLsbD 4)

def vcmpOk (a : Av) : Bool := decide (a.fn.toNat < 6)

def vfcmpOk (a : Av) : Bool :=
  !a.fn.getLsbD 4 && decide (a.fn.toNat % 8 < 6) && variantOk a.ew (a.fn.getLsbD 3)

def vselOk (a : Av) : Bool := decide (a.vm.toNat ≠ 0) && decide (a.mu.toNat = 0) && decide (a.fn.toNat = 0)

def vredOk (a : Av) : Bool :=
  if a.fn.getLsbD 4 then decide (a.fn.toNat % 8 ≤ 2) && variantOk a.ew (a.fn.getLsbD 3) else !a.fn.getLsbD 3

def vdotOk (a : Av) : Bool :=
  decide (a.ew.toNat < 2) && !a.fn.getLsbD 4 && (a.fn.getLsbD 2 || !a.fn.getLsbD 3)

def vcvtOk (a : Av) : Bool :=
  decide (a.vb.toNat % 8 < 6) && decide (a.vb.toNat / 8 < vcvtRatio a.fn.toNat) &&
    (vcvtSatDst a.fn.toNat || !a.ew.getLsbD 1) && (decide (24 ≤ a.fn.toNat) || !a.ew.getLsbD 0)

def vpermOk (a : Av) : Bool := decide (a.fn.toNat = 0)

def vslideOk (a : Av) : Bool := decide (a.fn.toNat < 4)

def vbcastOk (a : Av) : Bool := decide (a.fn.toNat < 2) && decide (a.fn.toNat * 32 + a.vb.toNat < elems a.ew)

def vmovxOk (e : BitVec 6) (ew : BitVec 2) (fn : BitVec 5) : Bool :=
  decide (fn.toNat < 4) && decide (e.toNat < elems ew) && (decide (fn.toNat ≠ 3) || decide (e.toNat = 0))

def vmaskOk (a : Av) : Bool :=
  !a.fn.getLsbD 4 && decide (a.vm.toNat = 0) && decide (a.mu.toNat = 0) && decide (a.ew.toNat = 0)

def vscaleOk (a : Av) : Bool :=
  !a.fn.getLsbD 4 && variantOk a.ew (a.fn.getLsbD 2) && satOk a.ew (a.fn.getLsbD 3)

def viotaOk (a : Av) : Bool :=
  decide (a.fn.toNat < 2) && decide (a.vb.toNat = 0) && (decide (a.fn.toNat = 1) || decide (a.va.toNat = 0))

def vxchOk (a : Av) : Bool := decide (a.fn.toNat < 3) && decide (a.vb.toNat < 8)

/-- Whether an instruction's operand codes are assigned. Machine steps carry no codes. -/
def wellFormed (i : Instr) : Bool :=
  match i with
  | .ldx _ _ _ _ sext size => !(decide (sext.toNat = 1) && decide (size.toNat = 3))
  | .waitr file rd ra rb =>
    decide (file.toNat ≠ 3) && waitrField file rd && waitrField file ra && waitrField file rb
  | .bfx _ _ pos wm1 => decide (pos.toNat + wm1.toNat < 64)
  | .bfi _ _ pos wm1 => decide (pos.toNat + wm1.toNat < 64)
  | .cmp _ _ _ c => decide (c.toNat < 6)
  | .cmpi _ _ c _ => decide (c.toNat < 6)
  | .fadd _ rm _ _ _ => rmOk rm
  | .fsub _ rm _ _ _ => rmOk rm
  | .fmul _ rm _ _ _ => rmOk rm
  | .fdiv _ rm _ _ _ => rmOk rm
  | .fsqrt _ rm _ _ => rmOk rm
  | .fma _ rm _ _ _ _ => rmOk rm
  | .fms _ rm _ _ _ _ => rmOk rm
  | .fnma _ rm _ _ _ _ => rmOk rm
  | .fnms _ rm _ _ _ _ => rmOk rm
  | .fminmax _ v _ _ _ => decide (v.toNat < 4)
  | .fsgn _ v _ _ fb => decide (v.toNat < 3) || (decide (v.toNat < 5) && decide (fb.toNat = 0))
  | .fcmp _ c _ _ _ => decide (c.toNat < 6)
  | .fcvt _ _ rm _ _ => rmOk rm
  | .fcvti _ rm _ _ _ _ => rmOk rm
  | .vint a => vintOk a
  | .vfp a => vfpOk a
  | .vfma a => vfmaOk a
  | .vcmp a => vcmpOk a
  | .vfcmp a => vfcmpOk a
  | .vsel a => vselOk a
  | .vred a => vredOk a
  | .vdot a => vdotOk a
  | .vcvt a => vcvtOk a
  | .vperm a => vpermOk a
  | .vslide a => vslideOk a
  | .vbcast a => vbcastOk a
  | .vmovx _ _ e ew fn => vmovxOk e ew fn
  | .vmask a => vmaskOk a
  | .vscale a => vscaleOk a
  | .viota a => viotaOk a
  | .vxch a => vxchOk a
  | .mmaD a => mmaOk false a
  | .mmaS a => mmaOk false a
  | .mmaH a => mmaOk false a
  | .mmaBf a => mmaOk false a
  | .mmaE4 a => mmaOk true a
  | .mmaE4E5 a => mmaOk true a
  | .mmaE5E4 a => mmaOk true a
  | .mmaE5 a => mmaOk true a
  | .mmaF4 a => mmaOk true a
  | .mmaE4F4 a => mmaOk true a
  | .mmaI8 a => mmaOk false a
  | _ => true

end Sys2Proof
end

