-- ==== Sys2Proof/Decode.lean ====
section
/-! DEFINITION. Decoding and encoding of bundles and words (spec 03 R56-R58, R61-R72, R162-R183, 09 R195, R199, 10 R210).
A word's fields are read by the tables of R70 and R71; a word is accepted exactly when it is the encoding of the
instruction read and that instruction's codes are assigned (R65): so every unused field must be zero. -/

namespace Sys2Proof

/-- Bits [lo+n-1:lo] of a word. -/
def fld (w lo n : Nat) : BitVec n := BitVec.ofNat n (w / 2 ^ lo)

/-- Register fields of the C formats (R61). -/
def rdOf (w : Nat) : XField := fld w 16 6

def raOf (w : Nat) : XField := fld w 10 6

def rbOf (w : Nat) : XField := fld w 4 6

/-- Register fields of the A formats (R64). -/
def ardOf (w : Nat) : XField := fld w 19 6

def araOf (w : Nat) : XField := fld w 13 6

def arbOf (w : Nat) : XField := fld w 7 6

def cmOf (w : Nat) : Cm := ⟨rdOf w, raOf w, fld w 7 3, fld w 0 7⟩

def cmfOf (w : Nat) : CmF := ⟨fld w 16 5, raOf w, fld w 7 3, fld w 0 7⟩

def avOf (w : Nat) : Av := ⟨fld w 20 5, fld w 15 5, fld w 10 5, fld w 8 2, fld w 7 1, fld w 5 2, fld w 0 5⟩

def amOf (w : Nat) : Am := ⟨fld w 19 6, fld w 13 6, fld w 7 6, fld w 2 5, fld w 0 1⟩

/-- The formats of R61 as words without L, S and G. -/
def cr (maj rd ra rb fn : Nat) : Nat := maj * 2 ^ 22 + rd * 2 ^ 16 + ra * 2 ^ 10 + rb * 2 ^ 4 + fn

def cj (maj off : Nat) : Nat := maj * 2 ^ 22 + off

def cs (maj rd sr fn : Nat) : Nat := maj * 2 ^ 22 + rd * 2 ^ 16 + sr * 2 ^ 4 + fn

def cmWord (maj : Nat) (m : Cm) : Nat :=
  maj * 2 ^ 22 + m.rd.toNat * 2 ^ 16 + m.ra.toNat * 2 ^ 10 + m.p.toNat * 2 ^ 7 + m.imm.toNat

def cmfWord (maj wide : Nat) (m : CmF) : Nat :=
  maj * 2 ^ 22 + wide * 2 ^ 21 + m.fd.toNat * 2 ^ 16 + m.ra.toNat * 2 ^ 10 + m.p.toNat * 2 ^ 7 + m.imm.toNat

/-- The formats of R64. -/
def ar (maj rd ra rb fn : Nat) : Nat := maj * 2 ^ 25 + rd * 2 ^ 19 + ra * 2 ^ 13 + rb * 2 ^ 7 + fn

def ai (maj rd ra imm : Nat) : Nat := maj * 2 ^ 25 + rd * 2 ^ 19 + ra * 2 ^ 13 + imm

def au (maj rd imm : Nat) : Nat := maj * 2 ^ 25 + rd * 2 ^ 19 + imm

/-- fmt codes (R64). -/
def fmtCode : Fmt → Nat
  | .d => 0
  | .s => 1
  | .h => 2
  | .bf => 3

def fmtDec (n : Nat) : Fmt :=
  match n with
  | 0 => .d
  | 1 => .s
  | 2 => .h
  | _ => .bf

def fmtOf (w : Nat) : Fmt := fmtDec (w / 2 ^ 3 % 4)

def af (maj fd fa fb fc : Nat) (f : Fmt) (rm : Nat) : Nat :=
  maj * 2 ^ 25 + fd * 2 ^ 20 + fa * 2 ^ 15 + fb * 2 ^ 10 + fc * 2 ^ 5 + fmtCode f * 2 ^ 3 + rm

/-- The mixed layout of R175. -/
def amix (maj x f sub : Nat) (fm : Fmt) (rm : Nat) : Nat :=
  maj * 2 ^ 25 + x * 2 ^ 19 + f * 2 ^ 10 + sub * 2 ^ 5 + fmtCode fm * 2 ^ 3 + rm

def avWord (maj : Nat) (a : Av) : Nat :=
  maj * 2 ^ 25 + a.vd.toNat * 2 ^ 20 + a.va.toNat * 2 ^ 15 + a.vb.toNat * 2 ^ 10 + a.vm.toNat * 2 ^ 8 +
    a.mu.toNat * 2 ^ 7 + a.ew.toNat * 2 ^ 5 + a.fn.toNat

def amWord (maj : Nat) (a : Am) : Nat :=
  maj * 2 ^ 25 + a.xd.toNat * 2 ^ 19 + a.xa.toNat * 2 ^ 13 + a.xb.toNat * 2 ^ 7 + a.fs.toNat * 2 ^ 2 + a.ts.toNat

/-- AMO and RED function codes (R70). -/
def amoCode : AmoOp → Nat
  | .add => 0
  | .swap => 1
  | .cas => 2
  | .min => 3
  | .max => 4
  | .minu => 5
  | .maxu => 6
  | .and => 7
  | .or => 8
  | .xor => 9
  | .faddD => 10
  | .faddS => 11

def amoOf (n : Nat) : Option AmoOp :=
  match n with
  | 0 => some .add
  | 1 => some .swap
  | 2 => some .cas
  | 3 => some .min
  | 4 => some .max
  | 5 => some .minu
  | 6 => some .maxu
  | 7 => some .and
  | 8 => some .or
  | 9 => some .xor
  | 10 => some .faddD
  | 11 => some .faddS
  | _ => none

def redCode : RedOp → Nat
  | .add => 0
  | .min => 1
  | .max => 2
  | .and => 3
  | .or => 4
  | .xor => 5
  | .faddD => 6
  | .faddS => 7

def redOf (n : Nat) : Option RedOp :=
  match n with
  | 0 => some .add
  | 1 => some .min
  | 2 => some .max
  | 3 => some .and
  | 4 => some .or
  | 5 => some .xor
  | 6 => some .faddD
  | 7 => some .faddS
  | _ => none

/-- Width codes of SEXT and ZEXT (R162). -/
def extCode : ExtW → Nat
  | .b => 0
  | .h => 1
  | .w => 2

def extOf (n : Nat) : Option ExtW :=
  match n with
  | 0 => some .b
  | 1 => some .h
  | 2 => some .w
  | _ => none

/-- Bits [27:0] of a C-word: major and operands (R57, R70); none for an instruction that is no C-word. -/
def encodeC (i : Instr) : Option Nat :=
  match i with
  | .nop => some (cj 0x00 0)
  | .ldb m => some (cmWord 0x01 m)
  | .ldbu m => some (cmWord 0x02 m)
  | .ldh m => some (cmWord 0x03 m)
  | .ldhu m => some (cmWord 0x04 m)
  | .ldw m => some (cmWord 0x05 m)
  | .ldwu m => some (cmWord 0x06 m)
  | .ldd m => some (cmWord 0x07 m)
  | .stb m => some (cmWord 0x08 m)
  | .sth m => some (cmWord 0x09 m)
  | .stw m => some (cmWord 0x0A m)
  | .std m => some (cmWord 0x0B m)
  | .fldS m => some (cmfWord 0x0C 0 m)
  | .fldD m => some (cmfWord 0x0C 1 m)
  | .fstS m => some (cmfWord 0x0D 0 m)
  | .fstD m => some (cmfWord 0x0D 1 m)
  | .ldx rd ra rb sc se sz => some (cr 0x0E rd.toNat ra.toNat rb.toNat (sc.toNat * 8 + se.toNat * 4 + sz.toNat))
  | .stx rd ra rb sc sz => some (cr 0x0F rd.toNat ra.toNat rb.toNat (sc.toNat * 8 + sz.toNat))
  | .stn m => some (cmWord 0x10 m)
  | .vld m => some (cmfWord 0x12 0 m)
  | .vst m => some (cmfWord 0x13 0 m)
  | .vlds vd ra rb mk ew => some (cr 0x14 vd.toNat ra.toNat rb.toNat (mk.toNat * 4 + ew.toNat))
  | .vsts vd ra rb mk ew => some (cr 0x15 vd.toNat ra.toNat rb.toNat (mk.toNat * 4 + ew.toNat))
  | .vgath vd ra vi mk ew => some (cr 0x16 vd.toNat ra.toNat vi.toNat (mk.toNat * 4 + ew.toNat))
  | .vscat vd ra vi mk ew => some (cr 0x17 vd.toNat ra.toNat vi.toNat (mk.toNat * 4 + ew.toNat))
  | .amo rd ra rb op => some (cr 0x18 rd.toNat ra.toNat rb.toNat (amoCode op))
  | .amoAq rd ra rb op => some (cr 0x19 rd.toNat ra.toNat rb.toNat (amoCode op))
  | .amoRl rd ra rb op => some (cr 0x1A rd.toNat ra.toNat rb.toNat (amoCode op))
  | .amoAr rd ra rb op => some (cr 0x1B rd.toNat ra.toNat rb.toNat (amoCode op))
  | .red ra rb op => some (cr 0x1C 0 ra.toNat rb.toNat (redCode op))
  | .redRl ra rb op => some (cr 0x1D 0 ra.toNat rb.toNat (redCode op))
  | .fence ra => some (cr 0x1E 0 ra.toNat 0 0)
  | .waitr fl rd ra rb => some (cr 0x1F rd.toNat ra.toNat rb.toNat fl.toNat)
  | .b off => some (cj 0x20 off.toNat)
  | .bl off => some (cj 0x21 off.toNat)
  | .bp p n off => some (cj 0x22 (p.toNat * 2 ^ 19 + n.toNat * 2 ^ 18 + off.toNat))
  | .jr rd ra => some (cr 0x23 rd.toNat ra.toNat 0 0)
  | .cpy rd ra => some (cr 0x24 rd.toNat ra.toNat 0 0)
  | .cpy2 rd ra => some (cr 0x25 rd.toNat ra.toNat 0 0)
  | .bind rd ra rb => some (cr 0x26 rd.toNat ra.toNat rb.toNat 0)
  | .unbind rd ra => some (cr 0x27 rd.toNat ra.toNat 0 0)
  | .acqX rd ra rb => some (cr 0x28 rd.toNat ra.toNat rb.toNat 0)
  | .acqS rd ra rb => some (cr 0x28 rd.toNat ra.toNat rb.toNat 1)
  | .acqXi rd ra rb => some (cr 0x28 rd.toNat ra.toNat rb.toNat 2)
  | .acqSi rd ra rb => some (cr 0x28 rd.toNat ra.toNat rb.toNat 3)
  | .rel rd ra => some (cr 0x29 rd.toNat ra.toNat 0 0)
  | .relW rd ra => some (cr 0x29 rd.toNat ra.toNat 0 1)
  | .gflush rd ra => some (cr 0x2A rd.toNat ra.toNat 0 0)
  | .gstat rd ra => some (cr 0x2B rd.toNat ra.toNat 0 0)
  | .rowact ra => some (cr 0x2C 0 ra.toNat 0 0)
  | .rowuse ra rb => some (cr 0x2D 0 ra.toNat rb.toNat 0)
  | .rowclose ra => some (cr 0x2E 0 ra.toNat 0 0)
  | .rowstat rd ra => some (cr 0x2F rd.toNat ra.toNat 0 0)
  | .barinit rd ra rb => some (cr 0x30 rd.toNat ra.toNat rb.toNat 0)
  | .bararr rd ra rb => some (cr 0x30 rd.toNat ra.toNat rb.toNat 1)
  | .barwait rd ra rb => some (cr 0x30 rd.toNat ra.toNat rb.toNat 2)
  | .bararw rd ra rb => some (cr 0x30 rd.toNat ra.toNat rb.toNat 3)
  | .loopinit rd ra rb => some (cr 0x31 rd.toNat ra.toNat rb.toNat 0)
  | .getchunk rd ra => some (cr 0x31 rd.toNat ra.toNat 0 1)
  | .spawn rd ra rb => some (cr 0x32 rd.toNat ra.toNat rb.toNat 0)
  | .join rd ra => some (cr 0x33 rd.toNat ra.toNat 0 0)
  | .tail => some (cj 0x34 0)
  | .yield => some (cj 0x35 0)
  | .tagen ra => some (cr 0x36 0 ra.toNat 0 0)
  | .tagdis ra => some (cr 0x36 0 ra.toNat 0 1)
  | .tagpend rd => some (cr 0x36 rd.toNat 0 0 2)
  | .tagclr rd ra => some (cr 0x36 rd.toNat ra.toNat 0 3)
  | .tagtest rd ra => some (cr 0x36 rd.toNat ra.toNat 0 4)
  | .nport rd ra => some (cr 0x37 rd.toNat ra.toNat 0 0)
  | .npay rd ra => some (cr 0x37 rd.toNat ra.toNat 0 1)
  | .nnew rd ra rb => some (cr 0x37 rd.toNat ra.toNat rb.toNat 2)
  | .nset rd ra => some (cr 0x37 rd.toNat ra.toNat 0 3)
  | .nsetp rd ra rb => some (cr 0x37 rd.toNat ra.toNat rb.toNat 4)
  | .nlink ra rb => some (cr 0x37 0 ra.toNat rb.toNat 5)
  | .npush ra rb => some (cr 0x37 0 ra.toNat rb.toNat 6)
  | .gangform rd ra rb => some (cr 0x38 rd.toNat ra.toNat rb.toNat 0)
  | .gangwait rd => some (cr 0x38 rd.toNat 0 0 1)
  | .disband rd => some (cr 0x38 rd.toNat 0 0 2)
  | .pairon rd ra => some (cr 0x39 rd.toNat ra.toNat 0 0)
  | .pairoff rd => some (cr 0x39 rd.toNat 0 0 1)
  | .srrd rd sr => some (cs 0x3A rd.toNat sr.toNat 0)
  | .srwr rs sr => some (cs 0x3B rs.toNat sr.toNat 0)
  | .srset rs sr => some (cs 0x3B rs.toNat sr.toNat 1)
  | .srclr rs sr => some (cs 0x3B rs.toNat sr.toNat 2)
  | .trap ra imm => some (cj 0x3C (ra.toNat * 2 ^ 10 + imm.toNat))
  | .tctxrd rd ra rb => some (cr 0x3D rd.toNat ra.toNat rb.toNat 0)
  | .tctxwr rd ra rb => some (cr 0x3D rd.toNat ra.toNat rb.toNat 1)
  | .tresume rd ra rb => some (cr 0x3D rd.toNat ra.toNat rb.toNat 2)
  | .tkill rd ra => some (cr 0x3D rd.toNat ra.toNat 0 3)
  | .tpreempt rd ra rb => some (cr 0x3D rd.toNat ra.toNat rb.toNat 4)
  | .bkpt => some (cr 0x3E 0 0 0 0)
  | .trace ra => some (cr 0x3E 0 ra.toNat 0 1)
  | _ => none

/-- An A-word (R57, R71); none for an instruction that is no A-word. -/
def encodeA (i : Instr) : Option Nat :=
  match i with
  | .anop => some 0
  | .add rd ra rb => some (ar 0x01 rd.toNat ra.toNat rb.toNat 0)
  | .sub rd ra rb => some (ar 0x01 rd.toNat ra.toNat rb.toNat 1)
  | .mul rd ra rb => some (ar 0x01 rd.toNat ra.toNat rb.toNat 2)
  | .mulhSs rd ra rb => some (ar 0x01 rd.toNat ra.toNat rb.toNat 3)
  | .mulhUu rd ra rb => some (ar 0x01 rd.toNat ra.toNat rb.toNat 4)
  | .mulhSu rd ra rb => some (ar 0x01 rd.toNat ra.toNat rb.toNat 5)
  | .div rd ra rb => some (ar 0x01 rd.toNat ra.toNat rb.toNat 6)
  | .divu rd ra rb => some (ar 0x01 rd.toNat ra.toNat rb.toNat 7)
  | .rem rd ra rb => some (ar 0x01 rd.toNat ra.toNat rb.toNat 8)
  | .remu rd ra rb => some (ar 0x01 rd.toNat ra.toNat rb.toNat 9)
  | .and rd ra rb => some (ar 0x01 rd.toNat ra.toNat rb.toNat 10)
  | .or rd ra rb => some (ar 0x01 rd.toNat ra.toNat rb.toNat 11)
  | .xor rd ra rb => some (ar 0x01 rd.toNat ra.toNat rb.toNat 12)
  | .andn rd ra rb => some (ar 0x01 rd.toNat ra.toNat rb.toNat 13)
  | .sll rd ra rb => some (ar 0x01 rd.toNat ra.toNat rb.toNat 14)
  | .srl rd ra rb => some (ar 0x01 rd.toNat ra.toNat rb.toNat 15)
  | .sra rd ra rb => some (ar 0x01 rd.toNat ra.toNat rb.toNat 16)
  | .rol rd ra rb => some (ar 0x01 rd.toNat ra.toNat rb.toNat 17)
  | .ror rd ra rb => some (ar 0x01 rd.toNat ra.toNat rb.toNat 18)
  | .slt rd ra rb => some (ar 0x01 rd.toNat ra.toNat rb.toNat 19)
  | .sltu rd ra rb => some (ar 0x01 rd.toNat ra.toNat rb.toNat 20)
  | .min rd ra rb => some (ar 0x01 rd.toNat ra.toNat rb.toNat 21)
  | .max rd ra rb => some (ar 0x01 rd.toNat ra.toNat rb.toNat 22)
  | .minu rd ra rb => some (ar 0x01 rd.toNat ra.toNat rb.toNat 23)
  | .maxu rd ra rb => some (ar 0x01 rd.toNat ra.toNat rb.toNat 24)
  | .clz rd ra => some (ar 0x01 rd.toNat ra.toNat 0 25)
  | .ctz rd ra => some (ar 0x01 rd.toNat ra.toNat 0 26)
  | .popc rd ra => some (ar 0x01 rd.toNat ra.toNat 0 27)
  | .bswap rd ra => some (ar 0x01 rd.toNat ra.toNat 0 28)
  | .sext rd ra wd => some (ar 0x01 rd.toNat ra.toNat (extCode wd) 29)
  | .zext rd ra wd => some (ar 0x01 rd.toNat ra.toNat (extCode wd) 30)
  | .addi rd ra imm => some (ai 0x02 rd.toNat ra.toNat imm.toNat)
  | .andi rd ra imm => some (ai 0x03 rd.toNat ra.toNat imm.toNat)
  | .ori rd ra imm => some (ai 0x04 rd.toNat ra.toNat imm.toNat)
  | .xori rd ra imm => some (ai 0x05 rd.toNat ra.toNat imm.toNat)
  | .slli rd ra n => some (ai 0x06 rd.toNat ra.toNat (0 * 2 ^ 11 + n.toNat))
  | .srli rd ra n => some (ai 0x06 rd.toNat ra.toNat (1 * 2 ^ 11 + n.toNat))
  | .srai rd ra n => some (ai 0x06 rd.toNat ra.toNat (2 * 2 ^ 11 + n.toNat))
  | .slti rd ra imm => some (ai 0x07 rd.toNat ra.toNat (0 * 2 ^ 12 + imm.toNat))
  | .sltiu rd ra imm => some (ai 0x07 rd.toNat ra.toNat (1 * 2 ^ 12 + imm.toNat))
  | .movi rd imm => some (au 0x08 rd.toNat imm.toNat)
  | .movhi rd imm => some (au 0x09 rd.toNat imm.toNat)
  | .bfx rd ra pos wm => some (ai 0x0A rd.toNat ra.toNat (pos.toNat * 2 ^ 6 + wm.toNat))
  | .bfi rd ra pos wm => some (ai 0x0B rd.toNat ra.toNat (pos.toNat * 2 ^ 6 + wm.toNat))
  | .cmp pd ra rb c => some (ar 0x0C pd.toNat ra.toNat rb.toNat c.toNat)
  | .cmpi pd ra c imm => some (ai 0x0D pd.toNat ra.toNat (c.toNat * 2 ^ 10 + imm.toNat))
  | .sel rd ra rb p inv => some (ar 0x0E rd.toNat ra.toNat rb.toNat (inv.toNat * 8 + p.toNat))
  | .plog pd pa pb tt => some (ar 0x0F pd.toNat pa.toNat pb.toNat tt.toNat)
  | .addsh rd ra rb n => some (ar 0x10 rd.toNat ra.toNat rb.toNat n.toNat)
  | .fadd f rm fd fa fb => some (af 0x20 fd.toNat fa.toNat fb.toNat 0 f rm.toNat)
  | .fsub f rm fd fa fb => some (af 0x21 fd.toNat fa.toNat fb.toNat 0 f rm.toNat)
  | .fmul f rm fd fa fb => some (af 0x22 fd.toNat fa.toNat fb.toNat 0 f rm.toNat)
  | .fdiv f rm fd fa fb => some (af 0x23 fd.toNat fa.toNat fb.toNat 0 f rm.toNat)
  | .fsqrt f rm fd fa => some (af 0x24 fd.toNat fa.toNat 0 0 f rm.toNat)
  | .fma f rm fd fa fb fc => some (af 0x25 fd.toNat fa.toNat fb.toNat fc.toNat f rm.toNat)
  | .fms f rm fd fa fb fc => some (af 0x26 fd.toNat fa.toNat fb.toNat fc.toNat f rm.toNat)
  | .fnma f rm fd fa fb fc => some (af 0x27 fd.toNat fa.toNat fb.toNat fc.toNat f rm.toNat)
  | .fnms f rm fd fa fb fc => some (af 0x28 fd.toNat fa.toNat fb.toNat fc.toNat f rm.toNat)
  | .fminmax f v fd fa fb => some (af 0x29 fd.toNat fa.toNat fb.toNat 0 f v.toNat)
  | .fsgn f v fd fa fb => some (af 0x2A fd.toNat fa.toNat fb.toNat 0 f v.toNat)
  | .fcmp f c pd fa fb => some (af 0x2B pd.toNat fa.toNat fb.toNat 0 f c.toNat)
  | .fclass f rd fs => some (amix 0x2C rd.toNat fs.toNat 0 f 0)
  | .fcvt dst src rm fd fa => some (af 0x2D fd.toNat fa.toNat 0 (fmtCode src) dst rm.toNat)
  | .fcvti f rm toF ty x g => some (amix 0x2E x.toNat g.toNat (toF.toNat * 16 + ty.toNat) f rm.toNat)
  | .fmv f toF x g => some (amix 0x2F x.toNat g.toNat (toF.toNat * 16) f 0)
  | .vint a => some (avWord 0x30 a)
  | .vfp a => some (avWord 0x31 a)
  | .vfma a => some (avWord 0x32 a)
  | .vcmp a => some (avWord 0x33 a)
  | .vfcmp a => some (avWord 0x34 a)
  | .vsel a => some (avWord 0x35 a)
  | .vred a => some (avWord 0x36 a)
  | .vdot a => some (avWord 0x37 a)
  | .vcvt a => some (avWord 0x38 a)
  | .vperm a => some (avWord 0x39 a)
  | .vslide a => some (avWord 0x3A a)
  | .vbcast a => some (avWord 0x3B a)
  | .vmovx x v e ew fn =>
    some (0x3C * 2 ^ 25 + x.toNat * 2 ^ 19 + v.toNat * 2 ^ 14 + e.toNat * 2 ^ 8 + ew.toNat * 2 ^ 5 + fn.toNat)
  | .vmask a => some (avWord 0x3D a)
  | .vscale a => some (avWord 0x3E a)
  | .viota a => some (avWord 0x3F a)
  | .vxch a => some (avWord 0x40 a)
  | .mmaD a => some (amWord 0x60 a)
  | .mmaS a => some (amWord 0x61 a)
  | .mmaH a => some (amWord 0x62 a)
  | .mmaBf a => some (amWord 0x63 a)
  | .mmaE4 a => some (amWord 0x64 a)
  | .mmaE4E5 a => some (amWord 0x65 a)
  | .mmaE5E4 a => some (amWord 0x66 a)
  | .mmaE5 a => some (amWord 0x67 a)
  | .mmaF4 a => some (amWord 0x68 a)
  | .mmaE4F4 a => some (amWord 0x69 a)
  | .mmaI8 a => some (amWord 0x6A a)
  | _ => none

/-- The instruction the major and function code of a C-word name, with its fields as they stand (R70). -/
def readC (w : Nat) : Option Instr :=
  match w / 2 ^ 22 % 64 with
  | 0x00 => some .nop
  | 0x01 => some (.ldb (cmOf w))
  | 0x02 => some (.ldbu (cmOf w))
  | 0x03 => some (.ldh (cmOf w))
  | 0x04 => some (.ldhu (cmOf w))
  | 0x05 => some (.ldw (cmOf w))
  | 0x06 => some (.ldwu (cmOf w))
  | 0x07 => some (.ldd (cmOf w))
  | 0x08 => some (.stb (cmOf w))
  | 0x09 => some (.sth (cmOf w))
  | 0x0A => some (.stw (cmOf w))
  | 0x0B => some (.std (cmOf w))
  | 0x0C => if w / 2 ^ 21 % 2 = 1 then some (.fldD (cmfOf w)) else some (.fldS (cmfOf w))
  | 0x0D => if w / 2 ^ 21 % 2 = 1 then some (.fstD (cmfOf w)) else some (.fstS (cmfOf w))
  | 0x0E => some (.ldx (rdOf w) (raOf w) (rbOf w) (fld w 3 1) (fld w 2 1) (fld w 0 2))
  | 0x0F => some (.stx (rdOf w) (raOf w) (rbOf w) (fld w 3 1) (fld w 0 2))
  | 0x10 => some (.stn (cmOf w))
  | 0x12 => some (.vld (cmfOf w))
  | 0x13 => some (.vst (cmfOf w))
  | 0x14 => some (.vlds (fld w 16 5) (raOf w) (rbOf w) (fld w 2 2) (fld w 0 2))
  | 0x15 => some (.vsts (fld w 16 5) (raOf w) (rbOf w) (fld w 2 2) (fld w 0 2))
  | 0x16 => some (.vgath (fld w 16 5) (raOf w) (fld w 4 5) (fld w 2 2) (fld w 0 2))
  | 0x17 => some (.vscat (fld w 16 5) (raOf w) (fld w 4 5) (fld w 2 2) (fld w 0 2))
  | 0x18 => (amoOf (w % 16)).map fun op => .amo (rdOf w) (raOf w) (rbOf w) op
  | 0x19 => (amoOf (w % 16)).map fun op => .amoAq (rdOf w) (raOf w) (rbOf w) op
  | 0x1A => (amoOf (w % 16)).map fun op => .amoRl (rdOf w) (raOf w) (rbOf w) op
  | 0x1B => (amoOf (w % 16)).map fun op => .amoAr (rdOf w) (raOf w) (rbOf w) op
  | 0x1C => (redOf (w % 16)).map fun op => .red (raOf w) (rbOf w) op
  | 0x1D => (redOf (w % 16)).map fun op => .redRl (raOf w) (rbOf w) op
  | 0x1E => some (.fence (raOf w))
  | 0x1F => some (.waitr (fld w 0 2) (rdOf w) (raOf w) (rbOf w))
  | 0x20 => some (.b (fld w 0 22))
  | 0x21 => some (.bl (fld w 0 22))
  | 0x22 => some (.bp (fld w 19 3) (fld w 18 1) (fld w 0 18))
  | 0x23 => some (.jr (rdOf w) (raOf w))
  | 0x24 => some (.cpy (rdOf w) (raOf w))
  | 0x25 => some (.cpy2 (rdOf w) (raOf w))
  | 0x26 => some (.bind (rdOf w) (raOf w) (rbOf w))
  | 0x27 => some (.unbind (rdOf w) (raOf w))
  | 0x28 => 
    match w % 16 with
    | 0 => some (.acqX (rdOf w) (raOf w) (rbOf w))
    | 1 => some (.acqS (rdOf w) (raOf w) (rbOf w))
    | 2 => some (.acqXi (rdOf w) (raOf w) (rbOf w))
    | 3 => some (.acqSi (rdOf w) (raOf w) (rbOf w))
    | _ => none
  | 0x29 => 
    match w % 16 with
    | 0 => some (.rel (rdOf w) (raOf w))
    | 1 => some (.relW (rdOf w) (raOf w))
    | _ => none
  | 0x2A => some (.gflush (rdOf w) (raOf w))
  | 0x2B => some (.gstat (rdOf w) (raOf w))
  | 0x2C => some (.rowact (raOf w))
  | 0x2D => some (.rowuse (raOf w) (rbOf w))
  | 0x2E => some (.rowclose (raOf w))
  | 0x2F => some (.rowstat (rdOf w) (raOf w))
  | 0x30 => 
    match w % 16 with
    | 0 => some (.barinit (rdOf w) (raOf w) (rbOf w))
    | 1 => some (.bararr (rdOf w) (raOf w) (rbOf w))
    | 2 => some (.barwait (rdOf w) (raOf w) (rbOf w))
    | 3 => some (.bararw (rdOf w) (raOf w) (rbOf w))
    | _ => none
  | 0x31 => 
    match w % 16 with
    | 0 => some (.loopinit (rdOf w) (raOf w) (rbOf w))
    | 1 => some (.getchunk (rdOf w) (raOf w))
    | _ => none
  | 0x32 => some (.spawn (rdOf w) (raOf w) (rbOf w))
  | 0x33 => some (.join (rdOf w) (raOf w))
  | 0x34 => some .tail
  | 0x35 => some .yield
  | 0x36 => 
    match w % 16 with
    | 0 => some (.tagen (raOf w))
    | 1 => some (.tagdis (raOf w))
    | 2 => some (.tagpend (rdOf w))
    | 3 => some (.tagclr (rdOf w) (raOf w))
    | 4 => some (.tagtest (rdOf w) (raOf w))
    | _ => none
  | 0x37 => 
    match w % 16 with
    | 0 => some (.nport (rdOf w) (raOf w))
    | 1 => some (.npay (rdOf w) (raOf w))
    | 2 => some (.nnew (rdOf w) (raOf w) (rbOf w))
    | 3 => some (.nset (rdOf w) (raOf w))
    | 4 => some (.nsetp (rdOf w) (raOf w) (rbOf w))
    | 5 => some (.nlink (raOf w) (rbOf w))
    | 6 => some (.npush (raOf w) (rbOf w))
    | _ => none
  | 0x38 => 
    match w % 16 with
    | 0 => some (.gangform (rdOf w) (raOf w) (rbOf w))
    | 1 => some (.gangwait (rdOf w))
    | 2 => some (.disband (rdOf w))
    | _ => none
  | 0x39 => 
    match w % 16 with
    | 0 => some (.pairon (rdOf w) (raOf w))
    | 1 => some (.pairoff (rdOf w))
    | _ => none
  | 0x3A => some (.srrd (rdOf w) (fld w 4 12))
  | 0x3B => 
    match w % 16 with
    | 0 => some (.srwr (rdOf w) (fld w 4 12))
    | 1 => some (.srset (rdOf w) (fld w 4 12))
    | 2 => some (.srclr (rdOf w) (fld w 4 12))
    | _ => none
  | 0x3C => some (.trap (raOf w) (fld w 0 10))
  | 0x3D => 
    match w % 16 with
    | 0 => some (.tctxrd (rdOf w) (raOf w) (rbOf w))
    | 1 => some (.tctxwr (rdOf w) (raOf w) (rbOf w))
    | 2 => some (.tresume (rdOf w) (raOf w) (rbOf w))
    | 3 => some (.tkill (rdOf w) (raOf w))
    | 4 => some (.tpreempt (rdOf w) (raOf w) (rbOf w))
    | _ => none
  | 0x3E => 
    match w % 16 with
    | 0 => some .bkpt
    | 1 => some (.trace (raOf w))
    | _ => none
  | _ => none

/-- The instruction the major and function code of an A-word name, with its fields as they stand (R71). -/
def readA (w : Nat) : Option Instr :=
  match w / 2 ^ 25 % 128 with
  | 0x00 => some .anop
  | 0x01 => 
    match w % 128 with
    | 0 => some (.add (ardOf w) (araOf w) (arbOf w))
    | 1 => some (.sub (ardOf w) (araOf w) (arbOf w))
    | 2 => some (.mul (ardOf w) (araOf w) (arbOf w))
    | 3 => some (.mulhSs (ardOf w) (araOf w) (arbOf w))
    | 4 => some (.mulhUu (ardOf w) (araOf w) (arbOf w))
    | 5 => some (.mulhSu (ardOf w) (araOf w) (arbOf w))
    | 6 => some (.div (ardOf w) (araOf w) (arbOf w))
    | 7 => some (.divu (ardOf w) (araOf w) (arbOf w))
    | 8 => some (.rem (ardOf w) (araOf w) (arbOf w))
    | 9 => some (.remu (ardOf w) (araOf w) (arbOf w))
    | 10 => some (.and (ardOf w) (araOf w) (arbOf w))
    | 11 => some (.or (ardOf w) (araOf w) (arbOf w))
    | 12 => some (.xor (ardOf w) (araOf w) (arbOf w))
    | 13 => some (.andn (ardOf w) (araOf w) (arbOf w))
    | 14 => some (.sll (ardOf w) (araOf w) (arbOf w))
    | 15 => some (.srl (ardOf w) (araOf w) (arbOf w))
    | 16 => some (.sra (ardOf w) (araOf w) (arbOf w))
    | 17 => some (.rol (ardOf w) (araOf w) (arbOf w))
    | 18 => some (.ror (ardOf w) (araOf w) (arbOf w))
    | 19 => some (.slt (ardOf w) (araOf w) (arbOf w))
    | 20 => some (.sltu (ardOf w) (araOf w) (arbOf w))
    | 21 => some (.min (ardOf w) (araOf w) (arbOf w))
    | 22 => some (.max (ardOf w) (araOf w) (arbOf w))
    | 23 => some (.minu (ardOf w) (araOf w) (arbOf w))
    | 24 => some (.maxu (ardOf w) (araOf w) (arbOf w))
    | 25 => some (.clz (ardOf w) (araOf w))
    | 26 => some (.ctz (ardOf w) (araOf w))
    | 27 => some (.popc (ardOf w) (araOf w))
    | 28 => some (.bswap (ardOf w) (araOf w))
    | 29 => (extOf (w / 2 ^ 7 % 64)).map fun wd => .sext (ardOf w) (araOf w) wd
    | 30 => (extOf (w / 2 ^ 7 % 64)).map fun wd => .zext (ardOf w) (araOf w) wd
    | _ => none
  | 0x02 => some (.addi (ardOf w) (araOf w) (fld w 0 13))
  | 0x03 => some (.andi (ardOf w) (araOf w) (fld w 0 13))
  | 0x04 => some (.ori (ardOf w) (araOf w) (fld w 0 13))
  | 0x05 => some (.xori (ardOf w) (araOf w) (fld w 0 13))
  | 0x06 => 
    match w / 2 ^ 11 % 4 with
    | 0 => some (.slli (ardOf w) (araOf w) (fld w 0 6))
    | 1 => some (.srli (ardOf w) (araOf w) (fld w 0 6))
    | 2 => some (.srai (ardOf w) (araOf w) (fld w 0 6))
    | _ => none
  | 0x07 =>
    if w / 2 ^ 12 % 2 = 1 then some (.sltiu (ardOf w) (araOf w) (fld w 0 12)) else some (.slti (ardOf w) (araOf w) (fld w 0 12))
  | 0x08 => some (.movi (ardOf w) (fld w 0 19))
  | 0x09 => some (.movhi (ardOf w) (fld w 0 19))
  | 0x0A => some (.bfx (ardOf w) (araOf w) (fld w 6 6) (fld w 0 6))
  | 0x0B => some (.bfi (ardOf w) (araOf w) (fld w 6 6) (fld w 0 6))
  | 0x0C => some (.cmp (fld w 19 3) (araOf w) (arbOf w) (fld w 0 3))
  | 0x0D => some (.cmpi (fld w 19 3) (araOf w) (fld w 10 3) (fld w 0 10))
  | 0x0E => some (.sel (ardOf w) (araOf w) (arbOf w) (fld w 0 3) (fld w 3 1))
  | 0x0F => some (.plog (fld w 19 3) (fld w 13 3) (fld w 7 3) (fld w 0 4))
  | 0x10 => some (.addsh (ardOf w) (araOf w) (arbOf w) (fld w 0 6))
  | 0x20 => some (.fadd (fmtOf w) (fld w 0 3) (fld w 20 5) (fld w 15 5) (fld w 10 5))
  | 0x21 => some (.fsub (fmtOf w) (fld w 0 3) (fld w 20 5) (fld w 15 5) (fld w 10 5))
  | 0x22 => some (.fmul (fmtOf w) (fld w 0 3) (fld w 20 5) (fld w 15 5) (fld w 10 5))
  | 0x23 => some (.fdiv (fmtOf w) (fld w 0 3) (fld w 20 5) (fld w 15 5) (fld w 10 5))
  | 0x24 => some (.fsqrt (fmtOf w) (fld w 0 3) (fld w 20 5) (fld w 15 5))
  | 0x25 => some (.fma (fmtOf w) (fld w 0 3) (fld w 20 5) (fld w 15 5) (fld w 10 5) (fld w 5 5))
  | 0x26 => some (.fms (fmtOf w) (fld w 0 3) (fld w 20 5) (fld w 15 5) (fld w 10 5) (fld w 5 5))
  | 0x27 => some (.fnma (fmtOf w) (fld w 0 3) (fld w 20 5) (fld w 15 5) (fld w 10 5) (fld w 5 5))
  | 0x28 => some (.fnms (fmtOf w) (fld w 0 3) (fld w 20 5) (fld w 15 5) (fld w 10 5) (fld w 5 5))
  | 0x29 => some (.fminmax (fmtOf w) (fld w 0 3) (fld w 20 5) (fld w 15 5) (fld w 10 5))
  | 0x2A => some (.fsgn (fmtOf w) (fld w 0 3) (fld w 20 5) (fld w 15 5) (fld w 10 5))
  | 0x2B => some (.fcmp (fmtOf w) (fld w 0 3) (fld w 20 3) (fld w 15 5) (fld w 10 5))
  | 0x2C => some (.fclass (fmtOf w) (ardOf w) (fld w 10 5))
  | 0x2D => some (.fcvt (fmtOf w) (fmtDec (w / 2 ^ 5 % 4)) (fld w 0 3) (fld w 20 5) (fld w 15 5))
  | 0x2E => some (.fcvti (fmtOf w) (fld w 0 3) (fld w 9 1) (fld w 5 2) (ardOf w) (fld w 10 5))
  | 0x2F => some (.fmv (fmtOf w) (fld w 9 1) (ardOf w) (fld w 10 5))
  | 0x30 => some (.vint (avOf w))
  | 0x31 => some (.vfp (avOf w))
  | 0x32 => some (.vfma (avOf w))
  | 0x33 => some (.vcmp (avOf w))
  | 0x34 => some (.vfcmp (avOf w))
  | 0x35 => some (.vsel (avOf w))
  | 0x36 => some (.vred (avOf w))
  | 0x37 => some (.vdot (avOf w))
  | 0x38 => some (.vcvt (avOf w))
  | 0x39 => some (.vperm (avOf w))
  | 0x3A => some (.vslide (avOf w))
  | 0x3B => some (.vbcast (avOf w))
  | 0x3C => some (.vmovx (ardOf w) (fld w 14 5) (fld w 8 6) (fld w 5 2) (fld w 0 5))
  | 0x3D => some (.vmask (avOf w))
  | 0x3E => some (.vscale (avOf w))
  | 0x3F => some (.viota (avOf w))
  | 0x40 => some (.vxch (avOf w))
  | 0x60 => some (.mmaD (amOf w))
  | 0x61 => some (.mmaS (amOf w))
  | 0x62 => some (.mmaH (amOf w))
  | 0x63 => some (.mmaBf (amOf w))
  | 0x64 => some (.mmaE4 (amOf w))
  | 0x65 => some (.mmaE4E5 (amOf w))
  | 0x66 => some (.mmaE5E4 (amOf w))
  | 0x67 => some (.mmaE5 (amOf w))
  | 0x68 => some (.mmaF4 (amOf w))
  | 0x69 => some (.mmaE4F4 (amOf w))
  | 0x6A => some (.mmaI8 (amOf w))
  | _ => none

/-- A C-word decoded (R65, R72); none is an illegal instruction. -/
def decodeC (w : Nat) : Option Instr :=
  match readC w with
  | some i => if encodeC i = some (w % 2 ^ 28) ∧ wellFormed i = true then some i else none
  | none => none

/-- An A-word decoded; none is an illegal instruction. -/
def decodeA (w : Nat) : Option Instr :=
  match readA w with
  | some i => if encodeA i = some (w % 2 ^ 32) ∧ wellFormed i = true then some i else none
  | none => none

/-- A framed bundle (R56, R57): switch mark, issue gap, and its words decoded; `a` is none for a lone word. -/
structure Bundle where
  s : Bool
  g : Nat
  c : Option Instr
  a : Option (Option Instr)
deriving DecidableEq, Repr

/-- Size of a bundle in bytes. -/
def bundleSize (b : Bundle) : Nat := if b.a.isSome then 8 else 4

/-- Framing by the first word and the address it stands at (R58): none is an illegal bundle. `w1` is the word that
follows. -/
def frame (pc w0 w1 : Nat) : Option Bundle :=
  if w0 / 2 ^ 31 % 2 = 1 then some ⟨w0 / 2 ^ 30 % 2 == 1, w0 / 2 ^ 28 % 4, decodeC w0, none⟩
  else if pc % 8 = 0 then some ⟨w0 / 2 ^ 30 % 2 == 1, w0 / 2 ^ 28 % 4, decodeC w0, some (decodeA w1)⟩
  else none

/-- Why bytes are no legal bundle, by name. -/
inductive Reject where
  /-- a pair's first word at an address that is 4 mod 8 (R58) -/
  | framing
  /-- the C-word is no assigned encoding (R72) -/
  | cWord
  /-- the A-word is no assigned encoding -/
  | aWord
  /-- fewer bytes than the bundle has -/
  | short
deriving DecidableEq, Repr

/-- A little-endian 32-bit word of a byte list (R1). -/
def word32 : List Byte → Option (Nat × List Byte)
  | b0 :: b1 :: b2 :: b3 :: r => some (b0.toNat + 256 * b1.toNat + 65536 * b2.toNat + 16777216 * b3.toNat, r)
  | _ => none

/-- The decoder on any bytes standing at address pc: the bundle and the bytes after it, or the reason there is none. -/
def decodeBytes (pc : Nat) (bs : List Byte) : Except Reject (Bundle × List Byte) :=
  match word32 bs with
  | none => .error .short
  | some (w0, r0) =>
    let w1 := match word32 r0 with
      | some (w, _) => w
      | none => 0
    match frame pc w0 w1 with
    | none => .error .framing
    | some b =>
      if b.c = none then .error .cWord
      else match b.a with
        | none => .ok (b, r0)
        | some none => .error .aWord
        | some (some _) =>
          match word32 r0 with
          | some (_, r1) => .ok (b, r1)
          | none => .error .short

/-- The lone word of a C instruction, S and G zero (R57). -/
def encodeLone (i : Instr) : Option Nat := (encodeC i).map fun w => 2 ^ 31 + w

/-- The words of a well-formed instruction: a lone C-word, or a pair of C NOP and the A-word (R56). -/
def encode (i : Instr) : Option (List Nat) :=
  match encodeLone i with
  | some w => some [w]
  | none => (encodeA i).map fun w => [0, w]

/-- The instruction of an opcode-table row's bits: the bytes are laid out from an 8-byte-aligned address, low bits
first, zeros above, and the decoder's C-word is the answer. -/
def decodeTableWord (nbits w : Nat) : Option Instr :=
  let v := w % 2 ^ nbits
  match decodeBytes 0 ((List.range 8).map fun k => BitVec.ofNat 8 (v / 256 ^ k)) with
  | .ok (b, _) => b.c
  | .error _ => none

end Sys2Proof
end

