-- ==== Sys2Proof/Machine/Formats.lean ====
section
/-! DEFINITION. Number formats and the value of every encoding (spec 02 R29-R34). A finite value is held exactly as
a sign, a natural significand and an exponent of two. -/

namespace Sys2Proof.Machine

/-- How a format spends the all-ones exponent (02 R30). -/
inductive FKind where
  /-- infinities and NaNs: FP64, FP32, FP16, BF16, E5M2 -/
  | ieee
  /-- one NaN per sign, no infinity: E4M3 -/
  | e4m3
  /-- neither: E2M1 -/
  | e2m1
deriving DecidableEq, Repr

/-- A signed floating-point format (02 R29): exponent and significand widths and bias. `narrow` formats have no
signalling NaN (02 R33). -/
structure FF where
  ebits : Nat
  mbits : Nat
  bias : Nat
  kind : FKind
  narrow : Bool
deriving DecidableEq, Repr

def fp64 : FF := ⟨11, 52, 1023, .ieee, false⟩
def fp32 : FF := ⟨8, 23, 127, .ieee, false⟩
def fp16 : FF := ⟨5, 10, 15, .ieee, false⟩
def bf16 : FF := ⟨8, 7, 127, .ieee, false⟩
def fe5m2 : FF := ⟨5, 2, 15, .ieee, true⟩
def fe4m3 : FF := ⟨4, 3, 7, .e4m3, true⟩
def fe2m1 : FF := ⟨2, 1, 1, .e2m1, true⟩

/-- The format an fmt code names (03 R64). -/
def fmtFF : Fmt → FF
  | .d => fp64
  | .s => fp32
  | .h => fp16
  | .bf => bf16

/-- Width in bits. -/
def ffWidth (F : FF) : Nat := 1 + F.ebits + F.mbits

/-- Exponent of the unit in the last place of subnormals: the grid's finest step is 2^ffQmin (02 R30). -/
def ffQmin (F : FF) : Int := 1 - (F.bias : Int) - F.mbits

/-- The value of an encoding: NaN (signalling or quiet), infinity, or ±m·2^e. -/
inductive FV where
  | nan (sig : Bool)
  | inf (neg : Bool)
  | fin (neg : Bool) (m : Nat) (e : Int)
deriving DecidableEq, Repr

/-- The value of the low bits of `bits` read in format F (02 R30, R33). -/
def ffDecode (F : FF) (bits : Nat) : FV :=
  let m := bits % 2 ^ F.mbits
  let ex := bits / 2 ^ F.mbits % 2 ^ F.ebits
  let neg := bits / 2 ^ (F.mbits + F.ebits) % 2 == 1
  let top := 2 ^ F.ebits - 1
  let finite := if ex == 0 then FV.fin neg m (ffQmin F)
    else FV.fin neg (2 ^ F.mbits + m) (ffQmin F + (ex - 1 : Nat))
  match F.kind with
  | .ieee =>
    if ex == top then
      if m == 0 then .inf neg else .nan (!F.narrow && m / 2 ^ (F.mbits - 1) % 2 == 0)
    else finite
  | .e4m3 => if ex == top && m == 2 ^ F.mbits - 1 then .nan false else finite
  | .e2m1 => finite

/-- The canonical quiet NaN (02 R33); E2M1 has none and gives 0. -/
def ffNaN (F : FF) : Nat :=
  match F.kind with
  | .ieee => (2 ^ F.ebits - 1) * 2 ^ F.mbits + 2 ^ (F.mbits - 1)
  | .e4m3 => 0x7F
  | .e2m1 => 0

/-- The sign bit in place. -/
def ffSign (F : FF) (neg : Bool) : Nat := if neg then 2 ^ (F.ebits + F.mbits) else 0

/-- Encoding of an infinity, for the formats that have one. -/
def ffInf (F : FF) (neg : Bool) : Nat := (2 ^ F.ebits - 1) * 2 ^ F.mbits + ffSign F neg

/-- Encoding of the largest finite magnitude (02 R31). -/
def ffMaxBits (F : FF) : Nat :=
  match F.kind with
  | .ieee => (2 ^ F.ebits - 1) * 2 ^ F.mbits - 1
  | .e4m3 => 0x7E
  | .e2m1 => 0x7

/-- Whether a format has infinities. -/
def ffHasInf (F : FF) : Bool := F.kind == .ieee

/-- The largest finite magnitude as significand and exponent. -/
def ffMax (F : FF) : Nat × Int :=
  match ffDecode F (ffMaxBits F) with
  | .fin _ m e => (m, e)
  | _ => (0, 0)

/-- Encoding of ±n·2^q for a grid point with q at or above the finest step (02 R30); a significand that carried over
to 2^(mbits+1) lands on the next exponent. -/
def ffEncode (F : FF) (neg : Bool) (n : Nat) (q : Int) : Nat :=
  if n == 0 then ffSign F neg
  else (q - ffQmin F).toNat * 2 ^ F.mbits + n + ffSign F neg

/-- A value of width w read from an f register (02 R34): any zero bit above it gives the canonical NaN. -/
def unbox (f : Fmt) (r : Word) : Nat :=
  let w := ffWidth (fmtFF f)
  if f == .d then r.toNat
  else if r.toNat / 2 ^ w == 2 ^ (64 - w) - 1 then r.toNat % 2 ^ w
  else ffNaN (fmtFF f)

/-- A result of width w written to an f register, every higher bit one (02 R34). -/
def box (f : Fmt) (bits : Nat) : Word :=
  let w := ffWidth (fmtFF f)
  if f == .d then BitVec.ofNat 64 bits
  else BitVec.ofNat 64 (bits % 2 ^ w + (2 ^ (64 - w) - 1) * 2 ^ w)

/-- The value of an E8M0 scale (02 R30): 2^(E-127), or NaN for 0xFF. -/
def e8m0Decode (b : Nat) : FV :=
  if b % 256 == 255 then .nan false else .fin false 1 ((b % 256 : Nat) - 127)

/-- Signed reading of the low w bits. -/
def toSigned (w n : Nat) : Int :=
  let m := n % 2 ^ w
  if m / 2 ^ (w - 1) == 1 then (m : Int) - 2 ^ w else m

/-- The low w bits of an integer as a natural number. -/
def ofInt (w : Nat) (i : Int) : Nat := (i % (2 ^ w : Nat)).toNat

end Sys2Proof.Machine
end

