-- ==== Sys2Proof/Machine/Flags.lean ====
section
/-! DEFINITION. Exception flags, rounding and delivery of floating-point results (spec 02 R35-R47): every flag
computation of the part goes through `deliver` and the conversions of this file. -/

namespace Sys2Proof.Machine

/-- Exception flags at their FPFLG positions (02 R47). -/
abbrev Flags := BitVec 6

def fNX : Flags := 0x01#6
def fUF : Flags := 0x02#6
def fOF : Flags := 0x04#6
def fDZ : Flags := 0x08#6
def fNV : Flags := 0x10#6
def fSAT : Flags := 0x20#6

/-- Rounding modes (02 R35). -/
inductive Rm where
  | rne | rmm | rup | rdn | rtz
deriving DecidableEq, Repr

/-- The mode an rm code names, DYN (0b101) taking FPCTL.RM; none for 0b110 and 0b111 (02 R35). FPCTL.RM itself never
holds more than 4 (02 R47), a larger value reads as RNE. -/
def rmOf (code : Nat) (dyn : Nat) : Option Rm :=
  let plain : Nat → Rm := fun c => match c with
    | 1 => .rmm | 2 => .rup | 3 => .rdn | 4 => .rtz | _ => .rne
  if code < 5 then some (plain code) else if code == 5 then some (plain dyn) else none

/-- An exact result: NaN, an infinity, or a magnitude in [m, m+1)·2^e, equal to m·2^e unless `more`. A result with
`more` set carries enough bits of m for every rounding of its destination. -/
inductive Ex where
  | nan (sig : Bool)
  | inf (neg : Bool)
  | fin (neg : Bool) (m : Nat) (e : Int) (more : Bool)
deriving DecidableEq, Repr

/-- An exactly held value as an exact result. -/
def exOf : FV → Ex
  | .nan s => .nan s
  | .inf n => .inf n
  | .fin n m e => .fin n m e false

/-- ±(m + more)·2^e rounded to a multiple of 2^q: the multiple and whether it is inexact (02 R35). -/
def roundAt (rm : Rm) (neg : Bool) (m : Nat) (e : Int) (more : Bool) (q : Int) : Nat × Bool :=
  if q ≤ e then (m * 2 ^ (e - q).toNat, more)
  else
    let k := (q - e).toNat
    let n := m / 2 ^ k
    let r := m % 2 ^ k
    let half := 2 ^ (k - 1)
    let inexact := r != 0 || more
    let up := match rm with
      | .rne => decide (half < r) || (r == half && (more || n % 2 == 1))
      | .rmm => decide (half ≤ r)
      | .rup => !neg && inexact
      | .rdn => neg && inexact
      | .rtz => false
    (if up then n + 1 else n, inexact)

/-- n·2^q > m·2^e, exactly. -/
def gtScaled (n : Nat) (q : Int) (m : Nat) (e : Int) : Bool :=
  let d := if q ≤ e then q else e
  decide (m * 2 ^ (e - d).toNat < n * 2 ^ (q - d).toNat)

/-- Exponent of the last place when m·2^e is rounded to F's precision with an unbounded exponent range. -/
def unboundedQ (F : FF) (m : Nat) (e : Int) : Int := e + Nat.log2 m - F.mbits

/-- R42: the delivery of an exact result to a format. -/
def deliver (F : FF) (rm : Rm) (sat : Bool) (v : Ex) : Nat × Flags :=
  match v with
  | .nan sig =>
    let nv := if sig then fNV else 0
    if F.kind == .e2m1 then (0, fNV) else (ffNaN F, nv)
  | .inf neg =>
    if ffHasInf F then (ffInf F neg, 0)
    else if F.kind == .e4m3 && !sat then (0x7F, fNV)
    else (ffMaxBits F + ffSign F neg, fSAT)
  | .fin neg 0 _ _ => (ffSign F neg, 0)
  | .fin neg m e more =>
    let qu := unboundedQ F m e
    let (nu, _) := roundAt rm neg m e more qu
    let (mx, ex) := ffMax F
    if gtScaled nu qu mx ex then
      if rm == .rtz || (rm == .rdn && !neg) || (rm == .rup && neg) then
        (ffMaxBits F + ffSign F neg, fNX ||| fOF)
      else if F.kind == .e2m1 || (sat && (F.kind == .e4m3 || (F.narrow && F.kind == .ieee))) then
        (ffMaxBits F + ffSign F neg, fNX ||| fSAT)
      else if F.kind == .e4m3 then (0x7F, fNX ||| fOF)
      else (ffInf F neg, fNX ||| fOF)
    else
      let q := if qu < ffQmin F then ffQmin F else qu
      let (n, inexact) := roundAt rm neg m e more q
      -- tiny (R38): the unbounded rounding lies below the smallest normal, 2^(mbits)·2^qmin
      let tiny := gtScaled (2 ^ F.mbits) (ffQmin F) nu qu
      (ffEncode F neg n q,
        (if inexact then fNX else 0) ||| (if inexact && tiny then fUF else 0))

/-- Conversion to a w-bit integer (02 R44): the result's low w bits and the flags. -/
def toIntegerR44 (w : Nat) (signed : Bool) (rm : Rm) (v : FV) : Nat × Flags :=
  let hi : Int := if signed then 2 ^ (w - 1) - 1 else 2 ^ w - 1
  let lo : Int := if signed then -(2 ^ (w - 1)) else 0
  match v with
  | .nan _ => (0, fNV)
  | .inf neg => (ofInt w (if neg then lo else hi), fNV)
  | .fin neg m e =>
    let (n, inexact) := roundAt rm neg m e false 0
    let i : Int := if neg then -(n : Int) else n
    if i < lo then (ofInt w lo, fNV)
    else if hi < i then (ofInt w hi, fNV)
    else (ofInt w i, if inexact then fNX else 0)

/-- Conversion to E8M0 (02 R46). -/
def toE8m0 (v : FV) : Nat × Flags :=
  match v with
  | .nan sig => (0xFF, if sig then fNV else 0)
  | .inf _ => (0xFE, fSAT)
  | .fin _ m e =>
    if m == 0 then (0, fUF ||| fNX)
    else
      let k : Int := e + Nat.log2 m
      if k < -127 then (0, fUF ||| fNX)
      else if 128 ≤ k then (0xFE, fSAT)
      else ((k + 127).toNat, if m == 2 ^ Nat.log2 m then 0 else fNX)

/-- An integer as an exact result. -/
def exInt (i : Int) : Ex := .fin (decide (i < 0)) i.natAbs 0 false

end Sys2Proof.Machine
end

