-- ==== Sys2Proof/Config.lean ====
section
/-! DEFINITION. What the part fixes (sizes, cycle figures) and the free values: constants with no body for what the
spec leaves open or leaves to keys it does not give (log 8, log 15). -/

namespace Sys2Proof.Config

/-- The lottery multiplier (10 R227, 15 R307). -/
def lotMul : Nat := 0x9E3779B9

/-- First address of a mailbox (07 R146). -/
def mailboxBase : Nat := 0x7C000

/-- Size of a scratchpad (07 R146). -/
def spSize : Nat := 0x80000

/-- Size of the program store, the first illegal program address (03 R58). -/
def progSize : Nat := 0x200000

/-- 1 ms in core cycles (00 R3). -/
def msCycles : Nat := 2000000

/-- Bytes of a context image and of its queue block (18 R338). -/
def ctxImage : Nat := 2816

def ctxQueue : Nat := 512

/-- The result of a special function when the interval computation of Machine/Elementary.lean has not decided its
rounding within its fuel (log 15): function, format, operands. -/
opaque undecidedFunction : Nat → Nat → Word → Word → Word

/-- The shared secret of an ML-KEM-1024 decapsulation with the security processor's key, none when it fails (21 R378,
log 8). -/
opaque kemDecapsulate : List Byte → Option (List Byte)

/-- The XMSS signature of a report with the key's next leaf (21 R376, R377, log 8). -/
opaque xmssSign : Nat → List Byte → List Byte

/-- The ML-KEM-1024 encapsulation key of the security processor (21 R377, log 8). -/
opaque kemPublicKey : List Byte

/-- The ROM identity, and the measured bytes of the firmware and of a die's management firmware (21 R377, log 8). -/
opaque romIdentity : List Byte

opaque firmwareImage : List Byte

opaque dieFirmware : Nat → List Byte

opaque bootConfiguration : List Byte

/-- The measured bytes of a region's table set (range table, Harp table, node base, the four handlers) and of its RCB
words 4-6 with its DEBUG bit: the spec names what is measured and not how it is laid out (21 R377, R379, log 8). -/
opaque measuredSet : List Byte → List Byte → Nat → List Nat → List Byte

opaque measuredWords : List Word → Bool → List Byte

/-- The bytes by which a key slot's number enters the derivation of its key (21 R378, log 8). -/
opaque slotBytes : Nat → List Byte

/-- Whether the channel finds a correctable error in a row transfer: chance (06 R145, log 14). The argument is the
transfer's number. -/
opaque channelError : Nat → Bool

/-- Power readings: the package's and a die's in W at a cycle, and the energy of a region in µJ since the sample before
(22 R389, R390, 21 R374, log 10). -/
opaque packagePower : Nat → Nat

opaque diePower : Nat → Nat → Nat

opaque regionEnergy : Nat → Nat → Nat

end Sys2Proof.Config
end

