-- ==== Sys2Proof/Machine/Cipher.lean ====
section
/-! DEFINITION. AES-256-XTS over 64-byte units (spec 04 R99): the cipher of FIPS 197 and the mode of IEEE 1619, which
the spec names. Bytes are natural numbers below 256. -/

namespace Sys2Proof.Machine

/-- Multiplication by x in GF(2^8). -/
def gfDouble (a : Nat) : Nat :=
  if a < 128 then 2 * a else Nat.xor (2 * a % 256) 0x1B

/-- Multiplication in GF(2^8), k bits of b from the lowest. -/
def gfMulBits (a b : Nat) : Nat → Nat
  | 0 => 0
  | k + 1 => Nat.xor (if b % 2 == 1 then a else 0) (gfMulBits (gfDouble a) (b / 2) k)

def gfMul (a b : Nat) : Nat := gfMulBits a b 8

/-- The inverse a^254; 0 stays 0. -/
def gfInv (a : Nat) : Nat :=
  let a2 := gfMul a a
  let a4 := gfMul a2 a2
  let a8 := gfMul a4 a4
  let a16 := gfMul a8 a8
  let a32 := gfMul a16 a16
  let a64 := gfMul a32 a32
  let a128 := gfMul a64 a64
  gfMul a128 (gfMul a64 (gfMul a32 (gfMul a16 (gfMul a8 (gfMul a4 a2)))))

/-- Rotation of a byte to the left. -/
def rotByte (a k : Nat) : Nat := (a * 2 ^ k % 256) + a / 2 ^ (8 - k)

def aesSub (a : Nat) : Nat :=
  let b := gfInv a
  Nat.xor (Nat.xor (Nat.xor (Nat.xor (Nat.xor b (rotByte b 1)) (rotByte b 2)) (rotByte b 3)) (rotByte b 4)) 0x63

def aesInvSub (a : Nat) : Nat :=
  gfInv (Nat.xor (Nat.xor (Nat.xor (rotByte a 1) (rotByte a 3)) (rotByte a 6)) 0x05)

def xorBytes (a b : List Nat) : List Nat := List.zipWith Nat.xor a b

def byteAt (l : List Nat) (i : Nat) : Nat := l.getD i 0

/-- The next word of the key schedule from the previous one and the one eight before (FIPS 197, Nk = 8). -/
def keyWord (i : Nat) (prev back : List Nat) (rcon : Nat) : List Nat :=
  let t := if i % 8 == 0 then
      match (prev.drop 1 ++ prev.take 1).map aesSub with
      | b :: r => Nat.xor b rcon :: r
      | [] => []
    else if i % 8 == 4 then prev.map aesSub else prev
  xorBytes t back

/-- Extends the reversed list of key words by `n` words; i is the next index. -/
def keyExpand : Nat → Nat → Nat → List (List Nat) → List (List Nat)
  | 0, _, _, ws => ws
  | n + 1, i, rcon, ws =>
    let w := keyWord i (ws.getD 0 []) (ws.getD 7 []) rcon
    keyExpand n (i + 1) (if i % 8 == 0 then gfDouble rcon else rcon) (w :: ws)

/-- The fifteen round keys of a 32-byte key, each 16 bytes. -/
def roundKeys (key : List Nat) : List (List Nat) :=
  let ws0 := (List.range 8).map fun i => (key.drop (4 * i)).take 4
  let ws := (keyExpand 52 8 1 ws0.reverse).reverse
  (List.range 15).map fun r => ((ws.drop (4 * r)).take 4).flatten

def mixColumn (c : List Nat) (k0 k1 k2 k3 : Nat) : List Nat :=
  (List.range 4).map fun i =>
    let g := fun j => byteAt c ((i + j) % 4)
    Nat.xor (Nat.xor (gfMul k0 (g 0)) (gfMul k1 (g 1))) (Nat.xor (gfMul k2 (g 2)) (gfMul k3 (g 3)))

def mixColumns (b : List Nat) (k0 k1 k2 k3 : Nat) : List Nat :=
  ((List.range 4).map fun i => mixColumn ((b.drop (4 * i)).take 4) k0 k1 k2 k3).flatten

def shiftRows (b : List Nat) : List Nat :=
  (List.range 16).map fun i => byteAt b ((i + 4 * (i % 4)) % 16)

def invShiftRows (b : List Nat) : List Nat :=
  (List.range 16).map fun i => byteAt b ((i + 16 - 4 * (i % 4)) % 16)

/-- AES-256 encryption of a 16-byte block. -/
def aesEncrypt (key block : List Nat) : List Nat :=
  let rk := roundKeys key
  let mid := (List.range 13).foldl
    (fun b r => xorBytes (mixColumns (shiftRows (b.map aesSub)) 2 3 1 1) (rk.getD (r + 1) []))
    (xorBytes block (rk.getD 0 []))
  xorBytes (shiftRows (mid.map aesSub)) (rk.getD 14 [])

/-- AES-256 decryption of a 16-byte block. -/
def aesDecrypt (key block : List Nat) : List Nat :=
  let rk := roundKeys key
  let start := (invShiftRows (xorBytes block (rk.getD 14 []))).map aesInvSub
  let mid := (List.range 13).foldl
    (fun b r => (invShiftRows (mixColumns (xorBytes b (rk.getD (13 - r) [])) 14 11 13 9)).map aesInvSub)
    start
  xorBytes mid (rk.getD 0 [])

/-- Little-endian bytes of a number. -/
def leBytes : Nat → Nat → List Nat
  | 0, _ => []
  | n + 1, v => v % 256 :: leBytes n (v / 256)

/-- The number of little-endian bytes. -/
def ofLeBytes : List Nat → Nat
  | [] => 0
  | b :: r => b % 256 + 256 * ofLeBytes r

/-- Multiplication of a tweak by α in GF(2^128) (IEEE 1619). -/
def tweakNext (t : Nat) : Nat :=
  if t < 2 ^ 127 then 2 * t else Nat.xor (2 * t % 2 ^ 128) 0x87

/-- The four block tweaks of a unit. -/
def tweaks (key2 : List Nat) (unit : Nat) : List (List Nat) :=
  let t0 := ofLeBytes (aesEncrypt key2 (leBytes 16 unit))
  let t1 := tweakNext t0
  let t2 := tweakNext t1
  let t3 := tweakNext t2
  [leBytes 16 t0, leBytes 16 t1, leBytes 16 t2, leBytes 16 t3]

/-- One 64-byte unit through XTS with a 64-byte key; the tweak is the unit's physical address shifted right by 6. -/
def xtsUnit (decrypt : Bool) (key : List Nat) (unit : Nat) (data : List Nat) : List Nat :=
  let k1 := key.take 32
  let ts := tweaks (key.drop 32) unit
  ((List.range 4).map fun i =>
    let t := ts.getD i []
    let b := xorBytes ((data.drop (16 * i)).take 16) t
    xorBytes (if decrypt then aesDecrypt k1 b else aesEncrypt k1 b) t).flatten

end Sys2Proof.Machine
end

