-- ==== Sys2Proof/Machine/State.lean ====
section
/-! DEFINITION. The state of one package, as plain data: every piece of state INVENTORY.md lists under State. Tables are
sparse: an unlisted key holds the table's stated default. -/

namespace Sys2Proof.Machine

/-- A sparse table: keys and their entries, at most one entry read per key (the first). -/
abbrev Tab (α : Type) := List (Nat × α)

/-- A byte store (00 R1): cells in strictly rising address order, none equal to the unwritten byte 0 (log 1). -/
abbrev Memory := List Host.Cell

/-- A register a result is written to. -/
inductive RegId where
  | x (n : Nat) | f (n : Nat) | v (n : Nat) | p (n : Nat) | none
deriving DecidableEq, Repr

/-- A trap (18 R334): cause, detail, level, value. -/
structure Trap where
  cause : Nat
  detail : Nat
  level : Nat
  value : Word
deriving DecidableEq, Repr

/-- A fixed-latency result not yet visible (03 R73); of a vector only the bits of `mask` are written (09 R186). `bad`
marks a predicted residue that differs from the value's (19 R347). -/
structure Late where
  due : Nat
  dst : RegId
  val : Vec
  mask : Vec
  res : Option Nat
deriving DecidableEq, Repr

/-- Kinds of outstanding access of a task (12 R237, 13 R261). -/
inductive OutKind where
  | load | amo | store | stn | red | msg | copy | node | spawn
deriving DecidableEq, Repr

/-- How load data becomes a register value (07 R149, R151, R154). -/
inductive LoadForm where
  | scalar (size : Nat) (signed : Bool)
  | float (size : Nat)
  | vector (ew : Nat)
  | none
deriving DecidableEq, Repr

/-- An outstanding access of a task: what it is, where it is performed, for a load the destination and what has
arrived, for a write the addresses it writes (first byte and length), for an atomic its home identity (12 R246). -/
structure OutItem where
  id : Nat
  kind : OutKind
  places : List Place
  spans : List (Nat × Nat)
  dst : RegId
  form : LoadForm
  left : Nat
  value : Vec
  mask : Vec
  acquire : Bool
  home : Option Nat
deriving DecidableEq, Repr

/-- A release form waiting inside the core until earlier items of its task are acknowledged, or an access of the same
source or a message of the core that stays behind one to the same destination (12 R244, 13 R266), with the number it
took its place in the order of the package by. -/
structure HeldRelease where
  num : Nat
  src : Nat
  dst : Place
  gtid : Word
  waits : List Nat
  ev : Event
deriving DecidableEq, Repr

/-- Why a slot is parked (03 R78, 18 R334, R337). -/
inductive Park where
  | none
  | switchMark
  | waitr (rs : List RegId)
  | fence (scope : Word) (waits : List Nat)
  /-- waiting for answer number `id`, which is written into x[rd]; the bundle does not issue again (18 R337) -/
  | answer (rd id : Nat)
  /-- BARWAIT or BARARW number `id`: object, phase waited for (none while a BARARW's arrival is unanswered), the ARR and
  PHASE the owner returned when it parked the wait, the cycle its bound expires, whether it is a BARARW -/
  | barrier (rd id owner addr : Nat) (w : Option Nat) (seen : Option (Nat × Nat)) (bound : Option Nat) (arw : Bool)
  | mma
  | join (rd rcbPa : Nat)
  | gangWait (rd : Nat)
  | gangForm (rd size bound : Nat)
  /-- GFLUSH: answers still to come and the V of the last (05 R128) -/
  | flush (rd left id : Nat) (v : Word)
  | releaseDrain (rd id : Nat) (waits : List Nat) (guard : Word) (write : Bool)
  | trapped (t : Trap)
  | fpEvent (flags : Nat)
  /-- stopped in its slot by a halt of its region that found no free context (12 R250) -/
  | halted
  /-- a dispatched saved context is being read back (15 R293) -/
  | readBack (ctx : Nat)
deriving DecidableEq, Repr

/-- How a task came to exist (15 R291). -/
inductive TaskOrigin where
  | pair (buf : Nat)
  | message (mslot tag : Nat)
  | spawn
  | region
deriving DecidableEq, Repr

/-- An SFU request (11 R231). -/
structure SfuReq where
  func : Nat
  fmt : Nat
  a : Word
  b : Word
  readyAt : Nat
deriving DecidableEq, Repr

/-- An SFU result; in flight until `doneAt` (11 R233, R234). -/
structure SfuRes where
  func : Nat
  fmt : Nat
  val : Word
  flags : Nat
  doneAt : Nat
deriving DecidableEq, Repr

/-- A node staged by a task (14 R278): its index, generation, header kind and arity, ports 1-4, payload. -/
structure StagedNode where
  node : Nat
  gen : Nat
  kind : Nat
  arity : Nat
  ports : List Word
  wired : List Nat
  pay : List Word
deriving DecidableEq, Repr

/-- An endpoint of a staged wire (14 R276). -/
inductive Endpoint where
  | fresh (node port : Nat)
  | claimed (which port : Nat)
  | literal (w : Word)
deriving DecidableEq, Repr

/-- A trace record waiting in the slot's FIFO (20 R364), its value produced at `due` (03 R69). -/
structure PendingTrace where
  due : Nat
  kind : Nat
  cycle : Nat
  pc : Word
  data : Word
deriving DecidableEq, Repr

/-- The words of a bundle that parked in a way after which it may issue again (18 R337): they act when the park has ended.
Where and when it issued, the C-word whose pops are still to be made, the A-word, and the registers as the bundle read
them. -/
structure HeldWords where
  pc : Word
  cycle : Nat
  fpctl : Word
  c : Option Instr
  a : Option Instr
  x : Tab Word
  f : Tab Word
  v : Tab Vec
  p : BitVec 8
deriving DecidableEq, Repr

/-- A task slot: the task that holds it and everything that belongs to the task (03 R67). `firstPc` and `arg` are the pc and
x3 it started with, `barPhase` is the phase in which
a stopped BARARW has arrived (17 R329), `mmaFlags` the flags of the completed blocks of the MMA at its pc that has not
retired (10 R224), `pushDue` when the value of the last push is produced (03 R69). -/
structure Slot where
  held : Bool
  gtid : Word
  region : Nat
  cls : Nat
  origin : TaskOrigin
  pc : Word
  firstPc : Word
  arg : Word
  enqueuedAt : Nat
  dispatchedAt : Nat
  x : Tab Word
  xRes : Tab Nat
  f : Tab Word
  v : Tab Vec
  p : BitVec 8
  pendX : List Nat
  pendF : List Nat
  pendV : List Nat
  late : List Late
  notBefore : Nat
  park : Park
  nextPc : Word
  nextSw : Bool
  trapNext : Option Trap
  heldWords : Option HeldWords
  stop : Option Bool
  stopRequeue : Bool
  stopper : Option Who
  swPark : Bool
  barPhase : Option Nat
  fpflg : Word
  fpen : Word
  fpctl : Word
  spbad : Word
  mprog : Word
  mpva : Word
  mpvb : Word
  mmaFlags : Nat
  bphit : Word
  l2psel : Word
  out : List OutItem
  nextItem : Nat
  everCounted : Bool
  everOutside : Bool
  q0 : Word
  q2 : Word
  sfuReq : List SfuReq
  sfuFly : List SfuRes
  sfuRes : List SfuRes
  q3 : List Word
  stagedHdr : Option Word
  stagedPay : List Word
  q6 : List Word
  q6Popped : Nat
  q7 : List Word
  ackFlying : Nat
  pushDue : Nat
  q9 : List (Word × Nat)
  q10 : List (Word × Nat)
  q11 : List Word
  q12 : List PendingTrace
  q13Half : Option Word
  claimBuf : Option Nat
  swapped : Bool
  staged : List StagedNode
  wires : List (Endpoint × Endpoint)
  reserved : List Word
deriving DecidableEq, Repr

/-- A slot no task has held. Values the spec does not state are 0 (log 2). -/
def Slot.empty : Slot :=
  { held := false, gtid := 0, region := 0, cls := 0, origin := .region, pc := 0, firstPc := 0, arg := 0, enqueuedAt := 0,
    dispatchedAt := 0, x := [], xRes := [], f := [], v := [], p := 1#8, pendX := [], pendF := [], pendV := [],
    late := [], notBefore := 0, park := .none, nextPc := 0, nextSw := false, trapNext := none, heldWords := none, stop := none,
    stopRequeue := false, stopper := none, swPark := false, barPhase := none, fpflg := 0, fpen := 0, fpctl := 0, spbad := 0, mprog := 0,
    mpva := 0, mpvb := 0, mmaFlags := 0, bphit := 0, l2psel := 0, out := [],
    nextItem := 0, everCounted := false, everOutside := false, q0 := 0, q2 := 0, sfuReq := [],
    sfuFly := [], sfuRes := [], q3 := [], stagedHdr := none, stagedPay := [], q6 := [], q6Popped := 0, q7 := [],
    ackFlying := 0, pushDue := 0, q9 := [], q10 := [], q11 := [], q12 := [], q13Half := none, claimBuf := none, swapped := false, staged := [],
    wires := [], reserved := [] }

/-- How a queued task starts (15 R293): from R79, or from saved context `ctx`. -/
inductive StartFrom where
  | fresh (pc x3 x4 : Word)
  | saved (ctx : Nat)
deriving DecidableEq, Repr

/-- A task in a run queue (15 R291). -/
structure QTask where
  gtid : Word
  region : Nat
  cls : Nat
  origin : TaskOrigin
  from_ : StartFrom
  enqueuedAt : Nat
  missingRule : Option Nat
deriving DecidableEq, Repr

/-- A saved task (18 R338): its context number, why it stopped, the core it left, and what the context does not hold. -/
structure SavedTask where
  ctx : Nat
  region : Nat
  cause : Nat
  core : Nat
  queued : Bool
  rest : Slot
deriving DecidableEq, Repr

/-- A tracked guard's state (05 R119). -/
inductive HoldState where
  | pending | held | pinned
deriving DecidableEq, Repr

/-- What a hold sends once its sub-blocks are written home. -/
structure HomeNext where
  src : Nat
  dst : Place
  ev : Event
deriving DecidableEq, Repr

/-- A guard a core tracks (05 R119): its hold record, window and dirty bitmap, the delivery in progress,
whether its release or flush has begun (05 R127, R128), and the writes home that are not acknowledged with what follows
them. -/
structure Hold where
  guardVa : Word
  guardPa : Nat
  region : Nat
  state : HoldState
  excl : Bool
  inPlace : Bool
  hix : Nat
  recAddr : Nat
  window : Nat
  wlen : Nat
  vlast : Nat
  sbSize : Nat
  nsb : Nat
  dirty : List Nat
  token : Who
  tokenReg : Nat
  home : Bool
  releasing : Bool
  got : Nat
  expect : Option Nat
  status : Nat
  v : Nat
  flushing : Bool
  homeLeft : Nat
  homeNext : List HomeNext
deriving DecidableEq, Repr

/-- A claim buffer (14 R273-R275): free, claiming, or held by a task; node contents are header, ports 1-4, payload. -/
structure ClaimBuf where
  region : Nat
  first : Word
  second : Word
  got : Nat
  nodeA : List Word
  nodeB : List Word
  owner : Option Word
  committed : Bool
deriving DecidableEq, Repr

/-- A divider operation (08 R170) with the result it will write. -/
structure DivJob where
  who : Who
  dst : RegId
  val : Word
  occ : Nat
deriving DecidableEq, Repr

/-- A parked waiter of a barrier name (17 R323). -/
structure BarWaiter where
  who : Who
  w : Nat
deriving DecidableEq, Repr

/-- A hardware barrier name (17 R323): the object bound to it and its waiter set. -/
structure BarName where
  obj : Nat
  waiters : List BarWaiter
deriving DecidableEq, Repr

/-- A retirement-tracker entry (12 R238): the task and its remaining outstanding items. -/
structure Tracker where
  gtid : Word
  region : Nat
  slot : Nat
  items : List OutItem
deriving DecidableEq, Repr

/-- A mailbox slot in use (15 R299). -/
structure MboxUse where
  region : Nat
  tag : Nat
deriving DecidableEq, Repr

/-- A gang as every member's core records it (09 R202): the members' slots, and for each the rd of its GANGWAIT, the bundle
after it and that bundle's switch mark. -/
structure Gang where
  base : Nat
  size : Nat
  slots : List Nat
  waitRds : List Nat
  conts : List (Word × Bool)
deriving DecidableEq, Repr

/-- The order in which items of one source are performed (13 R256): source and destination. -/
structure Chan where
  src : Nat
  dst : Place
deriving DecidableEq, Repr

/-- An item in flight or a timed event: what takes effect, not before `due`. A `timed` one takes effect at `due`
exactly: the clock does not pass it. A `stopped` one is held at its source while the connection table changes. -/
structure Flight where
  id : Nat
  chan : Option Chan
  due : Nat
  timed : Bool
  stopped : Bool
  act : Event
deriving DecidableEq, Repr

/-- What a checked pair's fingerprint is fed with (19 R354): bytes, or the value still to come of a pending register. -/
inductive Fed where
  | data (bs : List Byte)
  | coming (d : RegId)
deriving DecidableEq, Repr

/-- A checked pair as the issuing core records it (19 R352-R356): partner and slots, the checkpoints of the open interval,
its undo log, the items held in its gate, what each member's fingerprint was fed with, the partner's own results of
divider operations under way, bundles issued, whether the interval ends with a bundle that takes effect only once it agrees
and whether it has agreed, whether it is a repetition or about to close, and the cycle at which the exchange ends. -/
structure Pair where
  partner : Nat
  slot : Nat
  partnerSlot : Nat
  ckSelf : Slot
  ckPartner : Slot
  undo : List (Nat × Word)
  gate : List Flight
  fedSelf : List Fed
  fedPartner : List Fed
  twin : List (RegId × Word)
  bundles : Nat
  serial : Bool
  agreed : Bool
  retried : Bool
  closing : Bool
  exchange : Option Nat
deriving DecidableEq, Repr

/-- A TLB entry (04 R93): region, first VA, size, and the leaf word. -/
structure TlbEntry where
  region : Nat
  va : Nat
  size : Nat
  leaf : Nat
deriving DecidableEq, Repr

/-- A core (01 R13): scratchpad, slots, run queue with the tasks its sources hold back while it is full (15 R291), the
region that loaded each tag entry (15 R419), the last task a message started (20 R369), mailbox unit, guards, node unit,
divider, atomic slot, counters. `reached` is the cycle in which a write, atomic or message from outside last took effect
at the core (07 R146, 15 R310), `ran` says whether a slot held a task as the cycle began (20 R367), `tailed` the cycle and slot
of its last TAIL (15 R310). `tlbBusy` is a running invalidation (04 R94): accesses in flight before that number must be
performed; `holdBusy` a running release (04 R106): region and page. -/
structure Core where
  sp : Memory
  slots : Tab Slot
  lastSlot : Nat
  issuedAt : Option Nat
  reached : Option Nat
  tailed : Option (Nat × Nat)
  dispatchedAt : Option Nat
  runq : List QTask
  runHold : List QTask
  starve : Tab Nat
  rqwt : Word
  rqlot : Word
  fpint : Word
  serial : Nat
  mbox : Tab MboxUse
  heldBounces : List (Msg × Nat)
  tags : Tab Word
  tagOwner : Tab Nat
  tagWait : Tab (List Nat)
  msgTask : Word
  seqOut : Tab Nat
  msgsFlying : Nat
  atomSeq : Tab Nat
  applied : Tab (Nat × Word)
  tracker : List Tracker
  heldRel : List HeldRelease
  holds : List Hold
  bag : List (Nat × Word × Word)
  claimBufs : Tab ClaimBuf
  freeNodes : List (Nat × Nat)
  ncalloc : Word
  ncfree : Word
  ncclaim : Word
  ncfail : Word
  ncdefer : Word
  nclink : Word
  ncdead : Word
  divQueue : List DivJob
  divRun : List DivJob
  divFree : Nat
  names : Tab BarName
  sealed : Bool
  gang : Option Gang
  pair : Option Pair
  pairedTo : Option Nat
  tlb : List TlbEntry
  tlbBusy : Option Nat
  holdBusy : Option (Nat × Nat)
  ctBusy : Bool
  ctResult : Bool
  tswait : Word
  tsrun : Word
  ran : Bool
  lineOwner : Tab Nat
  poison : List Nat
deriving DecidableEq, Repr

/-- The cluster control core number of a compute or control core's cluster (01 R19). -/
def controlOf (c : Nat) : Nat :=
  if c < 3072 then 3072 + c / 48
  else c

/-- A core at reset (15 R307, R309, 02 R48): L is 7, weights are 1, the lottery state and FPINT as their maps say. R48 gives
FPINT to compute cores: that a control or management core has one too, reset to its own number, is a DESIGN CHOICE (log 2). -/
def Core.reset (c : Nat) : Core :=
  { sp := [], slots := [], lastSlot := 7, issuedAt := none, reached := none, tailed := none,
    dispatchedAt := none, runq := [], runHold := [], starve := [],
    rqwt := 0x01010101#64, rqlot := BitVec.ofNat 64 ((c * Config.lotMul + 1) % 2 ^ 32),
    fpint := BitVec.ofNat 64 (controlOf c), serial := 0, mbox := [], heldBounces := [], tags := [], tagOwner := [], tagWait := [], msgTask := 0,
    seqOut := [], msgsFlying := 0, atomSeq := [], applied := [], tracker := [], heldRel := [], holds := [], bag := [], claimBufs := [],
    freeNodes := [], ncalloc := 0, ncfree := 0, ncclaim := 0, ncfail := 0, ncdefer := 0, nclink := 0, ncdead := 0,
    divQueue := [], divRun := [], divFree := 0, names := [], sealed := false, gang := none, pair := none,
    pairedTo := none, tlb := [],
    tlbBusy := none, holdBusy := none, ctBusy := false, ctResult := false, tswait := 0, tsrun := 0, ran := false,
    lineOwner := [], poison := [] }

/-- A range-table entry (04 R95). -/
structure RangeEntry where
  base : Nat
  len : Nat
  ty : Nat
  w : Bool
  r : Bool
  param : Word
deriving DecidableEq, Repr

/-- A Harp handle (06 R135). -/
structure Handle where
  va : Nat
  pa : Nat
deriving DecidableEq, Repr

/-- A table set loaded into a cluster (16 R313). -/
structure TableSet where
  region : Nat
  ranges : List RangeEntry
  harp : Tab Handle
  nbase : Nat
deriving DecidableEq, Repr

/-- A loop-unit counter (17 R331). -/
structure LoopCtr where
  next : Nat
  n : Nat
  p : Nat
  min : Nat
  region : Nat
deriving DecidableEq, Repr

/-- Bank states (06 R136). -/
inductive BankSt where
  | idle | refresh | opening | open_ | precharge
deriving DecidableEq, Repr

/-- A DRAM bank's Harp state (06 R136-R145). `until_` is the cycle PRECHARGE or REFRESH ends, and of an OPENING bank that
of the refresh its activation waits for, `refreshDue` says that a postponed refresh waits, `locs` is where the row's pages at
`va` are read, `errs` the units found bad at the opening, `row` is the row as opened, `hold` the in-place guard it was opened
under. A close asked for says whether a lost record is kept. -/
structure Bank where
  st : BankSt
  handle : Nat
  core : Nat
  region : Nat
  key : Nat
  ready : Nat
  until_ : Nat
  refreshDue : Bool
  lost : Option (Nat × Nat × Nat)
  closeAsked : Option Bool
  readEnd : Nat
  rowPa : Nat
  row : Option (BitVec 65536)
  va : Nat
  locs : List Loc
  errs : List Nat
  hold : Option Word
deriving DecidableEq, Repr

/-- A bank at reset (06 R136): IDLE. -/
def Bank.reset : Bank :=
  { st := .idle, handle := 0, core := 0, region := 0, key := 0, ready := 0, until_ := 0, refreshDue := false,
    lost := none, closeAsked := none, readEnd := 0, rowPa := 0, row := none, va := 0, locs := [], errs := [], hold := none }

/-- A row slot of the matrix engine (06 R134, R141), with the transfers on their way: number, row, units in error. -/
structure RowSlot where
  valid : Bool
  row : BitVec 65536
  poison : List Nat
  coming : List (Nat × BitVec 65536 × List Nat)
deriving DecidableEq, Repr

/-- The operands of an MMA as the other member of a pair reads them (19 R357): record addresses and tensor scales. -/
structure MmaTwin where
  xd : Nat
  xa : Nat
  xb : Nat
  t0 : Nat
  t1 : Nat
deriving DecidableEq, Repr

/-- An issued MMA at its engine (10 R211): which one, its record addresses and tensor scales, its place in the order of
issue, the earlier accesses it waits for, and in a pair the other member's operands. -/
structure MmaReq where
  who : Who
  region : Nat
  kind : Nat
  xd : Nat
  xa : Nat
  xb : Nat
  t0 : Nat
  t1 : Nat
  order : Nat
  waits : List Nat
  twin : Option MmaTwin
deriving DecidableEq, Repr

/-- The accepted MMA (10 R211, R222): its records, those the pair's other member names, whether the block at BLK is being
computed again (19 R357), blocks completed in this acceptance, their flags, the host-cached line its reads wait for, the
pieces of operand data read for the block so far, and for the other member, since when; and of the block whose rows are being
written the writes not yet acknowledged, its arrivals (core, two words), its flags and its first numeric event. -/
structure MmaRun where
  req : MmaReq
  recA : Nat
  recB : Nat
  recO : Nat
  twin : Option (Nat × Nat × Nat)
  again : Bool
  blk : Nat
  done : Nat
  flags : Nat
  line : Option Nat
  pieces : List (List Byte)
  twinPieces : List (List Byte)
  writing : Bool
  since : Nat
  waits : List Nat
  arrivals : List (Nat × Word × Word)
  blkFlags : Nat
  prov : Option (Word × Word)
deriving DecidableEq, Repr

/-- A cluster's shared units (01 R13). `image` is the length of the program image it holds (16 R313);
`chunks` holds the loop unit's answers not yet written (17 R333). -/
structure Cluster where
  prog : Memory
  rules : Memory
  image : Option Nat
  sets : Tab TableSet
  tlb : List TlbEntry
  mxTlb : List TlbEntry
  loops : Tab LoopCtr
  chunks : List (Who × Word)
  sfuNext : Nat
  sfuLast : Option Nat
  mxlot : Word
  mmaPending : List MmaReq
  mmaChosen : Option MmaReq
  mmaRun : Option MmaRun
  mmaIdle : Bool
  mmaStarve : Tab Nat
  mmaOrder : Nat
  rows : Tab RowSlot
  banks : Tab Bank
  chanUsed : Tab Nat
deriving DecidableEq, Repr

/-- A cluster at reset (10 R227, 17 R331). -/
def Cluster.reset (k : Nat) : Cluster :=
  { prog := [], rules := [], image := none, sets := [], tlb := [], mxTlb := [], loops := [], chunks := [], sfuNext := 0, sfuLast := none,
    mxlot := BitVec.ofNat 64 (((4096 + k) * Config.lotMul + 1) % 2 ^ 32), mmaPending := [], mmaChosen := none, mmaRun := none,
    mmaIdle := false, mmaStarve := [], mmaOrder := 0, rows := [], banks := [], chanUsed := [] }

/-- A counter-cache entry (04 R100). -/
structure PageCount where
  region : Nat
  va : Nat
  count : Nat
deriving DecidableEq, Repr

/-- A held write (04 R103): the page-table root its VA is mapped by, and the write. -/
structure HeldWrite where
  root : Nat
  w : WritePkt
deriving DecidableEq, Repr

/-- A page whose held writes have been applied and whose later writes are applied on arrival (04 R104): its controller,
root, first VA and size. -/
structure Released where
  ctl : Nat
  root : Nat
  va : Nat
  size : Nat
deriving DecidableEq, Repr

/-- A circuit endpoint (22 R381-R386): 0 X+, 1 X−, 2 Y, 3 off; paused by calibration; spilling. -/
structure Circuit where
  dir : Nat
  paused : Bool
  spilling : Bool
  retraining : Bool
deriving DecidableEq, Repr

/-- A grantee of the group being granted (05 R123): its request, whether its PULL came, the sub-blocks asked of the last
holder while no FWDDONE has come, sub-blocks sent and lost, and whether its token completed. -/
structure Member where
  acq : AcqPkt
  pulled : Bool
  due : Option (List Nat)
  sent : Nat
  lost : Nat
  finished : Bool
deriving DecidableEq, Repr

/-- The Capo's side of a guard beyond the object in DRAM (05 R121-R123): the group being granted with what held before
the grant, the queued requests, and the region whose task bound the guard with the
root of its page tables and the key of the object's leaf (R418), and the sub-blocks a lazy release pinned. -/
structure CapoGuard where
  group : List Member
  vp : Nat
  wasDirty : Bool
  lxCore : Nat
  lxChip : Nat
  poisoned : Bool
  queue : List AcqPkt
  region : Nat
  root : Nat
  key : Nat
  pins : List Nat
deriving DecidableEq, Repr

def CapoGuard.empty : CapoGuard :=
  { group := [], vp := 0, wasDirty := false, lxCore := 0, lxChip := 0, poisoned := false, queue := [], region := 0, root := 0,
    key := 0, pins := [] }

/-- A die (01 R12): harvest, tables, ready queue, counters, hold queues, Turfy, endpoints. `trRegion` is the region whose
mapping TRBASE is read in, `rpNext` each core's expected entries: log index, source and SEQ, waiting since. `rpHeld` names the
messages that forced replay holds back, in arrival order, and `rpFree` those that a divergence has released (20 R369). `leaf`
is the next leaf of the die's own XMSS key (21 R376). -/
structure Die where
  excluded : Bool
  fused : List Nat
  live : Nat
  gen : Nat
  table : List Nat
  homes : List (Nat × Nat)
  records : Tab (Nat × Word)
  ready : List ReadyEntry
  stealNext : Nat
  counts : List PageCount
  holdq : Tab (List HeldWrite)
  released : List Released
  snoop : Tab (List Nat)
  bpg : Tab Word
  bpc : Tab Word
  trbase : Word
  trsize : Word
  trhead : Word
  trtail : Word
  trdrop : Word
  trctl : Word
  trRegion : Nat
  tssteal : Word
  rpbase : Word
  rpsize : Word
  rpidx : Word
  rprgn : Word
  rpNext : Tab (List (Nat × Nat × Nat))
  rpHeld : List Nat
  rpFree : List Nat
  leaf : Nat
  ec : Tab Word
  energy : Word
  pwr : Nat
  circuits : Tab Circuit
deriving DecidableEq, Repr

/-- A die at reset (19 R360, 20 R361, 22 R390). -/
def Die.reset : Die :=
  { excluded := false, fused := [], live := 0, gen := 0, table := [], homes := [], records := [], ready := [], stealNext := 0, counts := [],
    holdq := [], released := [], snoop := [], bpg := [], bpc := [], trbase := 0, trsize := 0, trhead := 0, trtail := 0, trdrop := 0,
    trctl := 0, trRegion := 0, tssteal := 0, rpbase := 0, rpsize := 0, rpidx := 0, rprgn := 0, rpNext := [], rpHeld := [], rpFree := [], leaf := 0,
    ec := [],
    energy := 0, pwr := 0, circuits := [] }

/-- A region as the firmware knows it: the effective RW fields of its RCB (16 R311, R312). The HW fields stand in the
RCB in memory. `killCause` is the final STATUS and CAUSE where a fault has fixed them, `dying` says that it is being
killed. -/
structure Region where
  id : Nat
  parent : Nat
  children : List Nat
  rcbPa : Nat
  rcbVa : Nat
  ovr : Nat
  dies : Nat
  clusters : Nat
  guardq : Nat
  mboxq : Nat
  nodeq : Nat
  mxtix : Nat
  w : List Nat
  stagger : Nat
  fpol : Bool
  conf : Bool
  key : Nat
  replay : Nat
  ptroot : Nat
  rangetab : Nat
  harptab : Nat
  nbase : Nat
  tf : List Nat
  image : Nat
  imglen : Nat
  ruletab : Nat
  tagtab : Nat
  data : Nat
  simage : Nat
  slen : Nat
  nqbase : Nat
  nqsize : Nat
  nqOwner : Nat
  accthr : Nat
  ctxarea : Nat
  ctxn : Nat
  ctxOwner : Nat
  entry : Nat
  alog : Nat
  setOwner : Nat
  startedBy : Msg
  killCause : Option (Nat × Nat)
  dying : Bool
  nodesLive : List Nat
  startOrder : Nat
  firstFault : Nat
  firstCause : Nat
  nfault : Nat
  debug : Bool
deriving DecidableEq, Repr

/-- A copy in the copy engine (07 R155-R161): `pos` is the copy offset below which its bytes are performed, `started` that
its word stands; `phys` marks a checkpoint copy (04 R110). -/
structure Copy where
  id : Nat
  who : Who
  region : Nat
  token : Nat
  two : Bool
  dst : Word
  src : Word
  len : Nat
  rows : Nat
  dpitch : Int
  spitch : Int
  bad : Bool
  waits : List Nat
  phys : Bool
  pos : Nat
  started : Bool
  line : Option Nat
  result : Word
  failVa : Word
deriving DecidableEq, Repr

/-- A scale-out port (22 R387, R388). `dropped` counts the frames of another EtherType. -/
structure Port where
  up : Bool
  far : Nat
  nextSeq : Nat
  expect : Nat
  unacked : List (Nat × List Msg)
  oldestAt : Nat
  lastAckAt : Nat
  dropped : Nat
deriving DecidableEq, Repr

def Port.reset : Port := ⟨false, 0, 0, 0, [], 0, 0, 0⟩

/-- A memory key slot (21 R378). -/
structure KeySlot where
  region : Nat
  key : List Byte
  dbg : Bool
deriving DecidableEq, Repr

/-- The host port and security processor (21 R370-R378). -/
structure HostPort where
  hrbase : Word
  hrsize : Word
  hrhead : Word
  hrtail : Word
  hmdrop : Word
  cap : Nat
  err : Nat
  stage : Nat
  live : Nat
  secbuf : Word
  busy : Bool
  rslot : Nat
  result : Nat
  rssel : Word
  rscyc : Tab Word
  rsenrg : Tab Word
  rsbyte : Tab Word
  intOut : Bool
  interrupts : Nat
  keys : Tab KeySlot
  leaf : Nat
  seq : Tab Nat
  measure : List Byte
  regionMeasure : Tab (List Byte)
deriving DecidableEq, Repr

def HostPort.reset : HostPort :=
  { hrbase := 0, hrsize := 0, hrhead := 0, hrtail := 0, hmdrop := 0, cap := 0, err := 0, stage := 0, live := 0,
    secbuf := 0, busy := false, rslot := 0, result := 0, rssel := 0, rscyc := [], rsenrg := [], rsbyte := [],
    intOut := false, interrupts := 0, keys := [], leaf := 0, seq := [], measure := [], regionMeasure := [] }

/-- Who moves next (log 3): a core issues, the item at a place of the flight list takes effect, a unit of the part acts,
the outside world acts, or a cycle passes. -/
inductive Turn where
  | issue (core : Nat)
  | fire (place : Nat)
  | unit (e : Event)
  | act (i : Instr)
  /-- a cluster control core commands a checkpoint copy of `len` bytes between physical addresses (04 R110, log 11) -/
  | checkpoint (core : Nat) (src dst : Word) (len : Nat)
  | tick
deriving DecidableEq, Repr

/-- How the execution of a bundle's word ended. -/
inductive Ended where
  | done | trapped (t : Trap) | stalled
deriving DecidableEq, Repr

/-- The bundle being executed: its core and slot, address and size, whether its other words are plain, the transfer it
takes, flags it merged and from where, values popped, how it ended, and the number of its first item in flight. -/
structure Cur where
  core : Nat
  slot : Nat
  pc : Word
  size : Nat
  cIsNop : Bool
  target : Option Word
  flags : BitVec 6
  flagSrc : Nat
  popped : List Word
  fpctl : Word
  ended : Ended
  freed : Bool
  first : Nat
  line : Option Nat
deriving DecidableEq, Repr

def Cur.empty : Cur :=
  { core := 0, slot := 0, pc := 0, size := 4, cIsNop := true, target := none, flags := 0, flagSrc := 0, popped := [],
    fpctl := 0, ended := .done, freed := false, first := 0, line := none }

/-- What has left the package. -/
inductive Sent where
  | host (m : Msg)
  | interrupt
  | chip (n : Nat) (m : Msg)
  | chipGuard (n : Nat) (e : Event)
  | chipSub (n : Nat) (w : WritePkt)
  | chipAtomic (n : Nat) (a : AtomPkt)
  | frame (port fseq : Nat)
  | frameAck (port fseq : Nat) (nak : Bool)
  | chipStatus (n : Nat) (m : Msg) (result : Nat)
  | backInvalidate (die ctl line : Nat)
  | snoopReply (port addr : Nat)
  | hostData (pa : Nat) (data : List Byte)
deriving DecidableEq, Repr

/-- The scale-out interface's record of a (source chip, source core) (12 R247): LAST, VAL, and whether the operation
numbered LAST has returned. -/
structure SoRecord where
  last : Nat
  val : Word
  done : Bool
deriving DecidableEq, Repr

/-- A connection-table change under way (22 R386): the core that asked, the table's bytes, and the circuits still to be
retrained once it is written. -/
structure CtChange where
  core : Nat
  table : List Nat
  left : Nat
deriving DecidableEq, Repr

/-- The package. `cycleFlight` is the number of the first item launched in this cycle (17 R333), `firing` that of the item
that last took effect, under which it goes back if it must wait. -/
structure State where
  cycle : Nat
  chipId : Nat
  mem : Memory
  dramPoison : List Nat
  cores : Tab Core
  clusters : Tab Cluster
  dies : Tab Die
  regions : Tab Region
  nextOrder : Nat
  saved : List SavedTask
  copies : Tab Copy
  nextCopy : Nat
  capos : Tab CapoGuard
  expansion : List Nat
  pwrcap : Word
  pkgPwr : Nat
  duty : Nat
  pwrSum : List Nat
  ctChange : Option CtChange
  ports : Tab Port
  soRecords : Tab SoRecord
  soSeq : Tab Nat
  soAtoms : Tab Nat
  soOut : List (Nat × Nat)
  host : HostPort
  flights : List Flight
  nextFlight : Nat
  cycleFlight : Nat
  firing : Nat
  outbox : List Sent
  cur : Cur
  turns : List Turn
deriving DecidableEq, Repr

/-- The package after reset, before firmware runs (00 R7; log 1, log 2, log 4). -/
def State.reset : State :=
  { cycle := 0, chipId := 0, mem := [], dramPoison := [], cores := [], clusters := [], dies := [], regions := [],
    nextOrder := 0, saved := [], copies := [], nextCopy := 0, capos := [], expansion := [],
    pwrcap := 3600#64, pkgPwr := 0, duty := 256, pwrSum := [], ctChange := none, ports := [],
    soRecords := [], soSeq := [], soAtoms := [], soOut := [], host := HostPort.reset,
    flights := [], nextFlight := 0, cycleFlight := 0, firing := 0, outbox := [], cur := Cur.empty, turns := [] }

/-- Why the machine stops. -/
inductive Fault where
  /-- Boot failed with a wrong firmware signature or version: the package halts and only BAR2 answers (21 R375). Raised
  by step for every turn but a control-page access. Safe: the spec gives this stuck state. -/
  | packageHalted
deriving DecidableEq, Repr

/-- Why an instruction has no meaning in this model. -/
inductive Refusal where
  /-- Raised by an arm of exec for an instruction not modelled yet. Safe. -/
  | notModelled (mnemonic : String)
deriving DecidableEq, Repr

end Sys2Proof.Machine
end

