-- ==== Sys2Proof/Machine/Tables.lean ====
section
/-! DEFINITION. Sparse tables, byte stores in canonical form and the bit fields of words (spec 00 R1). -/

namespace Sys2Proof.Machine

/-- The entry of key k, or the table's default. -/
def tget {α : Type} (t : Tab α) (k : Nat) (d : α) : α :=
  match t with
  | [] => d
  | (k', v) :: r => if k' = k then v else tget r k d

/-- The table with entry v at key k. -/
def tset {α : Type} (t : Tab α) (k : Nat) (v : α) : Tab α :=
  match t with
  | [] => [(k, v)]
  | (k', w) :: r => if k' = k then (k, v) :: r else (k', w) :: tset r k v

/-- The entry of key k, if listed. -/
def tfind {α : Type} (t : Tab α) (k : Nat) : Option α :=
  match t with
  | [] => none
  | (k', v) :: r => if k' = k then some v else tfind r k

/-- The table without key k. -/
def tdel {α : Type} (t : Tab α) (k : Nat) : Tab α := t.filter fun e => !(e.1 == k)

/-- The byte at address a: 0 where nothing is listed (log 1). -/
def mget (m : Memory) (a : Nat) : Byte :=
  match m with
  | [] => 0#8
  | (a', b) :: r => if a' = a then b else if a < a' then 0#8 else mget r a

/-- The store with byte b at address a; a byte equal to the unwritten byte is not listed. -/
def mset (m : Memory) (a : Nat) (b : Byte) : Memory :=
  match m with
  | [] => if b = 0#8 then [] else [(a, b)]
  | (a', b') :: r =>
    if a' = a then (if b = 0#8 then r else (a, b) :: r)
    else if a < a' then (if b = 0#8 then (a', b') :: r else (a, b) :: (a', b') :: r)
    else (a', b') :: mset r a b

/-- Strictly rising addresses above lo, and no listed byte equal to the unwritten one. -/
def mwfFrom (lo : Nat) : Memory → Bool
  | [] => true
  | (a, b) :: r => decide (lo ≤ a) && b != 0#8 && mwfFrom (a + 1) r

/-- The canonical form of a byte store. -/
def Memory.wf (m : Memory) : Bool := mwfFrom 0 m

/-- n bytes from address a. -/
def mgets (m : Memory) (a : Nat) : Nat → List Byte
  | 0 => []
  | n + 1 => mget m a :: mgets m (a + 1) n

/-- Bytes written from address a upwards. -/
def msets (m : Memory) (a : Nat) : List Byte → Memory
  | [] => m
  | b :: r => msets (mset m a b) (a + 1) r

/-- The little-endian number of a byte list (00 R1). -/
def leNat : List Byte → Nat
  | [] => 0
  | b :: r => b.toNat + 256 * leNat r

/-- The n little-endian bytes of a number. -/
def natLe : Nat → Nat → List Byte
  | 0, _ => []
  | n + 1, v => BitVec.ofNat 8 v :: natLe n (v / 256)

/-- The n-byte little-endian number at address a. -/
def mread (m : Memory) (a n : Nat) : Nat := leNat (mgets m a n)

/-- The n low bytes of v written at address a. -/
def mwrite (m : Memory) (a n v : Nat) : Memory := msets m a (natLe n v)

/-- Bits [hi:lo] of a number (00 R1). -/
def bits (v hi lo : Nat) : Nat := v / 2 ^ lo % 2 ^ (hi + 1 - lo)

/-- Bit n of a number. -/
def bit (v n : Nat) : Bool := v / 2 ^ n % 2 == 1

/-- The number with bits [hi:lo] replaced by x. -/
def putBits (v hi lo x : Nat) : Nat :=
  v - bits v hi lo * 2 ^ lo + (x % 2 ^ (hi + 1 - lo)) * 2 ^ lo

/-- A word from a number. -/
def w64 (n : Nat) : Word := BitVec.ofNat 64 n

/-- Sign extension of the low w bits to 64. -/
def sext64 (w n : Nat) : Word := w64 (ofInt 64 (toSigned w n))

/-- The rounding-up quotient. -/
def ceilDiv (a b : Nat) : Nat := (a + b - 1) / b

/-- The three xorshift steps of the lotteries (15 R308). -/
def lotStep (s : Nat) : Nat :=
  let a := Nat.xor s (s * 2 ^ 13 % 2 ^ 32)
  let b := Nat.xor a (a / 2 ^ 17)
  Nat.xor b (b * 2 ^ 5 % 2 ^ 32)

/-- The first element satisfying p with the list without it. -/
def takeFirst {α : Type} (p : α → Bool) : List α → Option (α × List α)
  | [] => none
  | a :: r =>
    if p a then some (a, r)
    else match takeFirst p r with
      | some (b, r') => some (b, a :: r')
      | none => none

/-- A list with element i replaced. -/
def lset {α : Type} (l : List α) (i : Nat) (v : α) : List α := l.set i v

/-- Insertion of n without repeats. -/
def addNat (l : List Nat) (n : Nat) : List Nat := if l.contains n then l else l ++ [n]

/-- Removal of n. -/
def delNat (l : List Nat) (n : Nat) : List Nat := l.filter fun m => m != n

/-! ## CRC-64 (19 R354) -/

/-- The ECMA-182 polynomial. -/
def crcPoly : BitVec 64 := 0x42F0E1EBA9EA3693#64

def crcShift : Nat → BitVec 64 → BitVec 64
  | 0, c => c
  | n + 1, c => crcShift n (if c.msb then (c <<< 1) ^^^ crcPoly else c <<< 1)

/-- CRC-64 over bytes, no reflection and no final xor. -/
def crcBytes : BitVec 64 → List Byte → BitVec 64
  | c, [] => c
  | c, b :: r => crcBytes (crcShift 8 (c ^^^ (b.zeroExtend 64 <<< 56))) r

end Sys2Proof.Machine
end

