-- ==== Sys2Proof/Machine/Ops.lean ====
section
/-! DEFINITION. The named operations over the state that every meaning is written with: cores, slots and registers,
late results, items in flight and their counts, region control blocks, the sending of messages, and taking a trap. -/

namespace Sys2Proof.Machine

/-! ## Who is where (01 R4, R18, R19) -/

def isCompute (c : Nat) : Bool := decide (c < 3072)

def isControl (c : Nat) : Bool := decide (3072 ≤ c) && decide (c < 3136)

def isMgmt (c : Nat) : Bool := decide (3136 ≤ c) && decide (c < 3144)

/-- The die of a core number. -/
def dieOf (c : Nat) : Nat :=
  if c < 3072 then c / 384 else if c < 3136 then (c - 3072) / 8 else (c - 3136) % 8

/-- The cluster (die × 8 + cluster) of a core number. -/
def clusterOf (c : Nat) : Nat :=
  if c < 3072 then c / 48 else if c < 3136 then c - 3072 else (c - 3136) * 8

/-- Number within the cluster. -/
def inCluster (c : Nat) : Nat := c % 48

/-- Global mesh position of a compute core (01 R18). -/
def meshX (c : Nat) : Nat := (c / 384 % 4) * 32 + (c / 48 % 8 % 4) * 8 + c % 48 % 8

def meshY (c : Nat) : Nat := (c / 384 / 4) * 12 + (c / 48 % 8 / 4) * 6 + c % 48 / 8

/-! ## Access to the parts of the state -/

def getCore (s : State) (c : Nat) : Core := tget s.cores c (Core.reset c)

def setCore (s : State) (c : Nat) (k : Core) : State := { s with cores := tset s.cores c k }

def modCore (s : State) (c : Nat) (f : Core → Core) : State := setCore s c (f (getCore s c))

def coreSlot (k : Core) (i : Nat) : Slot := tget k.slots i Slot.empty

def getSlot (s : State) (c i : Nat) : Slot := coreSlot (getCore s c) i

def setSlot (s : State) (c i : Nat) (t : Slot) : State :=
  modCore s c fun k => { k with slots := tset k.slots i t }

def modSlot (s : State) (c i : Nat) (f : Slot → Slot) : State := setSlot s c i (f (getSlot s c i))

def getCluster (s : State) (k : Nat) : Cluster := tget s.clusters k (Cluster.reset k)

def setCluster (s : State) (k : Nat) (c : Cluster) : State := { s with clusters := tset s.clusters k c }

def modCluster (s : State) (k : Nat) (f : Cluster → Cluster) : State := setCluster s k (f (getCluster s k))

def getDie (s : State) (d : Nat) : Die := tget s.dies d Die.reset

def setDie (s : State) (d : Nat) (k : Die) : State := { s with dies := tset s.dies d k }

def modDie (s : State) (d : Nat) (f : Die → Die) : State := setDie s d (f (getDie s d))

def getRegion (s : State) (r : Nat) : Option Region := tfind s.regions r

def modRegion (s : State) (r : Nat) (f : Region → Region) : State :=
  match getRegion s r with
  | some g => { s with regions := tset s.regions r (f g) }
  | none => s

/-- The slot of the bundle being executed. -/
def curSlot (s : State) : Slot := getSlot s s.cur.core s.cur.slot

def modCur (s : State) (f : Slot → Slot) : State := modSlot s s.cur.core s.cur.slot f

/-- A compute core that is neither fused, sealed nor on an excluded die (16 R321). -/
def liveCore (s : State) (c : Nat) : Bool :=
  isCompute c && !(getDie s (dieOf c)).excluded && !(getDie s (dieOf c)).fused.contains (c % 384) && !(getCore s c).sealed

/-- A core whose scratchpad answers: a live compute core, or a control core of a live die that is not sealed. -/
def answering (s : State) (c : Nat) : Bool :=
  if isCompute c then liveCore s c else !(getDie s (dieOf c)).excluded && !(getCore s c).sealed

/-- The live compute cores of a die in increasing number (16 R321). -/
def liveCores (s : State) (d : Nat) : List Nat :=
  ((List.range 384).map fun i => d * 384 + i).filter (liveCore s)

/-! ## Order by a number -/

/-- Insertion into a list ordered by a number. -/
def insertBy {α : Type} (f : α → Nat) (a : α) : List α → List α
  | [] => [a]
  | b :: r => if f a ≤ f b then a :: b :: r else b :: insertBy f a r

/-- A list in the order of a number; of equal ones the first stays first. -/
def sortBy {α : Type} (f : α → Nat) (l : List α) : List α := l.foldr (insertBy f) []

/-! ## Registers (03 R66, R73) -/

/-- x[n]; x0 reads zero. -/
def getX (t : Slot) (n : Nat) : Word := if n = 0 then 0#64 else tget t.x n 0#64

def getF (t : Slot) (n : Nat) : Word := tget t.f n 0#64

def getV (t : Slot) (n : Nat) : Vec := tget t.v n 0#512

/-- p[n]; p0 reads true. -/
def getP (t : Slot) (n : Nat) : Bool := if n % 8 = 0 then true else t.p.getLsbD (n % 8)

/-- A register written now: x0 and p0 discard; a scalar write brings a fresh residue (19 R347). -/
def putReg (t : Slot) (d : RegId) (v : Vec) : Slot :=
  match d with
  | .x n => if n = 0 then t
      else { t with x := tset t.x n (BitVec.ofNat 64 v.toNat), xRes := tdel t.xRes n }
  | .f n => { t with f := tset t.f n (BitVec.ofNat 64 v.toNat) }
  | .v n => { t with v := tset t.v n v }
  | .p n => if n % 8 = 0 then t
      else { t with p := if v.toNat % 2 = 1 then t.p ||| (1#8 <<< (n % 8)) else t.p &&& ~~~(1#8 <<< (n % 8)) }
  | .none => t

/-- Whether a register's pending bit is set (03 R75). -/
def isPending (t : Slot) (d : RegId) : Bool :=
  match d with
  | .x n => t.pendX.contains n
  | .f n => t.pendF.contains n
  | .v n => t.pendV.contains n
  | .p _ => false
  | .none => false

/-- Sets a pending bit, of x0 too (03 R75, 18 R338). -/
def setPending (t : Slot) (d : RegId) : Slot :=
  match d with
  | .x n => { t with pendX := addNat t.pendX n }
  | .f n => { t with pendF := addNat t.pendF n }
  | .v n => { t with pendV := addNat t.pendV n }
  | .p _ => t
  | .none => t

def clearPending (t : Slot) (d : RegId) : Slot :=
  match d with
  | .x n => { t with pendX := delNat t.pendX n }
  | .f n => { t with pendF := delNat t.pendF n }
  | .v n => { t with pendV := delNat t.pendV n }
  | .p _ => t
  | .none => t

/-- A fixed-latency result issued now (03 R73): visible from cycle now + lat. -/
def writeLate (s : State) (d : RegId) (lat : Nat) (v : Vec) : State :=
  modCur s fun t => { t with late := t.late ++ [⟨s.cycle + lat, d, v, BitVec.allOnes 512, none⟩] }

/-- A landed result, with its predicted residue where that is not the value's own (19 R347). -/
def putLate (t : Slot) (l : Late) : Slot :=
  let t1 := putReg t l.dst l.val
  match l.dst with
  | .x n =>
    match l.res with
    | some r => if n == 0 then t1 else { t1 with xRes := tset t1.xRes n r }
    | none => t1
  | .v n => putReg t (.v n) ((getV t n &&& ~~~l.mask) ||| (l.val &&& l.mask))
  | .f _ => t1
  | .p _ => t1
  | .none => t1

/-- The late results due by a cycle written in the order in which they become visible, those of one cycle in issue order;
the others kept (03 R73, R77). -/
def landLate (t : Slot) (now : Nat) : Slot :=
  let t' := { t with late := t.late.filter fun l => decide (now < l.due) }
  (sortBy Late.due (t.late.filter fun l => decide (l.due ≤ now))).foldl putLate t'

/-! ## Parks (03 R78, 18 R337) -/

/-- Parks whose bundle issues again when the task is stopped in them (18 R337). -/
def issuesAgain (p : Park) : Bool :=
  match p with
  | .waitr _ | .fence _ _ | .join _ _ | .gangWait _ | .barrier _ _ _ _ _ _ _ _ | .mma => true
  | .none | .switchMark | .answer _ _ | .gangForm _ _ _ | .flush _ _ _ _ | .releaseDrain _ _ _ _ _ | .trapped _ | .fpEvent _
  | .halted | .readBack _ => false

/-- The park after a bundle that parked ends: the switch mark's, where the bundle carries it. -/
def afterPark (t : Slot) : Slot := { t with park := if t.nextSw then .switchMark else .none, nextSw := false }

/-- A parked bundle completes: the task goes on at the next bundle. -/
def completePark (t : Slot) : Slot := { afterPark t with pc := t.nextPc }

/-- Parks the issuing slot. -/
def parkIn (p : Park) (s : State) : State := modCur s fun t => { t with park := p }

/-- No pending bit is set and every fixed-latency result is visible. -/
def settled (t : Slot) : Bool := t.pendX.isEmpty && t.pendF.isEmpty && t.pendV.isEmpty && t.late.isEmpty

/-- Parks that end when results arrive: WAITR's (18 R344) and the switch mark's (03 R78). -/
def wakeSlot (t : Slot) : Slot :=
  let t1 := match t.park with
    | .waitr rs => if rs.all fun r => !isPending t r then completePark t else t
    | _ => t
  match t1.park with
  | .switchMark => if settled t1 && t1.heldWords.isNone then { t1 with park := .none, swPark := false } else t1
  | _ => t1

/-! ## Items in flight -/

/-- The compute die an item leaves from: cores, controllers and matrix engines stand on one. -/
def srcDie (src : Nat) : Option Nat :=
  if 2 ^ 88 ≤ src then (if src % 2 ^ 24 < 3144 then some (dieOf (src % 2 ^ 24)) else none)
  else if src < 65536 then (if src / 16 < 3144 then some (dieOf (src / 16)) else none)
  else if src < 65600 then some ((src - 65536) / 8)
  else if src < 65664 then some ((src - 65600) / 8)
  else none

/-- The core an item leaves from, if a core or a task of one sent it. -/
def srcCore (src : Nat) : Option Nat :=
  if 2 ^ 88 ≤ src then some (src % 2 ^ 24) else if src < 65536 then some (src / 16) else none

/-- The compute die of a place. -/
def placeDie (p : Place) : Option Nat :=
  match p with
  | .core c => if c < 3144 then some (dieOf c) else none
  | .ctrl d _ => some d
  | .port _ => none
  | .host => none
  | .chip _ => none

/-- Whether an item passes from one compute die to another (22 R381). -/
def crossDie (ch : Option Chan) : Bool :=
  match ch with
  | some c =>
    match srcDie c.src, placeDie c.dst with
    | some a, some b => a != b
    | _, _ => false
  | none => false

/-- Puts an item in flight from a source to a destination: performed no earlier than the source's earlier items to the
same destination (13 R256). While the connection table changes, one between dies is held at its source (22 R386). -/
def launchAs (s : State) (id : Nat) (ch : Option Chan) (due : Nat) (timed : Bool) (i : Event) : State :=
  { s with flights := s.flights ++ [⟨id, ch, due, timed, s.ctChange.isSome && crossDie ch, i⟩] }

/-- An item in flight under the next number. -/
def launch (s : State) (ch : Option Chan) (due : Nat) (timed : Bool) (i : Event) : State :=
  { launchAs s s.nextFlight ch due timed i with nextFlight := s.nextFlight + 1 }

/-- The source of a task's accesses: the task on its core, whichever slot it holds (13 R256, R267). -/
def taskSrc (core : Nat) (g : Word) : Nat := 2 ^ 88 + g.toNat * 2 ^ 24 + core % 2 ^ 24

/-- The source of a memory controller and its Capo. -/
def ctlSrc (d c : Nat) : Nat := 65536 + d * 8 + c

/-- The source of a cluster's matrix engine. -/
def engineSrc (cl : Nat) : Nat := 65536 + 64 + cl

/-- The source of a core's own units. -/
def coreSrc (core : Nat) : Nat := core * 16 + 8

/-- An item sent by source `src` to `dst`, at any later moment. -/
def sendTo (s : State) (src : Nat) (dst : Place) (i : Event) : State :=
  launch s (some ⟨src, dst⟩) s.cycle false i

/-- Takes the next number of an item in flight. -/
def takeNumber (s : State) : State := { s with nextFlight := s.nextFlight + 1 }

/-- A location atomics cannot have: stands in the message of a RED whose checks failed after its retirement (12 R242, R249). -/
def noLoc : Loc := .sp 4095 0

/-- A home identity as a key: a scratchpad's owner keeps records of its own, apart from those of the device identity of its
number (12 R246). -/
def keyOf (l : Loc) (home : Nat) : Nat :=
  match l with
  | .sp _ _ => home
  | .phys _ _ => 4096 + home
  | .held _ _ _ _ => 4096 + home

def homeKey (a : AtomPkt) : Nat := keyOf a.loc a.home

/-- An item leaves under its number; an atomic message takes its sequence number towards its home identity then
(12 R246). -/
def sendAs (s : State) (id src : Nat) (dst : Place) (e : Event) : State :=
  let go := fun (s : State) (e : Event) => launchAs s id (some ⟨src, dst⟩) s.cycle false e
  match e with
  | .atomicMessage a =>
   if a.loc == noLoc then go s e
   else
    let k := getCore s a.source
    let n := tget k.atomSeq (homeKey a) 1
    go (setCore s a.source { k with atomSeq := tset k.atomSeq (homeKey a) ((n + 1) % 4096) }) (.atomicMessage { a with seq := n })
  | _ => go s e

/-- An item leaves under the next number. -/
def sendEvent (s : State) (src : Nat) (dst : Place) (e : Event) : State := takeNumber (sendAs s s.nextFlight src dst e)

/-- An item stays inside its core (12 R244). -/
def keepInside (s : State) (core : Nat) (h : HeldRelease) : State :=
  modCore s core fun k => { k with heldRel := k.heldRel ++ [h] }

/-- An item stays inside its core, behind what it waits for (12 R244). -/
def holdInside (s : State) (core src : Nat) (dst : Place) (g : Word) (waits : List Nat) (e : Event) : State :=
  takeNumber (keepInside s core ⟨s.nextFlight, src, dst, g, waits, e⟩)

/-- An access of a task leaves for its destination, behind a release form of the task that waits for it (12 R244). -/
def taskSend (s : State) (core : Nat) (g : Word) (dst : Place) (e : Event) : State :=
  let src := taskSrc core g
  if (getCore s core).heldRel.any fun h => h.src == src && h.dst == dst then holdInside s core src dst g [] e
  else sendEvent s src dst e

/-- An item that must wait goes back under its number, before every other item of its source and destination. -/
def putBack (s : State) (src : Nat) (dst : Place) (e : Event) : State :=
  { s with flights := ⟨s.firing, some ⟨src, dst⟩, s.cycle, false, false, e⟩ :: s.flights }

/-- An answer or engine event with no order to keep. -/
def later (s : State) (i : Event) : State := launch s none s.cycle false i

/-- An event at an exact cycle. -/
def atCycle (s : State) (c : Nat) (i : Event) : State := launch s none c true i

/-! ## Region control blocks (16 R311) -/

/-- Word w of a region's RCB in memory. -/
def rcbWord (s : State) (r : Region) (w : Nat) : Nat := mread s.mem (r.rcbPa + 8 * w) 8

def rcbField (s : State) (r : Region) (w hi lo : Nat) : Nat := bits (rcbWord s r w) hi lo

/-- Replaces a field of an RCB in memory. -/
def rcbPut (s : State) (r : Region) (w hi lo v : Nat) : State :=
  { s with mem := mwrite s.mem (r.rcbPa + 8 * w) 8 (putBits (rcbWord s r w) hi lo v) }

def regStatus (s : State) (r : Region) : Nat := rcbField s r 0 31 24

/-- Whether nothing more of a region starts: it is gone, or being killed (16 R315). -/
def regionEnds (s : State) (rid : Nat) : Bool :=
  match getRegion s rid with
  | some r => r.dying
  | none => true

/-- STATUS RUNNING (16 R311). -/
def isRunning (s : State) (rid : Nat) : Bool :=
  match getRegion s rid with
  | some r => regStatus s r == 2
  | none => false

/-- Adds to a region's outstanding-store count ROSC (12 R238). -/
def roscAdd (s : State) (rid : Nat) (d : Int) : State :=
  match getRegion s rid with
  | some r => rcbPut s r 24 63 32 (((rcbField s r 24 63 32 : Nat) : Int) + d).toNat
  | none => s

/-- Adds to a region's outstanding-task count OTC (16 R315). -/
def otcAdd (s : State) (rid : Nat) (d : Int) : State :=
  match getRegion s rid with
  | some r => rcbPut s r 24 31 0 (((rcbField s r 24 31 0 : Nat) : Int) + d).toNat
  | none => s

/-! ## Outstanding accesses (12 R237, R238) -/

/-- Whether an item counts in OSC. -/
def countedKind : OutKind → Bool
  | .load | .amo => false
  | .store | .stn | .red | .msg | .copy | .node | .spawn => true

/-- The outstanding-store count (12 R237). -/
def oscOf (t : Slot) : Nat := (t.out.filter fun o => countedKind o.kind).length

/-- Whether a task issues in a checked pair whose open interval has bundles: their outside effects wait (19 R353, R355). -/
def pairOpen (s : State) (c i : Nat) : Bool :=
  match (getCore s c).pair with
  | some p => p.slot == i && p.bundles != 0
  | none => false

/-- Adds an outstanding access to slot (c, i); its number is the slot's next item. -/
def addOut (s : State) (c i : Nat) (k : OutKind) (ps : List Place) (sp : List (Nat × Nat)) (d : RegId) (f : LoadForm)
    (n : Nat) (acq : Bool) : State :=
  let t := getSlot s c i
  let s1 := setSlot s c i { t with
    out := t.out ++ [⟨t.nextItem, k, ps, sp, d, f, n, 0#512, BitVec.allOnes 512, acq, none⟩]
    nextItem := t.nextItem + 1
    everCounted := t.everCounted || countedKind k }
  if countedKind k then roscAdd s1 t.region 1 else s1

/-- The region of a GTID (15 R292). -/
def gtidRegion (g : Word) : Nat := bits g.toNat 63 48

/-! ## Messages (15 R297, R298) -/

/-- A header as software or hardware builds it: NPAY, TAG, DCHIP, DCORE. -/
def mkHdr (npay tag dchip dcore : Nat) : Word :=
  w64 (npay % 8 * 2 ^ 28 + tag % 256 * 2 ^ 20 + dchip % 256 * 2 ^ 12 + dcore % 4096)

def hdrDcore (h : Word) : Nat := bits h.toNat 11 0

def hdrDchip (h : Word) : Nat := bits h.toNat 19 12

def hdrTag (h : Word) : Nat := bits h.toNat 27 20

def hdrNpay (h : Word) : Nat := bits h.toNat 30 28

def hdrAck (h : Word) : Bool := bit h.toNat 31

def hdrScore (h : Word) : Nat := bits h.toNat 43 32

def hdrSchip (h : Word) : Nat := bits h.toNat 51 44

def hdrSeq (h : Word) : Nat := bits h.toNat 63 52

/-- Whether a header stays on this chip (15 R297). -/
def ownChip (s : State) (h : Word) : Bool := hdrDchip h == 0xFF || hdrDchip h == s.chipId

/-- Whether the task of a slot is that of the core's pair (19 R352). -/
def inPair (s : State) (core i : Nat) : Bool :=
  match (getCore s core).pair with
  | some p => p.slot == i
  | none => false

/-- The place a message is bound for. -/
def msgPlace (s : State) (h : Word) : Place :=
  if !ownChip s h then .chip (hdrDchip h)
  else if hdrDcore h == 4095 then .host
  else .core (hdrDcore h)

/-- Whether accesses or messages of the core stand inside it, bound for a place (12 R244). -/
def heldFor (s : State) (core : Nat) (dst : Place) : Bool := (getCore s core).heldRel.any fun h => h.dst == dst

/-- The next SEQ of a core towards a header's destination, taken: SEQ counts per source and destination core (15 R297). -/
def nextSeq (s : State) (src : Nat) (h : Word) : Nat × State :=
  let k := getCore s src
  let key := (if ownChip s h then s.chipId else hdrDchip h) * 4096 + hdrDcore h
  let seq := tget k.seqOut key 0
  (seq, setCore s src { k with seqOut := tset k.seqOut key ((seq + 1) % 4096) })

/-- Fills SEQ, SCHIP and SCORE (15 R297) and puts the message in flight from cycle `due` on, behind earlier accesses of the
core to the same destination (13 R266). -/
def sendMsgAt (s : State) (due src : Nat) (h : Word) (pay : List Word) (who : Who) (counted : Bool) : State :=
  let (seq, s0) := nextSeq s src h
  let hdr := w64 (seq * 2 ^ 52 + s.chipId % 256 * 2 ^ 44 + src % 4096 * 2 ^ 32 + bits h.toNat 31 0)
  let s1 := modCore s0 src fun k => { k with msgsFlying := if counted then k.msgsFlying + 1 else k.msgsFlying }
  let e : Event := .messageArrive ⟨hdr, pay, who, counted⟩
  let from_ := if counted then taskSrc src who.gtid else coreSrc src
  if heldFor s src (msgPlace s h) then holdInside s1 src from_ (msgPlace s h) who.gtid [] e
  else launch s1 (some ⟨from_, msgPlace s h⟩) due false e

/-- A message that leaves at once. -/
def sendMsg (s : State) (src : Nat) (h : Word) (pay : List Word) (who : Who) (counted : Bool) : State :=
  sendMsgAt s s.cycle src h pay who counted

/-- The task on whose behalf hardware of a core sends (15 R419). -/
def hwWho (core : Nat) (g : Word) : Who := ⟨core, 8, g, 0⟩

/-- The task hardware names when it acts for none. -/
def noWho (core : Nat) : Who := hwWho core 0

/-! ## Taking a trap (18 R334, R336) -/

/-- The cause word of a trap notice. -/
def causeWord (core slot : Nat) (t : Trap) : Word :=
  w64 (core % 4096 * 2 ^ 24 + slot % 8 * 2 ^ 21 + t.level % 8 * 2 ^ 18 + t.detail % 1024 * 2 ^ 8 + t.cause % 256)

/-- The core that receives a core's notices: its cluster control core, or for a control core the die management core. -/
def noticeTarget (core : Nat) : Nat := if isCompute core then controlOf core else 3136 + dieOf core

/-- The trap notice on tag 0xFD with its four payload words (18 R336). -/
def sendNotice (s : State) (core slot : Nat) (g pc : Word) (t : Trap) : State :=
  sendMsg s core (mkHdr 4 0xFD 0xFF (noticeTarget core)) [g, pc, causeWord core slot t, t.value] (hwWho core g) false

/-- The core that receives a core's FP events (02 R48): one that is none, or the host, counts as the control core. -/
def fpTarget (s : State) (c : Nat) : Nat :=
  let n := (getCore s c).fpint.toNat % 4096
  if n ≤ 3144 then n else controlOf c

/-- An FP event (02 R50): the task parks before its next bundle and the message with the enabled flags leaves. -/
def fpEvent (s : State) (c i : Nat) (pc : Word) (flags src : Nat) : State :=
  let t := getSlot s c i
  let s1 := setSlot s c i { t with
    park := .fpEvent flags
    nextSw := match t.park with
      | .switchMark => true
      | _ => false }
  sendMsg s1 c (mkHdr 3 0xFC 0xFF (fpTarget s c)) [t.gtid, pc, w64 (i % 8 * 256 + src % 4 * 64 + flags % 64)]
    (hwWho c t.gtid) false

/-- The enabled ones of the flags a task merges (02 R50). -/
def enabledFlags (t : Slot) (flags : Nat) : Nat := (t.fpen &&& w64 (flags % 64)).toNat % 64

/-- A task of slot (c, i) parks with a trap, its pc at the bundle, and its core sends the notice (18 R334). A switch mark it
was parked by holds again when it goes on (03 R78). -/
def parkTrapped (s : State) (c i : Nat) (t : Trap) : State :=
  let k := getSlot s c i
  let sw := match k.park with
    | .switchMark => true
    | _ => false
  sendNotice (setSlot s c i { k with park := .trapped t, nextSw := sw, swPark := false }) c i k.gtid k.pc t

/-- What waits to stop a task at its next bundle is taken: a trap, or an FP event that came with a park (cause 8: flags,
source and bundle stand in detail, level and value). -/
def raisePending (s : State) (c i : Nat) : State :=
  match (getSlot s c i).trapNext with
  | none => s
  | some tr =>
    let s1 := modSlot s c i fun t => { t with trapNext := none }
    if tr.cause == 8 then fpEvent s1 c i tr.value tr.detail tr.level else parkTrapped s1 c i tr

/-- Taking a trap: the bundle has no effect in `s`, the state it issued from; its task parks and the notice leaves. -/
def takeTrap (t : Trap) (s : State) : State :=
  let s1 := parkTrapped s s.cur.core s.cur.slot t
  { s1 with cur := { s1.cur with ended := .trapped t } }

/-- A bundle that does not issue: nothing changes but the record that it stalled (15 R309). -/
def stallBundle (s : State) : State := { s with cur := { s.cur with ended := .stalled } }

/-! ## Meanings that may trap or stall -/

/-- How a bundle's word ends early. -/
inductive Stop where
  | trap (t : Trap)
  | stall
  /-- the bundle waits for a line that the host may cache, whose back-invalidate leaves (04 R107) -/
  | await (x : Nat)
  /-- a failed residue check: the core is sealed and the bundle has no effect (19 R347) -/
  | seal
deriving DecidableEq, Repr

/-- A computation over the state that may trap or stall. -/
abbrev Op (α : Type) := StateT State (Except Stop) α

/-- An error counter of a die rises; it saturates (19 R360). -/
def countError (s : State) (d n : Nat) : State :=
  modDie s d fun k =>
    let w := tget k.ec n 0#64
    { k with ec := tset k.ec n (if w == BitVec.allOnes 64 then w else w + 1) }

/-- A failed residue check (19 R347, R348): the core stops issuing at once, and its sealing follows. -/
def failResidue (s : State) : State :=
  let s0 := countError (stallBundle s) (dieOf s.cur.core) 4
  let s1 := modCore s0 s.cur.core fun k => { k with sealed := true }
  atCycle s1 s1.cycle (.coreSeal s.cur.core)

/-- The outcome of a word's meaning: a trap is taken on the state before it, a stall leaves that state. -/
def runOp (m : Op Unit) (s : State) : Host.Outcome State Fault Refusal :=
  match m.run s with
  | .ok (_, s') => .next s'
  | .error (.trap t) => .next (takeTrap t s)
  | .error .stall => .next (stallBundle s)
  | .error (.await x) => .next (stallBundle { s with cur := { s.cur with line := some x } })
  | .error .seal => .next (failResidue s)

/-- A step that always takes effect. -/
def always (f : State → State) (s : State) : Host.Outcome State Fault Refusal := .next (f s)

def raise {α : Type} (t : Trap) : Op α := fun _ => .error (.trap t)

def stall {α : Type} : Op α := fun _ => .error .stall

def stallIf (b : Bool) : Op Unit := fun s => if b then .error .stall else .ok ((), s)

def trapIf (b : Bool) (t : Trap) : Op Unit := fun s => if b then .error (.trap t) else .ok ((), s)

def look : Op State := fun s => .ok (s, s)

def change (f : State → State) : Op Unit := fun s => .ok ((), f s)

/-- Trap causes (18 R334). -/
def tIllegal : Trap := ⟨1, 0, 0, 0⟩

def tBundle (a : Word) : Trap := ⟨2, 0, 0, a⟩

def tMisalign (a : Word) : Trap := ⟨3, 0, 0, a⟩

def tRange (detail : Nat) (a : Word) : Trap := ⟨4, detail, 0, a⟩

def tXlate (detail level : Nat) (a : Word) : Trap := ⟨5, detail, level, a⟩

def tShape (v : Word) : Trap := ⟨6, 0, 0, v⟩

def tHarp (detail : Nat) (v : Word) : Trap := ⟨7, detail, 0, v⟩

def tRule (detail : Nat) (v : Word) : Trap := ⟨9, detail, 0, v⟩

def tQueue (q : Nat) : Trap := ⟨10, q, 0, 0⟩

def tUncorr (a : Word) : Trap := ⟨11, 0, 0, a⟩

def tBkpt : Trap := ⟨12, 0, 0, 0⟩

def tSoft (imm : Nat) (v : Word) : Trap := ⟨13, imm, 0, v⟩

/-! ## Flags (02 R49, R50) -/

/-- Merges flags into FPFLG of the bundle's slot; an enabled one makes an FP event when the bundle completes. Flags of
q1 and of the bundle's words together give source 3, whichever words they came from: R50 states it for two words, and that
one word that pops q1 and raises flags counts alike is a DESIGN CHOICE (log 37). -/
def mergeFlags (src : Nat) (fl : BitVec 6) (s : State) : State :=
  let s1 := modCur s fun t => { t with fpflg := t.fpflg ||| BitVec.ofNat 64 fl.toNat }
  { s1 with cur := { s1.cur with
    flags := s1.cur.flags ||| fl
    flagSrc := if fl == 0#6 then s1.cur.flagSrc
      else if s1.cur.flags == 0#6 then src
      else if s1.cur.flagSrc == src then src else 3 } }

/-- The rounding mode of the bundle's instruction: FPCTL as it stood when the bundle issued (02 R35, 03 R60). -/
def curRm (s : State) (code : Nat) : Option Rm := rmOf code (bits s.cur.fpctl.toNat 2 0)

/-- FPCTL.SATN of the bundle. -/
def curSatn (s : State) : Bool := bit s.cur.fpctl.toNat 3

/-! ## Encrypted memory and poison (04 R99, 19 R351) -/

/-- The key of a slot; in a slot that nothing has loaded, zero bytes (DESIGN CHOICE, log 8). -/
def keyBytes (s : State) (key : Nat) : List Nat :=
  match tfind s.host.keys key with
  | some k => k.key.map BitVec.toNat
  | none => List.replicate 64 0

/-- The plain bytes of the 64-byte unit u under a key. -/
def unitPlain (s : State) (key u : Nat) : List Byte :=
  let raw := mgets s.mem (64 * u) 64
  if key == 0 then raw
  else (xtsUnit true (keyBytes s key) u (raw.map BitVec.toNat)).map (BitVec.ofNat 8)

/-- n plain bytes from a physical address. -/
def physRead (s : State) (pa key n : Nat) : List Byte :=
  if key == 0 then mgets s.mem pa n
  else
    let u0 := pa / 64
    let us := List.range ((pa + n + 63) / 64 - u0)
    (((us.map fun i => unitPlain s key (u0 + i)).flatten).drop (pa % 64)).take n

/-- Plain bytes written at a physical address: the poison of a wholly written unit ends (19 R351). -/
def physWrite (s : State) (pa key : Nat) (d : List Byte) : State :=
  let m := if key == 0 then msets s.mem pa d
    else
      let u0 := pa / 64
      let us := List.range ((pa + d.length + 63) / 64 - u0)
      let old := (us.map fun i => unitPlain s key (u0 + i)).flatten
      let new := old.take (pa % 64) ++ d ++ old.drop (pa % 64 + d.length)
      us.foldl (fun m i =>
        msets m (64 * (u0 + i))
          ((xtsUnit false (keyBytes s key) (u0 + i) (((new.drop (64 * i)).take 64).map BitVec.toNat)).map (BitVec.ofNat 8)))
        s.mem
  { s with
    mem := m
    dramPoison := s.dramPoison.filter fun u => !(decide (pa ≤ 64 * u) && decide (64 * u + 64 ≤ pa + d.length)) }

/-- Whether a read of n bytes at pa meets poison. -/
def physBad (s : State) (pa n : Nat) : Bool :=
  s.dramPoison.any fun u => decide (64 * u < pa + n) && decide (pa < 64 * u + 64)

/-- Bytes a region moved through controllers, Harp, copies and ports (21 R374). -/
def moveBytes (s : State) (rid n : Nat) : State :=
  { s with host := { s.host with rsbyte := tset s.host.rsbyte rid (tget s.host.rsbyte rid 0 + w64 n) } }

/-- A write, atomic or message from outside has taken effect at the core in this cycle: its bundle of the cycle came
before it (07 R146, 15 R310). -/
def markReached (s : State) (c : Nat) : State := modCore s c fun k => { k with reached := some s.cycle }

/-- Core `writer` writes at a location: the owner of a scratchpad is reached where it is another core (07 R146). -/
def reachedBy (s : State) (writer : Nat) (l : Loc) : State :=
  match l with
  | .sp c _ => if writer == c then s else markReached s c
  | .phys _ _ => s
  | .held _ _ _ _ => s

/-- n bytes of a core's scratchpad. -/
def spRead (s : State) (c a n : Nat) : List Byte := mgets (getCore s c).sp a n

/-- Bytes written into a core's scratchpad; the lines' owner tags become `region`, poison of wholly written lines ends
(19 R351). -/
def spWrite (s : State) (c a region : Nat) (d : List Byte) : State :=
  modCore s c fun k => { k with
    sp := msets k.sp a d
    lineOwner := ((List.range ((a + d.length + 63) / 64 - a / 64)).map fun i => a / 64 + i).foldl
      (fun t l => tset t l region) k.lineOwner
    poison := k.poison.filter fun u => !(decide (a ≤ 64 * u) && decide (64 * u + 64 ≤ a + d.length)) }

def spBad (s : State) (c a n : Nat) : Bool :=
  (getCore s c).poison.any fun u => decide (64 * u < a + n) && decide (a < 64 * u + 64)

/-- The local index of a region in a cluster: the number of its table set there plus one; 0 for none (19 R351). -/
def localIndex (s : State) (cl rid : Nat) : Nat :=
  match getRegion s rid with
  | some r =>
    match (getCluster s cl).sets.find? fun e => e.2.region == r.setOwner with
    | some e => e.1 + 1
    | none => 0
  | none => 0

/-! ## Error notices (19 R349) -/

/-- Sends an error notice as a message on tag 0xFE to the core that issued the lost item, from `from_`. -/
def sendErrorNotice (s : State) (from_ : Nat) (n : NoticePkt) : State :=
  let k := getCore s from_
  let key := if 8192 ≤ n.dst then (n.dst - 8192) % 2 ^ 32 else s.chipId * 4096 + n.dst
  let seq := tget k.seqOut key 0
  sendTo (setCore s from_ { k with seqOut := tset k.seqOut key ((seq + 1) % 4096) }) (coreSrc from_) (.core n.dst)
    (.errorNotice { n with sender := from_, seq := seq })

/-- Words of an error notice. -/
def noticeWords (n : NoticePkt) : List Word :=
  [if n.kind == 8 then n.addr else n.who.gtid,
   w64 ((if n.kind == 8 then n.region % 2 ^ 16 * 2 ^ 32 else 0) + n.kind % 256 * 2 ^ 24 + n.reason % 256 * 2 ^ 16
     + n.core % 4096)]

/-- Why a core does not answer: 1 sealed, 2 fused, 3 excluded die (19 R349). -/
def lostReason (s : State) (c : Nat) : Nat :=
  if (getDie s (dieOf c)).excluded then 3
  else if isCompute c && (getDie s (dieOf c)).fused.contains (c % 384) then 2
  else 1

/-- The lowest live die. -/
def lowestLive (s : State) : Nat := ((List.range 8).find? fun d => !(getDie s d).excluded).getD 0

/-- The number under which a core of another chip stands for itself here (12 R247). -/
def foreignCore (chip core : Nat) : Nat := 8192 + chip * 4096 + core

/-- The same with the number of an atomic of that core. -/
def foreignAtom (chip core seq : Nat) : Nat := foreignCore chip core + seq * 2 ^ 32

/-- Chip and core, and the atomic's number, of such a number. -/
def foreignKey (c : Nat) : Nat := (c - 8192) % 2 ^ 32

def foreignSeq (c : Nat) : Nat := (c - 8192) / 2 ^ 32

/-- The core that sends the notice in place of an unreachable one (19 R349); the lowest live die's management core where
the sender is on another chip. -/
def noticeFrom (s : State) (c sender : Nat) : Nat :=
  match lostReason s c with
  | 3 => 3136 + if 8192 ≤ sender then lowestLive s else dieOf sender
  | 2 => 3136 + dieOf c
  | _ => controlOf c

end Sys2Proof.Machine
end

