-- ==== Sys2Proof/Machine/Translate.lean ====
section
/-! DEFINITION. Address classes, range tables, page walks, TLBs, write-block and access counting (spec 04 R86-R103) and
the check of delivered windows (05 R126). -/

namespace Sys2Proof.Machine

/-- The address classes of R86. -/
inductive AddrClass where
  | localSp
  | window
  | progView
  | hole
  | device
  | nonCanon
deriving DecidableEq, Repr

/-- R86. -/
def classify (a : Nat) : AddrClass :=
  if a < 0x80000 then .localSp
  else if 0x1000000 ≤ a ∧ a < 0x2800000 then .window
  else if 0x8000000 ≤ a ∧ a < 0x8200000 then .progView
  else if a < 2 ^ 32 then .hole
  else if a < 2 ^ 56 then .device
  else .nonCanon

/-- The compute core a window address names, seen from a core (07 R147). -/
def windowCore (core a : Nat) : Nat := clusterOf core * 48 + (a - 0x1000000) / 0x80000

def windowAddr (a : Nat) : Nat := (a - 0x1000000) % 0x80000

/-- Whether any of n bytes at a local address lies in the mailbox (07 R146). -/
def inMailbox (a n : Nat) : Bool := decide (Config.mailboxBase < a + n) && decide (a < Config.spSize)

/-! ## Physical addresses (R87, R88) -/

/-- The die of a physical address in the DRAM slots. -/
def paDie (pa : Nat) : Nat := pa / 2 ^ 37

/-- The controller (and Capo) of a die DRAM address (01 R22). -/
def paCtl (pa : Nat) : Nat := bits pa 15 13

/-- Populated DRAM of a die that is not excluded. -/
def inDram (s : State) (pa : Nat) : Bool :=
  decide (pa < 2 ^ 40) && decide (bits pa 36 34 < 6) && !(getDie s (paDie pa)).excluded

/-- A die's reserved area (22 R385). -/
def inReserved (pa : Nat) : Bool := decide (pa < 2 ^ 40) && decide (0x17C0000000 ≤ pa % 2 ^ 37)

/-- Whether a translated physical address names memory (R87, R91). -/
def paPresent (s : State) (pa : Nat) : Bool :=
  if pa < 2 ^ 40 then inDram s pa && !inReserved pa
  else if 2 ^ 48 ≤ pa ∧ pa < 2 ^ 49 then
    decide (pa % 2 ^ 42 < s.expansion.getD ((pa - 2 ^ 48) / 2 ^ 42) 0)
  else decide (2 ^ 49 ≤ pa) && decide (pa < 2 ^ 49 + 2 ^ 44)

/-- The place that performs accesses to a physical address. -/
def paPlace (pa : Nat) : Place :=
  if pa < 2 ^ 40 then .ctrl (paDie pa) (paCtl pa)
  else if pa < 2 ^ 49 then .port ((pa - 2 ^ 48) / 2 ^ 42)
  else .host

/-- The place of a location. -/
def locPlace (l : Loc) : Place :=
  match l with
  | .sp c _ => .core c
  | .phys pa _ => paPlace pa
  | .held d c _ _ => .ctrl d c

/-! ## Lines the host may cache (04 R107, 21 R371) -/

/-- Tracked lines of controller c of die d; key 8 + c lists those whose back-invalidate is outstanding. -/
def snoopLines (s : State) (pa : Nat) : List Nat := tget (getDie s (paDie pa)).snoop (paCtl pa) []

def snoopAsked (s : State) (pa : Nat) : List Nat := tget (getDie s (paDie pa)).snoop (8 + paCtl pa) []

/-- The lines of n bytes at a physical address that the host may cache. -/
def snooped (s : State) (pa n : Nat) : List Nat :=
  if pa < 2 ^ 40 then (snoopLines s pa).filter fun l => decide (64 * l < pa + n) && decide (pa < 64 * l + 64) else []

/-- The physical address of a location, where it has one. -/
def locPa (l : Loc) : Option Nat :=
  match l with
  | .sp _ _ => none
  | .phys pa _ => some pa
  | .held _ _ pa _ => some pa

/-- Whether an access to n bytes of a location must wait for the host's response to a back-invalidate already sent. -/
def snoopWaits (s : State) (l : Loc) (n : Nat) : Bool :=
  match locPa l with
  | none => false
  | some pa =>
    let ls := snooped s pa n
    !ls.isEmpty && ls.all fun x => (snoopAsked s (64 * x)).contains x

/-- Whether an access meets a line the host may cache. -/
def snoopHit (s : State) (l : Loc) (n : Nat) : Bool :=
  match locPa l with
  | none => false
  | some pa => !(snooped s pa n).isEmpty

/-- Sends the back-invalidate of one tracked line. -/
def askLine (s : State) (x : Nat) : State :=
  let pa := 64 * x
  if (snoopAsked s pa).contains x then s
  else
    let s1 := modDie s (paDie pa) fun d => { d with snoop := tset d.snoop (8 + paCtl pa) (snoopAsked s pa ++ [x]) }
    { s1 with outbox := s1.outbox ++ [.backInvalidate (paDie pa) (paCtl pa) x] }

/-- Sends the back-invalidates an access needs (R107). -/
def askLines (s : State) (l : Loc) (n : Nat) : State :=
  match locPa l with
  | none => s
  | some pa => (snooped s pa n).foldl askLine s

/-- Stands for a trap where an access waits for the host to give back line x first: no task takes it (R107). -/
def tLine (x : Nat) : Trap := ⟨255, 0, 0, w64 x⟩

def isLine (t : Trap) : Bool := t.cause == 255

/-- How an access of a bundle that cannot go on ends it. -/
def stopOf (t : Trap) : Stop := if isLine t then .await t.value.toNat else .trap t

/-- The bundle waits while the host may cache a line of n bytes at a physical address. -/
def awaitLine (pa n : Nat) : Op Unit := fun s =>
  match (snooped s pa n).head? with
  | some x => .error (.await x)
  | none => .ok ((), s)

/-! ## Page walks (R88-R91) -/

/-- A leaf as a walk or a TLB gives it. -/
structure Leaf where
  va : Nat
  size : Nat
  word : Nat
deriving DecidableEq, Repr

/-- Bytes of a page by level and SIZE code; none is a bad code (R90). -/
def pageBytes (lvl size : Nat) : Option Nat :=
  match lvl, size with
  | 0, 0 => some (2 ^ 12)
  | 1, 0 => some (2 ^ 21)
  | 2, 0 => some (2 ^ 30)
  | 0, 1 => some (2 ^ 14)
  | 0, 2 => some (2 ^ 16)
  | 1, 3 => some (2 ^ 25)
  | 2, 4 => some (2 ^ 34)
  | _, _ => none

/-- The VA bits that index a level (R88). -/
def levelIndex (lvl va : Nat) : Nat :=
  match lvl with
  | 0 => bits va 20 12
  | 1 => bits va 29 21
  | 2 => bits va 38 30
  | _ => bits va 55 39

def pteKey (e : Nat) : Nat := bits e 60 52

def ptePa (e : Nat) : Nat := bits e 51 12 * 2 ^ 12

def pteSize (e : Nat) : Nat := bits e 7 5

def pteAcc (e : Nat) : Bool := bit e 4

def pteWb (e : Nat) : Bool := bit e 3

def pteT (e : Nat) : Bool := bit e 2

def pteW (e : Nat) : Bool := bit e 1

def pteV (e : Nat) : Bool := bit e 0

/-- Whether a key slot is bound to another region (21 R378). -/
def keyOfOther (s : State) (rid key : Nat) : Bool :=
  match tfind s.host.keys key with
  | some k => k.region != rid
  | none => false

/-- The format conditions of R91 on a valid entry at a level. -/
def pteFormatBad (s : State) (rid lvl e : Nat) : Bool :=
  bits e 63 61 != 0 || bits e 11 8 != 0 ||
  (if pteT e then lvl == 0 || pteKey e != 0 || pteSize e != 0 || pteAcc e || pteWb e || pteW e
   else match pageBytes lvl (pteSize e) with
     | none => true
     | some n => ptePa e % n != 0 || keyOfOther s rid (pteKey e))

/-- The walk from a table at a level down (R88, R91): a leaf, or the detail and level of the fault. -/
def walkFrom (s : State) (rid va : Nat) : Nat → Nat → Except (Nat × Nat) Leaf
  | lvl, table =>
    let a := table + 8 * levelIndex lvl va
    if !inDram s a || physBad s a 8 then .error (3, 0)
    else
      let e := mread s.mem a 8
      if !pteV e then .error (1, lvl)
      else if pteFormatBad s rid lvl e then .error (2, 0)
      else if pteT e then
        match lvl with
        | 0 => .error (2, 0)
        | l + 1 => walkFrom s rid va l (ptePa e)
      else match pageBytes lvl (pteSize e) with
        | none => .error (2, 0)
        | some n => .ok ⟨va / n * n, n, e⟩

/-- The first line of a walk's table entries that the host may cache: the walk reads it when the host has given it back
(R107). -/
def walkLine (s : State) (va : Nat) : Nat → Nat → Option Nat
  | lvl, table =>
    let a := table + 8 * levelIndex lvl va
    match (snooped s a 8).head? with
    | some x => some x
    | none =>
      let e := mread s.mem a 8
      if pteV e && pteT e then
        match lvl with
        | 0 => none
        | l + 1 => walkLine s va l (ptePa e)
      else none

/-- Who holds the TLB an access goes through (R93). -/
inductive Via where
  | core (c : Nat)
  | cluster (k : Nat)
  | matrix (k : Nat)
deriving DecidableEq, Repr

def tlbFind (l : List TlbEntry) (rid va : Nat) : Option TlbEntry :=
  l.find? fun e => e.region == rid && decide (e.va ≤ va) && decide (va < e.va + e.size)

/-- A TLB with a new entry, the oldest leaving a full one (log 6). -/
def tlbAdd (l : List TlbEntry) (cap : Nat) (e : TlbEntry) : List TlbEntry :=
  if l.length < cap then l ++ [e] else l.drop 1 ++ [e]

def viaCluster (v : Via) : Nat :=
  match v with
  | .core c => clusterOf c
  | .cluster k => k
  | .matrix k => k

/-- The first-level TLB of a requester: a compute core's micro-TLB or the load pipe's; otherwise none. -/
def firstTlb (s : State) (v : Via) : List TlbEntry :=
  match v with
  | .core c => if isCompute c then (getCore s c).tlb else []
  | .cluster _ => []
  | .matrix k => (getCluster s k).mxTlb

def fillFirst (s : State) (v : Via) (e : TlbEntry) : State :=
  match v with
  | .core c => if isCompute c then modCore s c fun k => { k with tlb := tlbAdd k.tlb 64 e } else s
  | .cluster _ => s
  | .matrix k => modCluster s k fun c => { c with mxTlb := tlbAdd c.mxTlb 512 e }

/-- Translation of a VA for a region (R88-R93): the state with its TLBs filled, and the leaf; or the fault. -/
def translate (s : State) (v : Via) (rid va : Nat) : Except Trap (State × Leaf) :=
  match tlbFind (firstTlb s v) rid va with
  | some e => .ok (s, ⟨e.va, e.size, e.leaf⟩)
  | none =>
    match tlbFind (getCluster s (viaCluster v)).tlb rid va with
    | some e => .ok (fillFirst s v e, ⟨e.va, e.size, e.leaf⟩)
    | none =>
      match getRegion s rid with
      | none => .error (tXlate 3 0 (w64 va))
      | some r =>
       match walkLine s va 3 r.ptroot with
       | some x => .error (tLine x)
       | none =>
        match walkFrom s rid va 3 r.ptroot with
        | .error (d, l) => .error (tXlate d l (w64 va))
        | .ok lf =>
          let e : TlbEntry := ⟨rid, lf.va, lf.size, lf.word⟩
          let s1 := modCluster s (viaCluster v) fun c => { c with tlb := tlbAdd c.tlb 2048 e }
          .ok (fillFirst s1 v e, lf)

/-- The physical address of a VA under its leaf. -/
def leafPa (lf : Leaf) (va : Nat) : Nat := ptePa lf.word + va % lf.size

/-- The hold controller of a page, as die × 8 + controller (R102): the next live die where the die is excluded. -/
def holdController (s : State) (page : Nat) : Nat :=
  let h := Nat.xor (bits page 29 12) (bits page 47 30) % 64
  let d := ((List.range 8).map fun i => (h / 8 + i) % 8).find? fun d => !(getDie s d).excluded
  d.getD (h / 8) * 8 + h % 8

/-- Where an access to a VA is performed (R102). -/
def leafLoc (s : State) (lf : Leaf) (va : Nat) : Loc :=
  let pa := leafPa lf va
  if pteWb lf.word then
    let h := holdController s lf.va
    .held (h / 8) (h % 8) pa (pteKey lf.word)
  else .phys pa (pteKey lf.word)

/-- The page an access counts on, when its leaf and region count (R100, R101). -/
def accPage (s : State) (die rid : Nat) (lf : Leaf) : Option AccPage :=
  match getRegion s rid with
  | some r => if r.accthr != 0 && pteAcc lf.word then some ⟨rid, die, lf.va, pteSize lf.word⟩ else none
  | none => none

/-! ## Range tables (R95-R97) -/

/-- Kinds of device-space access (R96). -/
inductive AccKind where
  | load | store | amo | red | cpySrc | cpyDst | mma | rowact | node
deriving DecidableEq, Repr

def needsR (k : AccKind) : Bool :=
  match k with
  | .load | .cpySrc | .mma | .rowact | .amo | .node => true
  | .store | .red | .cpyDst => false

def needsW (k : AccKind) : Bool :=
  match k with
  | .store | .red | .cpyDst | .amo | .node => true
  | .load | .cpySrc | .mma | .rowact => false

/-- Whether a type admits a kind at all (R96). -/
def typeAdmits (ty : Nat) (k : AccKind) : Bool :=
  match ty, k with
  | 0, .load | 0, .store | 0, .cpySrc | 0, .cpyDst | 0, .mma => true
  | 1, .load | 1, .store | 1, .cpySrc | 1, .cpyDst | 1, .mma | 1, .rowact => true
  | 2, .load | 2, .cpySrc | 2, .mma | 2, .rowact => true
  | 3, .amo | 3, .red => true
  | 4, .node => true
  | _, _ => false

/-- The ancestor whose table set a region uses. -/
def setOwnerOf (s : State) (rid : Nat) : Nat :=
  match getRegion s rid with
  | some r => r.setOwner
  | none => rid

/-- Whether a core holds a guard in place, exclusively where asked (R96, 05 R119). -/
def holdsInPlace (s : State) (core rid : Nat) (guard : Word) (x : Bool) : Bool :=
  (getCore s core).holds.any fun h =>
    h.guardVa == guard && h.inPlace && h.state == .held && (h.excl || !x) &&
      setOwnerOf s h.region == setOwnerOf s rid

/-- The range-table entries of a region in a cluster. -/
def rangesOf (s : State) (cl rid : Nat) : List RangeEntry :=
  match (getCluster s cl).sets.find? fun e => e.2.region == setOwnerOf s rid with
  | some e => e.2.ranges
  | none => []

/-- The range check of R96 and R97 for an access by a core's task or for an engine acting for it. -/
def rangeCheck (s : State) (core rid : Nat) (k : AccKind) (va n : Nat) : Option Trap :=
  match (rangesOf s (clusterOf core) rid).find? fun e => decide (e.base ≤ va) && decide (va < e.base + e.len) with
  | none => some (tRange 0 (w64 va))
  | some e =>
    if e.base + e.len < va + n then some (tRange 1 (w64 (e.base + e.len)))
    else if (needsR k && !e.r) || (needsW k && !e.w) then some (tRange 2 (w64 va))
    else if !typeAdmits e.ty k then some (tRange 3 (w64 va))
    else if e.ty == 0 && bits e.param.toNat 11 0 != core then some (tRange 4 (w64 va))
    else if e.ty == 1 && !holdsInPlace s core rid e.param (needsW k) then some (tRange 5 (w64 va))
    else none

/-- The checks of R98 after the range check: walk, W, ABSENT. -/
def transCheck (s : State) (v : Via) (die rid : Nat) (write : Bool) (va : Nat) :
    Except Trap (State × Loc × Option AccPage) :=
  match translate s v rid va with
  | .error t => .error t
  | .ok (s1, lf) =>
    if write && !pteW lf.word then .error (tXlate 4 0 (w64 va))
    else if !paPresent s (leafPa lf va) then .error (tXlate 5 0 (w64 va))
    else .ok (s1, leafLoc s1 lf va, accPage s1 die rid lf)

/-- All device-space checks in the order of R98. -/
def devCheck (s : State) (v : Via) (core rid : Nat) (k : AccKind) (va n : Nat) :
    Except Trap (State × Loc × Option AccPage) :=
  if 2 ^ 56 ≤ va then .error (tXlate 0 0 (w64 va))
  else match rangeCheck s core rid k va n with
    | some t => .error t
    | none => transCheck s v (dieOf core) rid (needsW k) va

/-- devCheck within a bundle's meaning. -/
def devAccess (k : AccKind) (va n : Nat) : Op (Loc × Option AccPage) := fun s =>
  match devCheck s (.core s.cur.core) s.cur.core (curSlot s).region k va n with
  | .error t => .error (stopOf t)
  | .ok (s1, l, a) => .ok ((l, a), s1)

/-- The bundle waits while the walk of a VA meets a line the host may cache. -/
def awaitWalk (va : Word) : Op Unit := fun s =>
  match translate s (.core s.cur.core) (curSlot s).region va.toNat with
  | .error t => if isLine t then .error (stopOf t) else .ok ((), s)
  | .ok _ => .ok ((), s)

/-- The physical address and key of a region's VA, for the structures hardware and firmware keep in device memory; none
where it does not translate to populated memory. -/
def vaPhys (s : State) (rid va : Nat) : Option (Nat × Nat) :=
  match getRegion s rid with
  | none => none
  | some r =>
    match walkFrom s rid va 3 r.ptroot with
    | .error _ => none
    | .ok lf => if paPresent s (leafPa lf va) then some (leafPa lf va, pteKey lf.word) else none

/-! ## Access counting (R100, R101) -/

/-- Entries in a notification ring of n, from its head and tail, which run modulo 2n so that a full ring of any size differs
from an empty one (R101, 16 R311, log 16). -/
def ringFill (n head tail : Nat) : Nat := (tail + 2 * n - head) % (2 * n)

/-- Appends a notification to a region's ring (R101); none when the ring is full, absent or not mapped. -/
def notifyAppend (s : State) (r : Region) (va size die count : Nat) : Option State :=
  if r.nqsize == 0 then none
  else match getRegion s r.nqOwner with
    | none => none
    | some o =>
      let head := rcbField s o 18 31 16
      let tail := rcbField s o 18 47 32
      if ringFill r.nqsize head tail == r.nqsize then none
      else match vaPhys s r.nqOwner (r.nqbase + 16 * (tail % r.nqsize)) with
        | none => none
        | some (pa, key) =>
          let w0 := va / 4096 * 4096 + size % 8 * 8 + die % 8
          let s1 := physWrite s pa key (natLe 8 w0 ++ natLe 8 (count % 2 ^ 32))
          some (rcbPut s1 o 18 47 32 ((tail + 1) % (2 * r.nqsize)))

/-- Index of the lowest count, the lowest index on a tie. -/
def lowestCount : List PageCount → Nat → Nat → Nat → Nat
  | [], _, best, _ => best
  | p :: r, i, best, low => if p.count < low then lowestCount r (i + 1) i p.count else lowestCount r (i + 1) best low

/-- One access of n units to a counted page (R100, R101). -/
def countAccess (s : State) (p : AccPage) (n : Nat) : State :=
  match getRegion s p.region with
  | none => s
  | some r =>
    let cs := (getDie s p.die).counts
    let key := fun (c : PageCount) => c.region == p.region && c.va == p.va
    let i := match cs.findIdx? key with
      | some i => i
      | none => if cs.length < 4096 then cs.length else lowestCount cs 0 0 (2 ^ 64)
    let old := match cs.find? key with
      | some c => c.count
      | none => 0
    let cnt := old + n
    let (s1, left) :=
      if r.accthr ≤ cnt then
        match notifyAppend s r p.va p.size p.die cnt with
        | some s1 => (s1, 0)
        | none => (s, cnt)
      else (s, cnt)
    let e : PageCount := ⟨p.region, p.va, left⟩
    modDie s1 p.die fun d => { d with counts := if i < d.counts.length then d.counts.set i e else d.counts ++ [e] }

/-- Counts an access of n bytes at va where its page counts: every 64-byte unit touched adds one (R100), and the
threshold is met unit by unit. -/
def countUnits (s : State) (a : Option AccPage) (va n : Nat) : State :=
  match a with
  | none => s
  | some p => (List.range ((va + n + 63) / 64 - va / 64)).foldl (fun s _ => countAccess s p 1) s

/-! ## Delivered windows (05 R126) -/

/-- The lowest local address of [a, a+n) that a tracked window refuses, with the detail. -/
def windowRefusal (s : State) (core a n : Nat) (write : Bool) : Option (Nat × Nat) :=
  if !write then none
  else
    let hits := (getCore s core).holds.filterMap fun h =>
      if !h.inPlace && decide (a < h.window + h.wlen) && decide (h.window < a + n) then
        let at_ := if a < h.window then h.window else a
        match h.state with
        | .pending => some (2, at_)
        | .held => if h.excl then none else some (2, at_)
        | .pinned => some (5, at_)
      else none
    hits.foldl (fun best x => match best with
      | none => some x
      | some b => if x.2 < b.2 then some x else some b) none

/-- Dirty bits set by a write of n bytes at local address a (05 R126). -/
def markDirty (s : State) (core a n : Nat) : State :=
  if n == 0 then s
  else modCore s core fun k => { k with
    holds := k.holds.map fun h =>
      if !h.inPlace && h.state == .held && h.excl && h.sbSize != 0 && decide (a < h.window + h.wlen) &&
          decide (h.window < a + n) then
        let lo := if a < h.window then 0 else (a - h.window) / h.sbSize
        let hi := (a + n - 1 - h.window) / h.sbSize
        let subs := (List.range (hi + 1 - lo)).map fun i => lo + i
        { h with dirty := subs.foldl (fun d b => if b < h.nsb then addNat d b else d) h.dirty }
      else h }

end Sys2Proof.Machine
end

