-- ==== Sys2Proof/Machine/Context.lean ====
section
/-! DEFINITION. Saved contexts (spec 18 R338-R340): the context image and the queue block, and the finding and changing of
a task wherever it is, in a slot or saved. -/

namespace Sys2Proof.Machine

/-! ## Byte ranges in a region's mapping -/

/-- The parts of n bytes at va that lie in one 4 KiB page each. -/
def pageParts : Nat → Nat → Nat → List (Nat × Nat)
  | 0, _, _ => []
  | f + 1, va, n =>
    if n == 0 then []
    else
      let k := Nat.min n (4096 - va % 4096)
      (va, k) :: pageParts f (va + k) (n - k)

/-- The physical places of n bytes at va in a region's mapping; none when a byte does not translate to populated memory. -/
def vaPlaces (s : State) (rid va n : Nat) : Option (List (Nat × Nat × Nat)) :=
  (pageParts (n / 4096 + 2) va n).mapM fun p =>
    match vaPhys s rid p.1 with
    | some (pa, key) => some (pa, p.2, key)
    | none => none

/-- Plain bytes from those places, under the leaves' keys or one key for all. -/
def placesRead (s : State) (ps : List (Nat × Nat × Nat)) (key : Option Nat) : List Byte :=
  ps.flatMap fun p => physRead s p.1 (key.getD p.2.2) p.2.1

/-- Plain bytes written to those places. -/
def placesWrite (s : State) (key : Option Nat) : List (Nat × Nat × Nat) → List Byte → State
  | [], _ => s
  | p :: r, d => placesWrite (physWrite s p.1 (key.getD p.2.2) (d.take p.2.1)) key r (d.drop p.2.1)

/-- The 64-bit words of a list of bytes. -/
def wordsOf : Nat → List Byte → List Word
  | 0, _ => []
  | n + 1, bs => w64 (leNat (bs.take 8)) :: wordsOf n (bs.drop 8)

def bytesOf (ws : List Word) : List Byte := ws.flatMap fun w => natLe 8 w.toNat

/-! ## The image and the queue block (R338, R339) -/

/-- Bits set at the listed numbers. -/
def bitsOf (l : List Nat) (n : Nat) : Nat := ((List.range n).filter fun i => l.contains i).foldl (fun a i => a + 2 ^ i) 0

/-- Numbers of the set bits. -/
def numbersOf (v n : Nat) : List Nat := (List.range n).filter fun i => bit v i

/-- The state word of a context. -/
def ctxState (t : Slot) (valid : Bool) (core cause : Nat) : Word :=
  w64 ((if valid then 2 ^ 63 else 0) + (if t.swPark then 2 ^ 46 else 0) + (if t.claimBuf.isSome then 2 ^ 45 else 0)
    + core % 4096 * 2 ^ 32 + cause % 256 * 2 ^ 24 + t.cls % 4 * 2 ^ 16 + t.p.toNat * 2 ^ 8)

/-- FPFLG, FPEN and FPCTL of a context. -/
def ctxFp (t : Slot) : Word :=
  w64 (t.fpflg.toNat % 64 + t.fpen.toNat % 64 * 2 ^ 8 + t.fpctl.toNat % 16 * 2 ^ 16)

/-- The eight words of a vector register. -/
def vecWords (v : Vec) : List Word := (List.range 8).map fun i => BitVec.ofNat 64 (v.toNat / 2 ^ (64 * i))

/-- The 352 words of the context image of a task. -/
def imageWords (t : Slot) (valid : Bool) (core cause : Nat) : List Word :=
  [t.gtid, w64 (t.pc.toNat % 2 ^ 21), ctxState t valid core cause, ctxFp t, t.spbad, w64 (oscOf t), t.mprog, t.mpva,
    t.mpvb, w64 (bitsOf t.pendX 48), w64 (bitsOf t.pendF 32 + bitsOf t.pendV 32 * 2 ^ 32), w64 (t.bphit.toNat % 64),
    w64 (t.l2psel.toNat % 4096), 0, 0, 0]
  ++ ((List.range 48).map fun n => getX t n)
  ++ ((List.range 32).map fun n => getF t n)
  ++ ((List.range 32).flatMap fun n => vecWords (getV t n))

/-- Eight bytes as a word. -/
def byteWord (l : List Nat) : Word := w64 ((l.zipIdx.map fun e => e.1 % 256 * 2 ^ (8 * e.2)).foldl (· + ·) 0)

/-- A list cut or filled with zeros to n words. -/
def padWords (n : Nat) (l : List Word) : List Word := l.take n ++ List.replicate (n - l.length) 0#64

/-- The 64 words of the queue block. -/
def queueWords (t : Slot) : List Word :=
  [t.q0, t.q2,
    w64 (t.sfuReq.length % 16 + t.sfuRes.length % 16 * 2 ^ 4 + t.q3.length % 16 * 2 ^ 8 + t.q7.length % 16 * 2 ^ 12
      + t.q6Popped % 8 * 2 ^ 16),
    byteWord (t.sfuReq.map fun r => r.fmt * 64 + r.func)]
  ++ padWords 8 (t.sfuReq.map fun r => r.a)
  ++ padWords 8 (t.sfuReq.map fun r => r.b)
  ++ padWords 8 (t.sfuRes.map fun r => r.val)
  ++ [byteWord (t.sfuRes.map fun r => r.flags)]
  ++ wordsOf 2 ((t.q3.take 8).flatMap fun w => natLe 2 w.toNat)
  ++ [0]
  ++ padWords 8 t.q7
  ++ List.replicate 24 0#64

/-- The bits of a saved special register: its reserved bits read as zero (00 R6). -/
def spbadMask : Word := 0xC0000000FFFFFFFF#64

def mprogMask : Word := 0x1FF#64

def mpvaMask : Word := 0xF0001FFF000001FF#64

def mpvbMask : Word := 0x0000FFF00001FFFF#64

/-- The bits that the image gives word i (R338); x, f and v take whole words. -/
def imageMask (i : Nat) : Word :=
  match i with
  | 1 => 0x1FFFFF#64
  | 2 => 0x80006FFFFF03FF00#64
  | 3 => 0xF3F3F#64
  | 4 => spbadMask
  | 5 => 0x7FF#64
  | 6 => mprogMask
  | 7 => mpvaMask
  | 8 => mpvbMask
  | 9 => 0xFFFFFFFFFFFF#64
  | 11 => 0x3F#64
  | 12 => 0xFFF#64
  | 13 | 14 | 15 => 0
  | _ => BitVec.allOnes 64

/-- The bits that the queue block gives word i (R339). -/
def queueMask (i : Nat) : Word :=
  match i with
  | 2 => 0x7FFFF#64
  | 3 => 0xCFCFCFCFCFCFCFCF#64
  | 28 => 0x3F3F3F3F3F3F3F3F#64
  | 29 | 30 => 0x0FFF0FFF0FFF0FFF#64
  | 31 => 0
  | _ => if i < 32 then BitVec.allOnes 64 else if i < 40 then 0xFFF0000000FFFFFF#64 else 0

/-- Whether a word has a bit set that the layout reserves. -/
def reservedSet (mask : Nat → Word) (ws : List Word) : Bool := ws.zipIdx.any fun e => (e.1 &&& ~~~mask e.2) != 0#64

/-- The task as its context gives it: the image's and the block's fields over what the context does not hold. -/
def slotFromWords (rest : Slot) (im q : List Word) : Slot :=
  let w := fun i => (im.getD i 0#64).toNat
  let qw := fun i => (q.getD i 0#64)
  let cnt := (qw 2).toNat
  let regs := fun (base n : Nat) => (List.range n).map fun i => (i, im.getD (base + i) 0#64)
  { rest with
    pc := w64 (bits (w 1) 20 0)
    swPark := bit (w 2) 46
    cls := bits (w 2) 17 16
    p := BitVec.ofNat 8 (bits (w 2) 15 8)
    fpflg := w64 (bits (w 3) 5 0)
    fpen := w64 (bits (w 3) 13 8)
    fpctl := w64 (bits (w 3) 19 16)
    spbad := im.getD 4 0#64 &&& spbadMask
    mprog := im.getD 6 0#64 &&& mprogMask
    mpva := im.getD 7 0#64 &&& mpvaMask
    mpvb := im.getD 8 0#64 &&& mpvbMask
    pendX := numbersOf (w 9) 48
    pendF := numbersOf (bits (w 10) 31 0) 32
    pendV := numbersOf (bits (w 10) 63 32) 32
    bphit := w64 (bits (w 11) 5 0)
    l2psel := w64 (bits (w 12) 11 0)
    x := (regs 16 48).filter fun e => e.1 != 0
    f := regs 64 32
    v := (List.range 32).map fun n =>
      (n, BitVec.ofNat 512 (((List.range 8).map fun j => w (96 + 8 * n + j) * 2 ^ (64 * j)).foldl (· + ·) 0))
    q0 := qw 0
    q2 := qw 1
    sfuReq := (List.range (bits cnt 3 0)).map fun i =>
      let b := bits (qw 3).toNat (8 * i + 7) (8 * i)
      ⟨b % 16, b / 64, qw (4 + i), qw (12 + i), 0⟩
    sfuRes := (List.range (bits cnt 7 4)).map fun i =>
      let old := rest.sfuRes.getD i ⟨0, 0, 0, 0, 0⟩
      { old with val := qw (20 + i), flags := bits (qw 28).toNat (8 * i + 5) (8 * i) }
    q3 := (List.range (bits cnt 11 8)).map fun i => w64 (bits (qw (29 + i / 4)).toNat (16 * (i % 4) + 15) (16 * (i % 4)))
    q7 := (List.range (bits cnt 15 12)).map fun i => qw (32 + i) }

/-! ## Contexts in the context area (R338) -/

/-- Address of image i and of queue block i of a region. -/
def imageVa (r : Region) (i : Nat) : Nat := r.ctxarea + i * Config.ctxImage

def queueVa (r : Region) (i : Nat) : Nat := r.ctxarea + r.ctxn * Config.ctxImage + i * Config.ctxQueue

/-- The words of context i, when its image and block translate. -/
def ctxRead (s : State) (r : Region) (i : Nat) : Option (List Word × List Word) :=
  match vaPlaces s r.ctxOwner (imageVa r i) Config.ctxImage, vaPlaces s r.ctxOwner (queueVa r i) Config.ctxQueue with
  | some a, some b => some (wordsOf 352 (placesRead s a (some r.key)), wordsOf 64 (placesRead s b (some r.key)))
  | _, _ => none

/-- Writes context i. -/
def ctxWrite (s : State) (r : Region) (i : Nat) (im q : List Word) : State :=
  match vaPlaces s r.ctxOwner (imageVa r i) Config.ctxImage, vaPlaces s r.ctxOwner (queueVa r i) Config.ctxQueue with
  | some a, some b => placesWrite (placesWrite s (some r.key) a (bytesOf im)) (some r.key) b (bytesOf q)
  | _, _ => s

/-- The lowest free context of a region: the first whose image has VALID = 0. -/
def freeContext (s : State) (r : Region) : Option Nat :=
  (List.range r.ctxn).find? fun i =>
    match ctxRead s r i with
    | some (im, _) => !bit (im.getD 2 0#64).toNat 63
    | none => false

/-- The task of a saved context, as its image and block stand. -/
def savedSlot (s : State) (v : SavedTask) : Slot :=
  match getRegion s v.region with
  | none => v.rest
  | some r =>
    match ctxRead s r v.ctx with
    | some (im, q) => slotFromWords v.rest im q
    | none => v.rest

/-- A saved task with its slot record changed, its image and block rewritten. -/
def putSaved (s : State) (n : Nat) (v : SavedTask) (t : Slot) : State :=
  let s1 := { s with saved := s.saved.set n { v with rest := t } }
  match getRegion s v.region with
  | none => s1
  | some r => ctxWrite s1 r v.ctx (imageWords t true v.core v.cause) (queueWords t)

/-! ## Finding a task -/

/-- Where a task is now: a slot, or a saved context. -/
inductive TaskAt where
  | live (core slot : Nat)
  | saved (place : Nat)
deriving DecidableEq, Repr

/-- Whether a slot holds the task itself: one whose context is still being read back holds it not yet (R340). -/
def holdsTask (t : Slot) (g : Word) : Bool :=
  t.held && t.gtid == g &&
    (match t.park with
     | .readBack _ => false
     | _ => true)

/-- The first slot of a core that holds the task. -/
def slotOf (k : Core) (g : Word) : Option Nat := (List.range 8).find? fun i => holdsTask (coreSlot k i) g

/-- Finds a task by GTID: first in the slot it was sent from, then anywhere, then among saved contexts (R340). -/
def locate (s : State) (core slot : Nat) (g : Word) : Option TaskAt :=
  if holdsTask (getSlot s core slot) g then some (.live core slot)
  else match s.cores.findSome? fun e => (slotOf e.2 g).map fun i => TaskAt.live e.1 i with
    | some w => some w
    | none => (s.saved.findIdx? fun v => v.rest.gtid == g).map TaskAt.saved

/-- A task's slot record, live or saved. -/
def taskSlot (s : State) (w : TaskAt) : Slot :=
  match w with
  | .live c i => getSlot s c i
  | .saved n => match s.saved[n]? with
    | some v => savedSlot s v
    | none => Slot.empty

def modTask (s : State) (w : TaskAt) (f : Slot → Slot) : State :=
  match w with
  | .live c i => modSlot s c i f
  | .saved n => match s.saved[n]? with
    | some v => putSaved s n v (f (savedSlot s v))
    | none => s

/-- Removes an outstanding item of a task wherever it is counted: its slot, its saved context, or the retirement
tracker of its core (12 R237, R238). -/
def dropItem (s : State) (w : Who) : State :=
  let dec := fun (os : List OutItem) => os.find? fun o => o.id == w.item
  let s1 := match locate s w.core w.slot w.gtid with
    | some a =>
      match dec (taskSlot s a).out with
      | some o =>
        let s2 := modTask s a fun t => { t with out := t.out.filter fun o => o.id != w.item }
        some (if countedKind o.kind then roscAdd s2 (taskSlot s a).region (-1) else s2)
      | none => none
    | none => none
  match s1 with
  | some s2 => s2
  | none =>
    let k := getCore s w.core
    match k.tracker.find? fun e => e.gtid == w.gtid && (dec e.items).isSome with
    | some e =>
      let counted := match dec e.items with
        | some o => countedKind o.kind
        | none => false
      let tr := (k.tracker.map fun a =>
        if a.gtid == w.gtid then { a with items := a.items.filter fun o => o.id != w.item } else a).filter
          fun a => a.items.any fun o => countedKind o.kind
      let s2 := setCore s w.core { k with tracker := tr }
      if counted then roscAdd s2 e.region (-1) else s2
    | none => s

/-- Delivers a result to a task's register and clears its pending bit, in its slot or its saved context, wherever the
task is (R171, 18 R340); a park that waited for it ends (03 R78). The task gone, the result is discarded. -/
def deliverReg (s : State) (w : Who) (d : RegId) (v : Vec) : State :=
  match locate s w.core w.slot w.gtid with
  | some a => modTask s a fun t => wakeSlot (clearPending (putReg t d v) d)
  | none => s

end Sys2Proof.Machine
end

