-- ==== Sys2Proof/Machine/Places.lean ====
section
/-! DEFINITION. Reads and writes performed at the place that holds a location (spec 07 R150, 04 R102-R106, R107, 13 R255):
scratchpads, controllers, hold controllers with their queues, and the lines the host may cache. -/

namespace Sys2Proof.Machine

/-- A byte with its low or high nibble replaced (07 R152). -/
def putNibble (hi : Bool) (old : Byte) (n : Nat) : Byte :=
  BitVec.ofNat 8 (if hi then old.toNat % 16 + 16 * (n % 16) else old.toNat / 16 * 16 + n % 16)

/-- Bytes starting at address `base` with a write to address `a` laid over them. -/
def overlay (base : Nat) (bs : List Byte) (a : Nat) (d : List Byte) : List Byte :=
  bs.zipIdx.map fun e =>
    let p := base + e.2
    if a ≤ p ∧ p < a + d.length then d.getD (p - a) 0#8 else e.1

/-- Bytes starting at address `base` with a posted write at address `a` laid over them; an STN changes a nibble. -/
def overlayWrite (base : Nat) (bs : List Byte) (a : Nat) (w : WritePkt) : List Byte :=
  match w.kind with
  | .stn hi =>
    bs.zipIdx.map fun e => if base + e.2 == a then putNibble hi e.1 (w.data.getD 0 0#8).toNat else e.1
  | .store => overlay base bs a w.data
  | .row => overlay base bs a w.data
  | .sub _ _ => overlay base bs a w.data

/-! ## Hold queues (04 R102-R104) -/

/-- The page-table root of a region, by which its VAs are mapped. -/
def rootOf (s : State) (rid : Nat) : Nat :=
  match getRegion s rid with
  | some r => r.ptroot
  | none => 0

def holdQueue (s : State) (d c : Nat) : List HeldWrite := tget (getDie s d).holdq c []

/-- Whether writes to a VA are applied on arrival, its page having been released (R104). -/
def isReleased (s : State) (d c root va : Nat) : Bool :=
  (getDie s d).released.any fun r => r.ctl == c && r.root == root && decide (r.va ≤ va) && decide (va < r.va + r.size)

/-- The log of a region is empty again, and a HALTED region runs (16 R420). -/
def alogClearStep (rid : Nat) (s : State) : State :=
  match getRegion s rid with
  | none => s
  | some r =>
    let s1 := rcbPut s r 21 8 0 0
    if regStatus s1 r == 3 then rcbPut s1 r 0 31 24 2 else s1

/-- A write that leaves the ALOGCNT of a live region's RCB at 0 clears its log (16 R420). -/
def sawClear (s : State) (pa n : Nat) : State :=
  match s.regions.find? fun e => decide (pa < e.2.rcbPa + 176) && decide (e.2.rcbPa + 168 < pa + n) with
  | some e => if rcbField s e.2 21 8 0 == 0 then alogClearStep e.1 s else s
  | none => s

/-- A write performed at a physical address. -/
def physApply (s : State) (pa key : Nat) (w : WritePkt) : State :=
  let d := w.data.length
  (fun s => sawClear s pa d) <| match w.kind with
  | .stn hi =>
    physWrite s pa key ((physRead s pa key 1).map fun b => putNibble hi b (w.data.getD 0 0#8).toNat)
  | .store => physWrite s pa key w.data
  | .row => physWrite s pa key w.data
  | .sub _ _ => physWrite s pa key w.data

/-- A write reaching a hold controller (R103, R104). -/
def holdApply (s : State) (d c pa key root : Nat) (w : WritePkt) : State :=
  if isReleased s d c root w.va.toNat then physApply s pa key w
  else modDie s d fun k => { k with holdq := tset k.holdq c (holdQueue s d c ++ [⟨root, w⟩]) }

/-- The location of a write or atomic on its way to memory. -/
def eventLoc (e : Event) : Option Loc :=
  match e with
  | .remoteWrite w => some w.loc
  | .stnMessage w => some w.loc
  | .atomicMessage a => some a.loc
  | _ => none

/-- Whether an item is a write bound for hold controller c of die d. -/
def boundFor (d c : Nat) (e : Event) : Bool :=
  match eventLoc e with
  | some (.held d' c' _ _) => d' == d && c' == c
  | _ => false

/-- Writes on their way to a hold controller: their places in its queue are taken (R103; log 14). -/
def holdComing (s : State) (d c : Nat) : Nat :=
  (s.flights.filter fun f => boundFor d c f.act).length +
    (s.cores.map fun e => (e.2.heldRel.filter fun h => boundFor d c h.ev).length).sum

/-- Whether the hold queue refuses a write (R103). -/
def holdFull (s : State) (l : Loc) (root va : Nat) : Bool :=
  match l with
  | .sp _ _ => false
  | .phys _ _ => false
  | .held d c _ _ => decide (256 ≤ (holdQueue s d c).length) && !isReleased s d c root va

/-- Whether a write that would leave now would be refused: its bundle does not issue (R103; log 14). -/
def holdRefuses (s : State) (l : Loc) (root va : Nat) : Bool :=
  match l with
  | .sp _ _ => false
  | .phys _ _ => false
  | .held d c _ _ => decide (256 ≤ (holdQueue s d c).length + holdComing s d c) && !isReleased s d c root va

/-! ## Reads and writes at a location -/

/-- Old values kept for other readers while a checked pair's interval is open (19 R353). -/
def undoView (s : State) (c reader a : Nat) (bs : List Byte) : List Byte :=
  match (getCore s c).pair with
  | none => bs
  | some p =>
    if reader == c then bs
    else p.undo.foldl (fun bs e => overlay a bs e.1 (natLe 8 e.2.toNat)) bs

/-- The first write of an interval to an aligned word of the issuing core's scratchpad records its old value (19 R353). -/
def undoRecord (s : State) (c i a n : Nat) : State :=
  match (getCore s c).pair with
  | none => s
  | some p =>
    if p.slot != i then s
    else
      let ws := (List.range ((a + n + 7) / 8 - a / 8)).map fun j => 8 * (a / 8 + j)
      let new := ws.filter fun w => !(p.undo.any fun e => e.1 == w)
      modCore s c fun k => { k with
        pair := some { p with undo := p.undo ++ new.map fun w => (w, w64 (leNat (spRead s c w 8))) } }

/-- A write of another core to a word with an open undo entry changes the value the entry keeps too. -/
def undoPatch (s : State) (c a : Nat) (w : WritePkt) : State :=
  modCore s c fun k =>
    match k.pair with
    | none => k
    | some p =>
      { k with pair := some { p with undo := p.undo.map fun e =>
          (e.1, w64 (leNat (overlayWrite e.1 (natLe 8 e.2.toNat) a w))) } }

/-- Whether any of n bytes at a has a live undo entry, so that an atomic or STN message waits (19 R353). -/
def undoHolds (s : State) (c a n : Nat) : Bool :=
  match (getCore s c).pair with
  | none => false
  | some p => p.undo.any fun e => decide (e.1 < a + n) && decide (a < e.1 + 8)

/-- n bytes of a location as core `reader` reads them, for a region's VA (R103, R150). -/
def locRead (s : State) (l : Loc) (reader rid va n : Nat) : List Byte :=
  match l with
  | .sp c a => undoView s c reader a (spRead s c a n)
  | .phys pa key => physRead s pa key n
  | .held d c pa key =>
    ((holdQueue s d c).filter fun h => h.root == rootOf s rid).foldl
      (fun bs h => overlayWrite va bs h.w.va.toNat h.w) (physRead s pa key n)

/-- Whether a read of n bytes of a location meets an uncorrectable error. -/
def locBad (s : State) (l : Loc) (n : Nat) : Bool :=
  match l with
  | .sp c a => spBad s c a n
  | .phys pa _ => physBad s pa n
  | .held _ _ pa _ => physBad s pa n

/-- A posted write performed at its location for a region (R150). -/
def locApply (s : State) (rid : Nat) (w : WritePkt) : State :=
  match w.loc with
  | .sp c a =>
    let old := spRead s c a w.data.length
    let s1 := spWrite s c a (localIndex s (clusterOf c) rid) (overlayWrite a old a w)
    if w.who.core == c then
      match w.kind with
      | .sub _ _ => s1
      | .store => markDirty s1 c a w.data.length
      | .stn _ => markDirty s1 c a w.data.length
      | .row => markDirty s1 c a w.data.length
    else undoPatch s1 c a w
  | .phys pa key => physApply s pa key w
  | .held d c pa key => holdApply s d c pa key (rootOf s rid) w

/-! ## Bytes of a region's VA range as hardware reads and writes them (05 R418) -/

/-- A part of a VA range within one page: where it is performed, the page it counts on, its VA and its length. -/
structure LocPart where
  loc : Loc
  acc : Option AccPage
  va : Nat
  len : Nat
deriving DecidableEq, Repr

/-- The parts of n bytes at va in the mapping of a region with table root `root`, for a requester of a die; none when a byte
does not translate to populated memory, or, for a write, lies in a page that is not writable. -/
def vaLocs (s : State) (rid root die va n : Nat) (write : Bool) : Option (List LocPart) :=
  (pageParts (n / 4096 + 2) va n).mapM fun p =>
    match walkFrom s rid p.1 3 root with
    | .error _ => none
    | .ok lf =>
      if paPresent s (leafPa lf p.1) && (!write || pteW lf.word) then
        some ⟨leafLoc s lf p.1, accPage s die rid lf, p.1, p.2⟩
      else none

/-- The bytes of such parts; the read counts on their pages (04 R100). -/
def partsRead (s : State) (rid : Nat) (ls : List LocPart) : List Byte :=
  ls.flatMap fun l => locRead s l.loc 0 rid l.va l.len

def partsCount (s : State) (ls : List LocPart) : State := ls.foldl (fun s l => countUnits s l.acc l.va l.len) s

/-- A location some bytes further on in its page. -/
def locPlus (l : Loc) (n : Nat) : Loc :=
  match l with
  | .sp c a => .sp c (a + n)
  | .phys pa key => .phys (pa + n) key
  | .held d c pa key => .held d c (pa + n) key

/-- Whether the host may cache any line of device memory. -/
def anySnoop (s : State) : Bool := s.dies.any fun d => d.2.snoop.any fun l => decide (l.1 < 8) && !l.2.isEmpty

/-- The lines the host may cache among n bytes at va in a mapping and the tables that map them (R107). -/
def vaLines (s : State) (rid root va n : Nat) : List Nat :=
  if !anySnoop s then []
  else (pageParts (n / 4096 + 2) va n).flatMap fun p =>
    match walkLine s p.1 3 root with
    | some x => [x]
    | none =>
      match walkFrom s rid p.1 3 root with
      | .error _ => []
      | .ok lf => snooped s (leafPa lf p.1) p.2

/-- An event of a unit goes on once the host has given back every line it touches; until then it waits in its place
(R107). -/
def awaitLines (ls : List Nat) (src : Nat) (dst : Place) (e : Event) (f : State → State) (s : State) : State :=
  if ls.isEmpty then f s else putBack (ls.foldl askLine s) src dst e

end Sys2Proof.Machine
end

