-- ==== Sys2Proof/Machine/Banks.lean ====
section
/-! DEFINITION. The banks of the Harp path (spec 06 R134-R137, R145): how a row opens and closes, and the postponed refresh. -/

namespace Sys2Proof.Machine

/-- Number of the bank of a physical address within its footprint (01 R22, 06 R134). -/
def paBank (pa : Nat) : Nat := bits pa 36 34 * 8 + bits pa 18 16

/-- The cluster whose footprint a physical address lies in. -/
def paCluster (pa : Nat) : Nat := paDie pa * 8 + paCtl pa

/-- The channel that serves a bank (R134). -/
def bankChannel (n : Nat) : Nat := n / 8 % 2 * 8 + n % 8

def getBank (s : State) (cl n : Nat) : Bank := tget (getCluster s cl).banks n Bank.reset

def setBank (s : State) (cl n : Nat) (b : Bank) : State :=
  modCluster s cl fun k => { k with banks := tset k.banks n b }

/-- Whether a bank holds a row, opening or open. -/
def bankBusy (b : Bank) : Bool := b.st == .opening || b.st == .open_

/-- The row closes now: PRECHARGE for 8 cycles, with a lost record where it is kept (R136, R145); a refresh that the bank's
activation still waited for is pending again (R137). -/
def closeBank (s : State) (cl n : Nat) (keep : Bool) : State :=
  let b := getBank s cl n
  let s1 := setBank s cl n { b with
    st := .precharge
    until_ := s.cycle + 8
    refreshDue := b.refreshDue || (b.st == .opening && decide (s.cycle < b.until_))
    lost := if keep then some (b.handle, b.core, s.cycle) else b.lost
    closeAsked := none
    row := none
    hold := none }
  atCycle s1 (s.cycle + 8) (.prechargeEnd cl n)

/-- A close takes effect when the last accepted ROWUSE has finished its read cycles, or at the ready cycle (R142). -/
def askClose (s : State) (cl n : Nat) (keep : Bool) : State :=
  let b := getBank s cl n
  let at_ := if b.st == .opening then b.ready else b.readEnd
  if at_ ≤ s.cycle then closeBank s cl n keep
  else atCycle (setBank s cl n { b with closeAsked := some keep }) at_ (.deferredClose cl n)

/-- The release of an in-place hold closes the rows opened under it (R145). -/
def releaseRows (s : State) (core rid : Nat) (guard : Word) : State :=
  let cl := clusterOf core
  ((getCluster s cl).banks).foldl (fun s e =>
    let b := getBank s cl e.1
    if bankBusy b && b.core == core && b.hold == some guard && setOwnerOf s b.region == setOwnerOf s rid then
      if b.st == .open_ then closeBank s cl e.1 true else askClose s cl e.1 true
    else s) s

/-- Rows of a cluster's banks close at once with no lost record, where p holds (R145). -/
def dropRows (s : State) (cl : Nat) (p : Bank → Bool) : State :=
  ((getCluster s cl).banks).foldl (fun s e =>
    if bankBusy (getBank s cl e.1) && p (getBank s cl e.1) then closeBank s cl e.1 false else s) s

end Sys2Proof.Machine
end

