-- ==== Sys2Proof/Machine/AsyncLog.lean ====
section
/-! DEFINITION. The asynchronous log of a region and the halting of a region (spec 12 R249, R250, 16 R420), and the waits
that end when an item of a task is acknowledged (12 R244, 05 R127). -/

namespace Sys2Proof.Machine

/-- The live dies a region is granted (16 R312, 21 R375). -/
def regionDies (s : State) (r : Region) : List Nat :=
  (List.range 8).filter fun d => bit r.dies d && !(getDie s d).excluded

/-- The clusters (die × 8 + cluster) a region is granted. -/
def regionClusters (s : State) (r : Region) : List Nat :=
  (regionDies s r).flatMap fun d => ((List.range 8).filter fun c => bit r.clusters c).map fun c => d * 8 + c

/-- The cluster control cores of a region. -/
def regionControls (s : State) (r : Region) : List Nat := (regionClusters s r).map fun k => 3072 + k

/-- An entry of the asynchronous log (R249), and the core its notice would name. -/
structure LogEntry where
  va : Word
  operand : Word
  gtid : Word
  kind : Nat
  op : Nat
  cause : Nat
  detail : Nat
  side : Nat
  core : Nat
deriving DecidableEq, Repr

/-- The four words of an entry. -/
def logWords (e : LogEntry) : List Word :=
  [e.va, e.operand, e.gtid,
    w64 (2 ^ 63 + e.kind % 256 * 2 ^ 48 + e.op % 256 * 2 ^ 40 + e.cause % 16 * 2 ^ 36 + e.detail % 16 * 2 ^ 32
      + e.side % 2 * 2 ^ 31)]

/-- ALOGCNT. -/
def logCount (s : State) (r : Region) : Nat := rcbField s r 21 8 0

/-- Marks a task to stop at its next bundle boundary as under TPREEMPT; a trapped one keeps its park. -/
def askStop (t : Slot) : Slot :=
  if t.stop.isSome then t else { t with stop := some false, stopRequeue := false, stopper := none }

/-- Every task of a region in a slot but the one that trapped, if one did, is asked to stop (R250). -/
def stopRegion (s : State) (rid : Nat) (trapped : Option Word) : State :=
  { s with cores := s.cores.map fun e =>
      (e.1, { e.2 with slots := e.2.slots.map fun t =>
        (t.1, if t.2.held && t.2.region == rid && some t.2.gtid != trapped then askStop t.2 else t.2) }) }

/-- The halt of a region (R250): STATUS becomes HALTED, its tasks are asked to stop, and every control core of the region
receives the notice, from `from_`; `trapped` is the task that has trapped, where one has. -/
def haltRegion (s : State) (r : Region) (from_ : Nat) (trapped : Option Word) (g pc : Word) (slot : Nat) (t : Trap) : State :=
  let s1 := if regStatus s r == 2 then rcbPut s r 0 31 24 3 else s
  let s2 := stopRegion s1 r.id trapped
  let targets := (regionControls s r).foldl (fun l c => addNat l c) [noticeTarget from_]
  targets.foldl (fun s c =>
    sendMsg s from_ (mkHdr 4 0xFD 0xFF c) [g, pc, causeWord from_ slot t, t.value] (hwWho from_ g) false) s2

/-- An append that cannot be written (R250): LOGOVF is set, and the first such append halts the region. -/
def logOverflow (s : State) (r : Region) (e : LogEntry) : State :=
  let was := rcbField s r 4 60 60
  let s1 := rcbPut s r 4 60 60 1
  if was == 1 then s1 else haltRegion s1 r e.core none e.gtid 0 0 ⟨16, e.cause, 0, e.va⟩

/-- ASYNC_LOG_APPEND (R249): the entry is written and the count rises. -/
def logAppend (s : State) (rid : Nat) (e : LogEntry) : State :=
  match getRegion s rid with
  | none => s
  | some r =>
    let n := logCount s r
    if 256 ≤ n then logOverflow s r e
    else match vaPlaces s rid (r.alog + 32 * n) 32 with
      | none => logOverflow s r e
      | some ps => rcbPut (placesWrite s none ps (bytesOf (logWords e))) r 21 8 0 (n + 1)

/-! ## Waits that an acknowledgement ends -/

def isMessageEvent (e : Event) : Bool :=
  match e with
  | .messageArrive _ => true
  | .errorNotice _ => true
  | _ => false

/-- The numbers of a task's items still outstanding, in its slot, its saved context or the tracker of its core. -/
def liveItems (s : State) (core slot : Nat) (g : Word) : List Nat :=
  let own := match locate s core slot g with
    | some a => (taskSlot s a).out.map fun o => o.id
    | none => []
  own ++ ((getCore s core).tracker.filter fun e => e.gtid == g).flatMap fun e => e.items.map fun o => o.id

/-- Held accesses leave in order: a release form whose items are all acknowledged, and whatever stood behind it (12 R244). -/
def settleFrom (s : State) (core : Nat) : List HeldRelease → List HeldRelease → State
  | kept, [] => modCore s core fun k => { k with heldRel := kept }
  | kept, h :: r =>
    let waits := h.waits.filter fun n => (liveItems s core 8 h.gtid).contains n
    if waits.isEmpty && !(kept.any fun k => k.dst == h.dst && (k.src == h.src || isMessageEvent h.ev)) then
      settleFrom (sendAs s h.num h.src h.dst h.ev) core kept r
    else settleFrom s core (kept ++ [{ h with waits := waits }]) r

def settleHeld (s : State) (core : Nat) : State :=
  if (getCore s core).heldRel.isEmpty then s else settleFrom s core [] (getCore s core).heldRel

end Sys2Proof.Machine
end

