-- ==== Sys2Proof/Machine/Queues.lean ====
section
/-! DEFINITION. Queue registers (spec 03 R68, R69, 11 R229-R234, 14 R280, 15 R297-R303, 20 R364, 04 R101): what a pop
gives, what a push does, and the node pool, message staging and trace FIFO behind them. -/

namespace Sys2Proof.Machine

/-! ## Node space (14 R269-R272, R287) -/

/-- A reference word (14 R270). -/
def refWord (tag gen idx : Nat) : Word := w64 (tag % 8 * 2 ^ 61 + gen % 2 ^ 16 * 2 ^ 40 + idx % 2 ^ 40)

def wTag (w : Word) : Nat := bits w.toNat 63 61

def wGen (w : Word) : Nat := bits w.toNat 55 40

def wIdx (w : Word) : Nat := bits w.toNat 39 0

/-- The owner of a node (14 R271). -/
def nodeOwner (idx : Nat) : Nat := idx / 2 ^ 28 % 4096

/-- The VA of a node in a region. -/
def nodeVa (s : State) (rid idx : Nat) : Nat :=
  match getRegion s rid with
  | some r => r.nbase + idx * 64
  | none => 0

/-- Whether a node lies in a NODE range that its unit may use (14 R271, 04 R96). -/
def nodeInRange (s : State) (core rid idx : Nat) : Bool :=
  (rangeCheck s core rid .node (nodeVa s rid idx) 64).isNone

/-- The place of a node, as its owner's node unit reaches it. -/
def nodePart (s : State) (rid idx : Nat) : Option LocPart :=
  (vaLocs s rid (rootOf s rid) (dieOf (nodeOwner idx)) (nodeVa s rid idx) 64 false).bind List.head?

/-- The eight words of a node in memory, at its hold controller where its page is under write-block (04 R102); none where it
does not translate. -/
def nodeRead (s : State) (rid idx : Nat) : Option (List Word) :=
  (nodePart s rid idx).map fun p =>
    let bs := locRead s p.loc 0 rid p.va 64
    (List.range 8).map fun i => w64 (leNat ((bs.drop (8 * i)).take 8))

/-- Writes words of a node from word `at_` on. -/
def nodeWrite (s : State) (rid idx at_ : Nat) (ws : List Word) : State :=
  match nodePart s rid idx with
  | none => s
  | some p =>
    locApply s rid ⟨noWho 0, .store, locPlus p.loc (8 * at_), none, w64 (p.va + 8 * at_), ws.flatMap fun w => natLe 8 w.toNat⟩

/-- One access of a node unit to a node counts on its page (04 R100). -/
def countNode (s : State) (rid idx : Nat) : State :=
  match nodePart s rid idx with
  | none => s
  | some p => countUnits s p.acc p.va 64

/-- The lines the host may cache of a node (04 R107). -/
def nodeLines (s : State) (rid idx : Nat) : List Nat := vaLines s rid (rootOf s rid) (nodeVa s rid idx) 64

/-- The same of the node at the end of an owner's free list, to which a freed node is linked. -/
def freeLines (s : State) (core rid : Nat) : List Nat :=
  if !anySnoop s then []
  else match ((getCore s core).freeNodes.filter fun e => e.1 == setOwnerOf s rid).getLast? with
    | some e => nodeLines s rid e.2
    | none => []

/-- The same of the node that a pool gives next. -/
def takeLines (s : State) (core rid : Nat) : List Nat :=
  if !anySnoop s then []
  else match (getCore s core).freeNodes.find? fun e => e.1 == setOwnerOf s rid with
    | some e => nodeLines s rid e.2
    | none => []

/-- The bundle waits while the host may cache one of these lines. -/
def awaitAll (ls : List Nat) : Op Unit := fun s =>
  match ls.head? with
  | some x => .error (.await x)
  | none => .ok ((), s)

/-- Header fields (14 R269). -/
def hKind (h : Word) : Nat := bits h.toNat 7 0

def hArity (h : Word) : Nat := bits h.toNat 9 8

def hState (h : Word) : Nat := bits h.toNat 11 10

def hClaimer (h : Word) : Nat := bits h.toNat 23 12

def hGen (h : Word) : Nat := bits h.toNat 39 24

def hOut (h : Word) : Nat := bits h.toNat 42 40

def hExpect (h : Word) : Nat := bits h.toNat 45 43

def hInc (h : Word) : Nat := bits h.toNat 48 46

/-- A header word from its fields. -/
def mkNodeHdr (inc expect out gen claimer st arity kind : Nat) : Word :=
  w64 (inc % 8 * 2 ^ 46 + expect % 8 * 2 ^ 43 + out % 8 * 2 ^ 40 + gen % 2 ^ 16 * 2 ^ 24 + claimer % 4096 * 2 ^ 12 +
    st % 4 * 2 ^ 10 + arity % 4 * 2 ^ 8 + kind % 256)

/-- The end-of-list mark of the free list (14 R287). -/
def freeEnd : Word := w64 (2 ^ 40 - 1)

/-- A task of a region allocates a node (16 R313 NODEQ). -/
def nodesAdd (s : State) (rid idx : Nat) : State := modRegion s rid fun r => { r with nodesLive := addNat r.nodesLive idx }

/-- A node is free: the region whose task allocated it, if one did, holds it no longer. -/
def nodesDrop (s : State) (rid idx : Nat) : State :=
  { s with regions := s.regions.map fun e =>
      if e.2.setOwner == setOwnerOf s rid then (e.1, { e.2 with nodesLive := e.2.nodesLive.filter fun n => n != idx }) else e }

/-- An index joins the end of its owner's free list: the last FREE node links to it (14 R287). -/
def freeAppend (s : State) (core rid idx : Nat) : State :=
  let so := setOwnerOf s rid
  let s1 := match ((getCore s core).freeNodes.filter fun e => e.1 == so).getLast? with
    | some e => nodeWrite s rid e.2 1 [w64 idx]
    | none => s
  let s2 := nodeWrite s1 rid idx 1 [freeEnd]
  modCore s2 core fun k => { k with freeNodes := k.freeNodes ++ [(so, idx)] }

/-- Whether a task of the region may allocate a node at the core (14 R278, R280, 16 R313). -/
def poolHas (s : State) (core rid n : Nat) : Bool :=
  let so := setOwnerOf s rid
  decide (n ≤ ((getCore s core).freeNodes.filter fun e => e.1 == so).length) &&
    (match getRegion s rid with
     | some r => decide (r.nodesLive.length + n ≤ r.nodeq)
     | none => false)

/-- Takes the oldest free index: GEN advances in its header, NCALLOC counts (14 R287). Gives index and GEN. -/
def poolTake (s : State) (core rid : Nat) : Option (Nat × Nat × State) :=
  match takeFirst (fun (e : Nat × Nat) => e.1 == setOwnerOf s rid) (getCore s core).freeNodes with
  | none => none
  | some (e, rest) =>
    let h := match nodeRead s rid e.2 with
      | some (h :: _) => h
      | _ => 0#64
    let g := (hGen h + 1) % 65536
    let s1 := nodeWrite (countNode s rid e.2) rid e.2 0 [mkNodeHdr 0 0 0 g 0 0 (hArity h) (hKind h)]
    let s2 := modCore s1 core fun k => { k with freeNodes := rest, ncalloc := k.ncalloc + 1 }
    some (e.2, g, nodesAdd s2 rid e.2)

/-- Returns an unstaged or discarded node to the pool (14 R280). -/
def poolReturn (s : State) (core rid idx : Nat) : State :=
  nodesDrop (freeAppend (countNode s rid idx) core rid idx) rid idx

/-! ## The bag (14 R273) -/

/-- Places an entry at the end of a die's ready queue. -/
def readyPush (s : State) (d : Nat) (e : ReadyEntry) : State := modDie s d fun k => { k with ready := k.ready ++ [e] }

/-- Pushes a pair: into the bag below 768 entries, else towards the die's ready queue, which holds it back at its source
while full (14 R273, 16 R318). -/
def bagPush (s : State) (core rid : Nat) (a b : Word) : State :=
  if (getCore s core).bag.length < 768 then
    modCore s core fun k => { k with bag := k.bag ++ [(rid, a, b)] }
  else later s (.spawnPlace (dieOf core) none ⟨rid, .pair a b⟩)

/-! ## Staged messages (15 R297, R298, R301) -/

/-- Occupied bounce slots of a core's mailbox (15 R299). -/
def bounceSlots (k : Core) : Nat := (k.mbox.filter fun e => decide (240 ≤ e.1)).length

/-- Whether the core's send buffer takes another message of this slot now (15 R298, R301). -/
def canSend (s : State) (h : Word) : Bool :=
  let k := getCore s s.cur.core
  let t := curSlot s
  decide (k.msgsFlying + bounceSlots k < 16) && (!hdrAck h || decide (t.q7.length + t.ackFlying < 8))

/-- Whether a bundle may add no item to the task's count: it would pass 1,024 (12 R237). -/
def oscFull (s : State) : Bool := decide (1024 ≤ oscOf (curSlot s))

/-- The message leaves when its last word is produced: it is counted in OSC until accepted or bounced (15 R298). -/
def sendStaged (h : Word) (pay : List Word) : Op Unit := do
  let s ← look
  stallIf (!canSend s h || oscFull s)
  change fun s =>
    let t := curSlot s
    let who : Who := ⟨s.cur.core, s.cur.slot, t.gtid, t.nextItem⟩
    let s1 := addOut s s.cur.core s.cur.slot .msg [msgPlace s h] [] .none .none 0 false
    let s2 := modCur s1 fun t => { t with
      stagedHdr := none, stagedPay := [], ackFlying := if hdrAck h then t.ackFlying + 1 else t.ackFlying }
    sendMsgAt s2 (Nat.max s2.cycle (curSlot s2).pushDue) s.cur.core h pay who true

/-! ## Trace FIFO (20 R364) -/

/-- Whether Turfy is off for a region: a confidential one that its owner has not opened. -/
def turfyOff (s : State) (rid : Nat) : Bool :=
  match getRegion s rid with
  | some r => r.conf && !r.debug
  | none => false

/-- Whether the die accepts q12 and TRACE records of the issuing task. -/
def traceOn (s : State) (core : Nat) : Bool :=
  let d := getDie s (dieOf core)
  bit d.trctl.toNat 0 && d.trsize != 0 && !turfyOff s (curSlot s).region

/-- A record of the bundle enters the slot's FIFO, or is discarded; a full FIFO parks. -/
def tracePush (due kind : Nat) (v : Word) : Op Unit := do
  let s ← look
  if traceOn s s.cur.core then do
    stallIf (decide (8 ≤ (curSlot s).q12.length))
    change fun s => modCur s fun t => { t with q12 := t.q12 ++ [⟨due, kind, s.cycle, s.cur.pc, v⟩] }
  else pure ()

/-! ## Pops -/

/-- Notification-ring words waiting for a control core's task (04 R101). -/
def ringWords (s : State) : Nat :=
  match getRegion s (curSlot s).region with
  | none => 0
  | some r =>
    match getRegion s r.nqOwner with
    | none => 0
    | some o =>
      if r.nqsize == 0 then 0
      else
        let n := ringFill r.nqsize (rcbField s o 18 31 16) (rcbField s o 18 47 32)
        if (curSlot s).q13Half.isSome then 2 * n + 1 else 2 * n

/-- The next ring entry, its two words, removed from the ring. -/
def ringTake (s : State) : Option (Word × Word × State) :=
  match getRegion s (curSlot s).region with
  | none => none
  | some r =>
    match getRegion s r.nqOwner with
    | none => none
    | some o =>
      let head := rcbField s o 18 31 16
      match vaPhys s r.nqOwner (r.nqbase + 16 * (head % r.nqsize)) with
      | none => none
      | some (pa, key) =>
        let bs := physRead s pa key 16
        some (w64 (leNat (bs.take 8)), w64 (leNat (bs.drop 8)), rcbPut s o 18 31 16 ((head + 1) % (2 * r.nqsize)))

/-- Whether queue q of the issuing slot holds n elements (R69, R229). q6 never parks: an empty pop of it traps. -/
def queueHas (s : State) (q n : Nat) : Bool :=
  let t := curSlot s
  match q with
  | 1 => decide (n ≤ t.sfuRes.length)
  | 3 => decide (n ≤ t.q3.length)
  | 7 => decide (n ≤ t.q7.length)
  | 8 => poolHas s s.cur.core t.region n
  | 11 => decide (n ≤ t.q11.length)
  | 13 => decide (n ≤ ringWords s)
  | _ => true

/-- Whether queue q takes a push now (R69, R229). -/
def queueRoom (s : State) (q : Nat) : Bool :=
  let t := curSlot s
  match q with
  | 1 => decide (t.sfuReq.length < 8)
  | 9 => decide (t.q9.length < 16)
  | 10 => decide (t.q10.length < 2)
  | 12 => !traceOn s s.cur.core || decide (t.q12.length < 8)
  | _ => true

/-- Whether queue q may be read on this core (R68). -/
def queueReadable (core q : Nat) : Bool :=
  match q with
  | 1 | 3 | 6 | 7 => true
  | 8 | 11 => isCompute core
  | 13 => isControl core
  | _ => false

/-- Whether queue q may be written on this core (R68). -/
def queueWritable (core q : Nat) : Bool :=
  match q with
  | 0 | 1 | 2 | 4 | 5 | 12 => true
  | 9 | 10 => isCompute core
  | _ => false

/-- The value popped goes to the reader. -/
def popped (v : Word) : Op Word := do
  change fun s => { s with cur := { s.cur with popped := s.cur.popped ++ [v] } }
  pure v

/-- q1: the oldest SFU result; its flags merge and its status goes to q3 (11 R234). -/
def popQ1 : Op Word := do
  let s ← look
  match (curSlot s).sfuRes with
  | [] => stall
  | r :: rest => do
    change fun s => modCur s fun t =>
      let st := w64 (r.func % 16 * 256 + r.fmt % 4 * 64 + r.flags % 64)
      { t with sfuRes := rest, q3 := if t.q3.length < 8 then t.q3 ++ [st] else t.q3.drop 1 ++ [st] }
    change (mergeFlags 1 (BitVec.ofNat 6 r.flags))
    popped r.val

/-- q3: the oldest status word. -/
def popQ3 : Op Word := do
  let s ← look
  match (curSlot s).q3 with
  | [] => stall
  | v :: rest => do
    change fun s => modCur s fun t => { t with q3 := rest }
    popped v

/-- q6: the next payload word of the current message; none left is queue misuse (15 R303). -/
def popQ6 : Op Word := do
  let s ← look
  match (curSlot s).q6 with
  | [] => raise (tQueue 6)
  | v :: rest => do
    change fun s => modCur s fun t => { t with q6 := rest, q6Popped := t.q6Popped + 1 }
    popped v

/-- q7: the oldest message status. -/
def popQ7 : Op Word := do
  let s ← look
  match (curSlot s).q7 with
  | [] => stall
  | v :: rest => do
    change fun s => modCur s fun t => { t with q7 := rest }
    popped v

/-- q8: an index of the free pool, reserved to the task (14 R280). -/
def popQ8 : Op Word := do
  let s ← look
  stallIf (!poolHas s s.cur.core (curSlot s).region 1)
  awaitAll (takeLines s s.cur.core (curSlot s).region)
  match poolTake s s.cur.core (curSlot s).region with
  | none => stall
  | some (i, g, s1) => do
    change fun _ => modCur s1 fun t => { t with reserved := t.reserved ++ [refWord 1 g i] }
    popped (refWord 1 g i)

/-- q11: the oldest substitution notice. -/
def popQ11 : Op Word := do
  let s ← look
  match (curSlot s).q11 with
  | [] => stall
  | v :: rest => do
    change fun s => modCur s fun t => { t with q11 := rest }
    popped v

/-- q13: word 0 then word 1 of the oldest notification (04 R101). -/
def popQ13 : Op Word := do
  let s ← look
  match (curSlot s).q13Half with
  | some w => do
    change fun s => modCur s fun t => { t with q13Half := none }
    popped w
  | none => do
    stallIf (ringWords s == 0)
    match ringTake s with
    | none => stall
    | some (w0, w1, s1) => do
      change fun _ => modCur s1 fun t => { t with q13Half := some w1 }
      popped w0

/-- A pop of queue q that R68 permits. -/
def popQueue (q : Nat) : Op Word :=
  match q with
  | 1 => popQ1
  | 3 => popQ3
  | 6 => popQ6
  | 7 => popQ7
  | 8 => popQ8
  | 11 => popQ11
  | 13 => popQ13
  | _ => raise (tQueue q)

/-! ## Pushes -/

/-- The issuing task's pushes up to one made now are produced at `pushDue`: a later push of the slot, whichever queue it
goes to, never overtakes an earlier one (R69). -/
def pushedNow (lat : Nat) (s : State) : State := modCur s fun t => { t with pushDue := Nat.max t.pushDue (s.cycle + lat) }

/-- q0: the function word (11 R230). -/
def pushQ0 (v : Word) : Op Unit := do
  trapIf (v.toNat % 16 == 15 || v.toNat / 256 != 0 || bits v.toNat 5 4 != 0) (tQueue 0)
  change fun s => modCur s fun t => { t with q0 := v }

/-- q1: one request (11 R231); its operand is produced after the producer's latency (R69). -/
def pushQ1 (v : Word) : Op Unit := do
  let s ← look
  let t := curSlot s
  trapIf (t.q0.toNat % 16 == 0) (tQueue 1)
  stallIf (!queueRoom s 1)
  let f := t.q0.toNat % 16
  change fun s => modCur s fun t => { t with
    sfuReq := t.sfuReq ++ [⟨f, bits t.q0.toNat 7 6, v, if f == 13 || f == 14 then t.q2 else 0, t.pushDue⟩] }

/-- q2: the second operand (11 R231). -/
def pushQ2 (v : Word) : Op Unit := change fun s => modCur s fun t => { t with q2 := v }

/-- q4: a header; with no payload the message leaves (15 R298). -/
def pushQ4 (v : Word) : Op Unit := do
  let s ← look
  trapIf ((curSlot s).stagedHdr.isSome || decide (0xFC ≤ hdrTag v)) (tQueue 4)
  if hdrNpay v == 0 then sendStaged v []
  else change fun s => modCur s fun t => { t with stagedHdr := some v, stagedPay := [] }

/-- q5: a payload word; the last one sends the message. -/
def pushQ5 (v : Word) : Op Unit := do
  let s ← look
  match (curSlot s).stagedHdr with
  | none => raise (tQueue 5)
  | some h =>
    let pay := (curSlot s).stagedPay ++ [v]
    if pay.length == hdrNpay h then sendStaged h pay
    else change fun s => modCur s fun t => { t with stagedPay := pay }

/-- q9: a reserved, unstaged handle, which the node unit returns to the pool once it is produced (14 R279, R280). -/
def pushQ9 (v : Word) : Op Unit := do
  let s ← look
  stallIf (!queueRoom s 9)
  trapIf (!(curSlot s).reserved.contains v) (tRule 3 v)
  change fun s => modCur s fun t => { t with reserved := t.reserved.erase v, q9 := t.q9 ++ [(v, t.pushDue)] }

/-- A pair word of NPUSH or q10 (14 R278, R279). -/
def pairWordOk (v : Word) : Bool := wTag v == 1 && bits v.toNat 60 56 == 0

/-- q10: first, then second: the effect of NPUSH, once both are produced. -/
def pushQ10 (v : Word) : Op Unit := do
  let s ← look
  stallIf (!queueRoom s 10)
  trapIf (!pairWordOk v) (tRule 6 v)
  change fun s => modCur s fun t => { t with q10 := t.q10 ++ [(v, t.pushDue)] }

/-- q12: a trace record of kind 1 (20 R364). -/
def pushQ12 (v : Word) : Op Unit := do
  let s ← look
  tracePush (curSlot s).pushDue 1 v

/-- A push to queue q that R68 permits, of a value produced `lat` cycles from now. -/
def pushQueue (q : Nat) (v : Word) (lat : Nat) : Op Unit := do
  change (pushedNow lat)
  match q with
  | 0 => pushQ0 v
  | 1 => pushQ1 v
  | 2 => pushQ2 v
  | 4 => pushQ4 v
  | 5 => pushQ5 v
  | 9 => pushQ9 v
  | 10 => pushQ10 v
  | 12 => pushQ12 v
  | _ => raise (tQueue q)

/-! ## What the node unit takes from q9 and q10 (R229, 14 R280) -/

/-- The handles of a slot's q9 produced by a cycle return to the pool. -/
def drainQ9 (s : State) (c i now : Nat) : State :=
  let t := getSlot s c i
  let s1 := modSlot s c i fun t => { t with q9 := t.q9.filter fun e => decide (now < e.2) }
  (t.q9.filter fun e => decide (e.2 ≤ now)).foldl (fun s e => poolReturn s c t.region (wIdx e.1)) s1

/-- The pair of a slot's q10, both words produced by a cycle, is pushed. -/
def drainQ10 (s : State) (c i now : Nat) : State :=
  let t := getSlot s c i
  match t.q10 with
  | [a, b] => if b.2 ≤ now then bagPush (modSlot s c i fun t => { t with q10 := [] }) c t.region a.1 b.1 else s
  | _ => s

/-- What the node unit takes from a slot by a cycle. -/
def drainPushes (s : State) (c i now : Nat) : State := drainQ10 (drainQ9 s c i now) c i now

/-- The pushes already made to q9 and q10 are delivered, produced or not yet (18 R339). -/
def flushPushes (s : State) (c i : Nat) : State := drainPushes s c i (Nat.max s.cycle (getSlot s c i).pushDue)

/-- A core's slots over the cycle that begins. -/
def drainCore (s : State) (c : Nat) : State :=
  (List.range 8).foldl (fun s i =>
    let t := getSlot s c i
    if t.q9.isEmpty && t.q10.isEmpty then s else drainPushes s c i s.cycle) s

end Sys2Proof.Machine
end

