-- ==== Sys2Proof/Machine/Operands.lean ====
section
/-! DEFINITION. Every operand form (spec 03 R60-R69, R73-R77): scalar sources that may be queue registers, the four
register files, predicates, immediates, destinations of fixed and variable latency, and the issue conditions and traps
that the operands alone decide. -/

namespace Sys2Proof.Machine

/-- The task of the bundle, with the number its next outstanding access will have. -/
def curWho (s : State) : Who := ⟨s.cur.core, s.cur.slot, (curSlot s).gtid, (curSlot s).nextItem⟩

/-! ## Queue registers among the scalar numbers (R66) -/

def isQ (f : XField) : Bool := decide (48 ≤ f.toNat)

def qNum (f : XField) : Nat := f.toNat - 48

/-- A word's destination. `xq` is a fixed-latency scalar result of an A-word, which may be pushed (R68). -/
inductive Dst where
  | none
  | xq (f : XField)
  | x (f : XField)
  | f (n : FField)
  | v (n : FField)
  | p (n : PField)
deriving DecidableEq, Repr

/-- The register a destination names. -/
def dstReg (d : Dst) : RegId :=
  match d with
  | .none => .none
  | .xq f => if isQ f then .none else .x f.toNat
  | .x f => if isQ f then .none else .x f.toNat
  | .f n => .f n.toNat
  | .v n => .v n.toNat
  | .p n => .p n.toNat

/-- How often a queue stands among sources. -/
def timesNamed (srcs : List XField) (f : XField) : Nat := (srcs.filter fun g => g == f).length

/-- Whether every queue the word reads holds enough elements; one that may not be read does not park (R69, R335). -/
def sourcesReady (s : State) (srcs : List XField) : Bool :=
  srcs.all fun f => !isQ f || !queueReadable s.cur.core (qNum f) || queueHas s (qNum f) (timesNamed srcs f)

/-- Whether the destination lets the bundle issue: no pending bit (R77), room for the push (R69). -/
def dstReady (s : State) (d : Dst) : Bool :=
  !isPending (curSlot s) (dstReg d) &&
    (match d with
     | .xq f => !isQ f || queueRoom s (qNum f)
     | _ => true)

/-- q14 and q15 among a word's registers (R68). -/
def namesQ1415 (srcs : List XField) (d : Dst) : Bool :=
  (srcs.any fun f => decide (62 ≤ f.toNat)) ||
    (match d with
     | .xq f => decide (62 ≤ f.toNat)
     | .x f => decide (62 ≤ f.toNat)
     | _ => false)

/-- The queue misuse of a word, by queue number: sources in pop order, then the destination (R68). -/
def misuse (s : State) (srcs : List XField) (d : Dst) : Option Nat :=
  match srcs.find? fun f => isQ f && !queueReadable s.cur.core (qNum f) with
  | some f => some (qNum f)
  | none =>
    match d with
    | .xq f => if isQ f && !queueWritable s.cur.core (qNum f) then some (qNum f) else none
    | .x f => if isQ f then some (qNum f) else none
    | _ => none

/-- What a word's operands decide before it acts, in the order of R335: it does not issue while a queue or a pending
destination holds it back; then ILLEGAL (with the conditions `ill` of the instruction), then QUEUE. -/
def operands (srcs : List XField) (d : Dst) (ill : Bool) : Op Unit := do
  let s ← look
  stallIf (!sourcesReady s srcs || !dstReady s d)
  trapIf (ill || namesQ1415 srcs d) tIllegal
  match misuse s srcs d with
  | some q => raise (tQueue q)
  | none => pure ()

/-! ## Sources -/

/-- A scalar source: a register as it stands, or a pop (R66, R69). -/
def rdX (f : XField) : Op Word := do
  if isQ f then popQueue (qNum f)
  else
    let s ← look
    pure (getX (curSlot s) f.toNat)

/-- The residue an x register carries (19 R347): State holds it where it is not the value mod 15. -/
def resOf (t : Slot) (n : Nat) : Nat := (tfind t.xRes n).getD ((getX t n).toNat % 15)

/-- A residue that does not match its value; 15 never does. -/
def badRes (t : Slot) (n : Nat) : Bool := resOf t n != (getX t n).toNat % 15

/-- A scalar source used as an address or as the data of a store or atomic: its residue is checked (19 R347). -/
def rdChecked (f : XField) : Op Word := do
  let s ← look
  if !isQ f && badRes (curSlot s) f.toNat then fun _ => .error .seal
  else rdX f

/-- Whether any of these registers holds a bad residue. -/
def anyBad (s : State) (fs : List XField) : Bool :=
  fs.any fun f => !isQ f && badRes (curSlot s) f.toNat

/-- The residue of a source: a popped value brings its own. -/
def srcRes (s : State) (f : XField) (v : Word) : Nat := if isQ f then v.toNat % 15 else resOf (curSlot s) f.toNat

/-- The residue the integer ALU predicts for `fi a b` cut to 64 bits as `v`, from the residues ra and rb of a and b
(19 R347): what the cut takes away is known to it. None where the prediction matches. -/
def predictedRes (fi : Int → Int → Int) (a b v : Word) (ra rb : Nat) : Option Nat :=
  let r := ((fi ra rb - (fi a.toNat b.toNat - v.toNat)) % 15).toNat
  if r == v.toNat % 15 then none else some r

def rdF (n : FField) : Op Word := do
  let s ← look
  pure (getF (curSlot s) n.toNat)

def rdV (n : FField) : Op Vec := do
  let s ← look
  pure (getV (curSlot s) n.toNat)

def rdP (n : PField) : Op Bool := do
  let s ← look
  pure (getP (curSlot s) n.toNat)

/-- A CM form acts only when its predicate is true (R63). -/
def whenP (p : PField) (m : Op Unit) : Op Unit := do
  let b ← rdP p
  if b then m else pure ()

/-- Sign extension of an immediate. -/
def immS {n : Nat} (i : BitVec n) : Word := i.signExtend 64

/-- The effective address of a CM form (07 R149). -/
def cmAddr (base : Word) (imm : BitVec 7) (size : Nat) : Word := base + immS imm * w64 size

/-- The value a scalar source would give, with nothing popped: what the ILLEGAL conditions of a form test before its QUEUE
ones (18 R335). -/
def peekX (s : State) (f : XField) : Word :=
  match (rdX f).run s with
  | .ok (v, _) => v
  | .error _ => 0

/-! ## Destinations -/

/-- A scalar result of fixed latency: a register write, or a push (R68, R73). -/
def wrX (f : XField) (lat : Nat) (v : Word) : Op Unit :=
  if isQ f then pushQueue (qNum f) v lat
  else change fun s => writeLate s (.x f.toNat) lat (BitVec.ofNat 512 v.toNat)

/-- A scalar result with the residue predicted for it, where that is not its own (19 R347). -/
def wrXPredicted (f : XField) (lat : Nat) (v : Word) (res : Option Nat) : Op Unit :=
  match res with
  | none => wrX f lat v
  | some r =>
    if isQ f then wrX f lat v
    else change fun s => modCur s fun t => { t with
      late := t.late ++ [⟨s.cycle + lat, .x f.toNat, BitVec.ofNat 512 v.toNat, BitVec.allOnes 512, some r⟩] }

def wrF (n : FField) (lat : Nat) (v : Word) : Op Unit :=
  change fun s => writeLate s (.f n.toNat) lat (BitVec.ofNat 512 v.toNat)

/-- A vector result: only the bits of the mask are written. -/
def wrV (n : FField) (lat : Nat) (mask v : Vec) : Op Unit :=
  change fun s => modCur s fun t => { t with late := t.late ++ [⟨s.cycle + lat, .v n.toNat, v, mask, none⟩] }

def wrP (n : PField) (lat : Nat) (b : Bool) : Op Unit :=
  change fun s => writeLate s (.p n.toNat) lat (if b then 1#512 else 0#512)

/-- Runs an operation for each element in order. -/
def opEach {α : Type} (f : α → Op Unit) : List α → Op Unit
  | [] => pure ()
  | a :: r => do
    f a
    opEach f r

/-! ## The scalar sources of C-words, in pop order (R69) -/

/-- Scalar source fields of a C-word: rd where it is read, then ra, then rb. -/
def cSources (i : Instr) : List XField :=
  match i with
  | .ldb m => [m.ra]
  | .ldbu m => [m.ra]
  | .ldh m => [m.ra]
  | .ldhu m => [m.ra]
  | .ldw m => [m.ra]
  | .ldwu m => [m.ra]
  | .ldd m => [m.ra]
  | .stb m => [m.rd, m.ra]
  | .sth m => [m.rd, m.ra]
  | .stw m => [m.rd, m.ra]
  | .std m => [m.rd, m.ra]
  | .stn m => [m.rd, m.ra]
  | .fldS m => [m.ra]
  | .fldD m => [m.ra]
  | .fstS m => [m.ra]
  | .fstD m => [m.ra]
  | .vld m => [m.ra]
  | .vst m => [m.ra]
  | .ldx _ ra rb _ _ _ => [ra, rb]
  | .stx rd ra rb _ _ => [rd, ra, rb]
  | .vlds _ ra rb _ _ => [ra, rb]
  | .vsts _ ra rb _ _ => [ra, rb]
  | .vgath _ ra _ _ _ => [ra]
  | .vscat _ ra _ _ _ => [ra]
  | .amo _ ra rb _ => [ra, rb]
  | .amoAq _ ra rb _ => [ra, rb]
  | .amoRl _ ra rb _ => [ra, rb]
  | .amoAr _ ra rb _ => [ra, rb]
  | .red ra rb _ => [ra, rb]
  | .redRl ra rb _ => [ra, rb]
  | .fence ra => [ra]
  | .jr _ ra => [ra]
  | .cpy _ ra => [ra]
  | .cpy2 _ ra => [ra]
  | .bind _ ra rb => [ra, rb]
  | .unbind _ ra => [ra]
  | .acqX _ ra rb => [ra, rb]
  | .acqS _ ra rb => [ra, rb]
  | .acqXi _ ra rb => [ra, rb]
  | .acqSi _ ra rb => [ra, rb]
  | .rel _ ra => [ra]
  | .relW _ ra => [ra]
  | .gflush _ ra => [ra]
  | .gstat _ ra => [ra]
  | .rowact ra => [ra]
  | .rowuse ra rb => [ra, rb]
  | .rowclose ra => [ra]
  | .rowstat _ ra => [ra]
  | .barinit _ ra rb => [ra, rb]
  | .bararr _ ra rb => [ra, rb]
  | .barwait _ ra rb => [ra, rb]
  | .bararw _ ra rb => [ra, rb]
  | .loopinit _ ra rb => [ra, rb]
  | .getchunk _ ra => [ra]
  | .spawn _ ra rb => [ra, rb]
  | .join _ ra => [ra]
  | .tagen ra => [ra]
  | .tagdis ra => [ra]
  | .tagclr _ ra => [ra]
  | .tagtest _ ra => [ra]
  | .nport _ ra => [ra]
  | .npay _ ra => [ra]
  | .nnew _ ra rb => [ra, rb]
  | .nset rd ra => [rd, ra]
  | .nsetp rd ra rb => [rd, ra, rb]
  | .nlink ra rb => [ra, rb]
  | .npush ra rb => [ra, rb]
  | .gangform _ ra rb => [ra, rb]
  | .pairon _ ra => [ra]
  | .srwr rs _ => [rs]
  | .srset rs _ => [rs]
  | .srclr rs _ => [rs]
  | .trap ra _ => [ra]
  | .tctxrd _ ra rb => [ra, rb]
  | .tctxwr _ ra rb => [ra, rb]
  | .tresume _ ra rb => [ra, rb]
  | .tkill _ ra => [ra]
  | .tpreempt _ ra rb => [ra, rb]
  | .trace ra => [ra]
  | _ => []

/-- Scalar source fields of an A-word in pop order (R69): the x field, then ra, then rb; xa, xb, then xd. -/
def aSources (i : Instr) : List XField :=
  match i with
  | .add _ ra rb => [ra, rb]
  | .sub _ ra rb => [ra, rb]
  | .mul _ ra rb => [ra, rb]
  | .mulhSs _ ra rb => [ra, rb]
  | .mulhUu _ ra rb => [ra, rb]
  | .mulhSu _ ra rb => [ra, rb]
  | .div _ ra rb => [ra, rb]
  | .divu _ ra rb => [ra, rb]
  | .rem _ ra rb => [ra, rb]
  | .remu _ ra rb => [ra, rb]
  | .and _ ra rb => [ra, rb]
  | .or _ ra rb => [ra, rb]
  | .xor _ ra rb => [ra, rb]
  | .andn _ ra rb => [ra, rb]
  | .sll _ ra rb => [ra, rb]
  | .srl _ ra rb => [ra, rb]
  | .sra _ ra rb => [ra, rb]
  | .rol _ ra rb => [ra, rb]
  | .ror _ ra rb => [ra, rb]
  | .slt _ ra rb => [ra, rb]
  | .sltu _ ra rb => [ra, rb]
  | .min _ ra rb => [ra, rb]
  | .max _ ra rb => [ra, rb]
  | .minu _ ra rb => [ra, rb]
  | .maxu _ ra rb => [ra, rb]
  | .clz _ ra => [ra]
  | .ctz _ ra => [ra]
  | .popc _ ra => [ra]
  | .bswap _ ra => [ra]
  | .sext _ ra _ => [ra]
  | .zext _ ra _ => [ra]
  | .addi _ ra _ => [ra]
  | .andi _ ra _ => [ra]
  | .ori _ ra _ => [ra]
  | .xori _ ra _ => [ra]
  | .slli _ ra _ => [ra]
  | .srli _ ra _ => [ra]
  | .srai _ ra _ => [ra]
  | .slti _ ra _ => [ra]
  | .sltiu _ ra _ => [ra]
  | .bfx _ ra _ _ => [ra]
  | .bfi _ ra _ _ => [ra]
  | .cmp _ ra rb _ => [ra, rb]
  | .cmpi _ ra _ _ => [ra]
  | .sel _ ra rb _ _ => [ra, rb]
  | .addsh _ ra rb _ => [ra, rb]
  | .fcvti _ _ toF _ g _ => if toF.toNat == 1 then [g] else []
  | .fmv _ toF g _ => if toF.toNat == 1 then [g] else []
  | .vmovx g _ _ _ fn => if fn.toNat < 2 then [] else [g]
  | .mmaD a => [a.xa, a.xb, a.xd]
  | .mmaS a => [a.xa, a.xb, a.xd]
  | .mmaH a => [a.xa, a.xb, a.xd]
  | .mmaBf a => [a.xa, a.xb, a.xd]
  | .mmaE4 a => [a.xa, a.xb, a.xd]
  | .mmaE4E5 a => [a.xa, a.xb, a.xd]
  | .mmaE5E4 a => [a.xa, a.xb, a.xd]
  | .mmaE5 a => [a.xa, a.xb, a.xd]
  | .mmaF4 a => [a.xa, a.xb, a.xd]
  | .mmaE4F4 a => [a.xa, a.xb, a.xd]
  | .mmaI8 a => [a.xa, a.xb, a.xd]
  | _ => []

/-- The predicate a C-word acts under (R63); p0 where it has none. -/
def wordPred (i : Instr) : PField :=
  match i with
  | .ldb m => m.p
  | .ldbu m => m.p
  | .ldh m => m.p
  | .ldhu m => m.p
  | .ldw m => m.p
  | .ldwu m => m.p
  | .ldd m => m.p
  | .stb m => m.p
  | .sth m => m.p
  | .stw m => m.p
  | .std m => m.p
  | .stn m => m.p
  | .fldS m => m.p
  | .fldD m => m.p
  | .fstS m => m.p
  | .fstD m => m.p
  | .vld m => m.p
  | .vst m => m.p
  | _ => 0

/-- The scalar sources a C-word reads: none while its predicate is false. -/
def cReads (s : State) (i : Instr) : List XField := if getP (curSlot s) (wordPred i).toNat then cSources i else []

/-- Whether every queue that both words of a bundle read holds enough elements as the bundle finds it (R69). -/
def popsReady (s : State) (c a : Option Instr) : Bool :=
  sourcesReady s ((match c with
    | some i => cReads s i
    | none => []) ++ (match a with
    | some i => aSources i
    | none => []))

/-- The destination of a word, for the rule that both words of a pair may not name one register (R60). -/
def wordDst (i : Instr) : RegId :=
  let x := fun (f : XField) => if isQ f || f.toNat == 0 then RegId.none else .x f.toNat
  let p := fun (f : PField) => if f.toNat == 0 then RegId.none else .p f.toNat
  match i with
  | .ldb m => x m.rd
  | .ldbu m => x m.rd
  | .ldh m => x m.rd
  | .ldhu m => x m.rd
  | .ldw m => x m.rd
  | .ldwu m => x m.rd
  | .ldd m => x m.rd
  | .fldS m => .f m.fd.toNat
  | .fldD m => .f m.fd.toNat
  | .vld m => .v m.fd.toNat
  | .ldx rd _ _ _ _ _ => x rd
  | .vlds vd _ _ _ _ => .v vd.toNat
  | .vgath vd _ _ _ _ => .v vd.toNat
  | .amo rd _ _ _ => x rd
  | .amoAq rd _ _ _ => x rd
  | .amoRl rd _ _ _ => x rd
  | .amoAr rd _ _ _ => x rd
  | .bl _ => .x 1
  | .jr rd _ => x rd
  | .cpy rd _ => x rd
  | .cpy2 rd _ => x rd
  | .bind rd _ _ => x rd
  | .unbind rd _ => x rd
  | .acqX rd _ _ => x rd
  | .acqS rd _ _ => x rd
  | .acqXi rd _ _ => x rd
  | .acqSi rd _ _ => x rd
  | .rel rd _ => x rd
  | .relW rd _ => x rd
  | .gflush rd _ => x rd
  | .gstat rd _ => x rd
  | .rowstat rd _ => x rd
  | .barinit rd _ _ => x rd
  | .bararr rd _ _ => x rd
  | .barwait rd _ _ => x rd
  | .bararw rd _ _ => x rd
  | .loopinit rd _ _ => x rd
  | .getchunk rd _ => x rd
  | .spawn rd _ _ => x rd
  | .join rd _ => x rd
  | .tagpend rd => x rd
  | .tagclr rd _ => x rd
  | .tagtest rd _ => x rd
  | .nport rd _ => x rd
  | .npay rd _ => x rd
  | .nnew rd _ _ => x rd
  | .gangform rd _ _ => x rd
  | .gangwait rd => x rd
  | .disband rd => x rd
  | .pairon rd _ => x rd
  | .pairoff rd => x rd
  | .srrd rd _ => x rd
  | .tctxrd rd _ _ => x rd
  | .tctxwr rd _ _ => x rd
  | .tresume rd _ _ => x rd
  | .tkill rd _ => x rd
  | .tpreempt rd _ _ => x rd
  | .add rd _ _ => x rd
  | .sub rd _ _ => x rd
  | .mul rd _ _ => x rd
  | .mulhSs rd _ _ => x rd
  | .mulhUu rd _ _ => x rd
  | .mulhSu rd _ _ => x rd
  | .div rd _ _ => x rd
  | .divu rd _ _ => x rd
  | .rem rd _ _ => x rd
  | .remu rd _ _ => x rd
  | .and rd _ _ => x rd
  | .or rd _ _ => x rd
  | .xor rd _ _ => x rd
  | .andn rd _ _ => x rd
  | .sll rd _ _ => x rd
  | .srl rd _ _ => x rd
  | .sra rd _ _ => x rd
  | .rol rd _ _ => x rd
  | .ror rd _ _ => x rd
  | .slt rd _ _ => x rd
  | .sltu rd _ _ => x rd
  | .min rd _ _ => x rd
  | .max rd _ _ => x rd
  | .minu rd _ _ => x rd
  | .maxu rd _ _ => x rd
  | .clz rd _ => x rd
  | .ctz rd _ => x rd
  | .popc rd _ => x rd
  | .bswap rd _ => x rd
  | .sext rd _ _ => x rd
  | .zext rd _ _ => x rd
  | .addi rd _ _ => x rd
  | .andi rd _ _ => x rd
  | .ori rd _ _ => x rd
  | .xori rd _ _ => x rd
  | .slli rd _ _ => x rd
  | .srli rd _ _ => x rd
  | .srai rd _ _ => x rd
  | .slti rd _ _ => x rd
  | .sltiu rd _ _ => x rd
  | .movi rd _ => x rd
  | .movhi rd _ => x rd
  | .bfx rd _ _ _ => x rd
  | .bfi rd _ _ _ => x rd
  | .cmp pd _ _ _ => p pd
  | .cmpi pd _ _ _ => p pd
  | .sel rd _ _ _ _ => x rd
  | .plog pd _ _ _ => p pd
  | .addsh rd _ _ _ => x rd
  | .fadd _ _ fd _ _ => .f fd.toNat
  | .fsub _ _ fd _ _ => .f fd.toNat
  | .fmul _ _ fd _ _ => .f fd.toNat
  | .fdiv _ _ fd _ _ => .f fd.toNat
  | .fsqrt _ _ fd _ => .f fd.toNat
  | .fma _ _ fd _ _ _ => .f fd.toNat
  | .fms _ _ fd _ _ _ => .f fd.toNat
  | .fnma _ _ fd _ _ _ => .f fd.toNat
  | .fnms _ _ fd _ _ _ => .f fd.toNat
  | .fminmax _ _ fd _ _ => .f fd.toNat
  | .fsgn _ _ fd _ _ => .f fd.toNat
  | .fcmp _ _ pd _ _ => p pd
  | .fclass _ rd _ => x rd
  | .fcvt _ _ _ fd _ => .f fd.toNat
  | .fcvti _ _ toF _ g h => if toF.toNat == 1 then .f h.toNat else x g
  | .fmv _ toF g h => if toF.toNat == 1 then .f h.toNat else x g
  | .vint a => .v a.vd.toNat
  | .vfp a => .v a.vd.toNat
  | .vfma a => .v a.vd.toNat
  | .vcmp a => .v a.vd.toNat
  | .vfcmp a => .v a.vd.toNat
  | .vsel a => .v a.vd.toNat
  | .vred a => .v a.vd.toNat
  | .vdot a => .v a.vd.toNat
  | .vcvt a => .v a.vd.toNat
  | .vperm a => .v a.vd.toNat
  | .vslide a => .v a.vd.toNat
  | .vbcast a => .v a.vd.toNat
  | .vmovx g v _ _ fn => if fn.toNat < 2 then x g else .v v.toNat
  | .vmask a => .v a.vd.toNat
  | .vscale a => .v a.vd.toNat
  | .viota a => .v a.vd.toNat
  | .vxch a => .v a.vd.toNat
  | _ => .none

/-- Both words of a pair name one register as destination, x0 and p0 apart (R60). -/
def pairClash (c a : Instr) : Bool := wordDst c != .none && wordDst c == wordDst a

end Sys2Proof.Machine
end

