-- ==== Sys2Proof/Machine/Guards.lean ====
section
/-! DEFINITION. Guards (spec 05 R111-R133, R418): the guard object, the guard instructions, and the messages between the
Capo and the cores. -/

namespace Sys2Proof.Machine

/-! ## The guard object (R111) -/

/-- A guard object in die DRAM: its physical address and the key of its leaf. -/
structure GRef where
  pa : Nat
  key : Nat
deriving DecidableEq, Repr

def gWord (s : State) (g : GRef) (w : Nat) : Nat := leNat (physRead s (g.pa + 8 * w) g.key 8)

def gField (s : State) (g : GRef) (w hi lo : Nat) : Nat := bits (gWord s g w) hi lo

def gPut (s : State) (g : GRef) (w hi lo v : Nat) : State :=
  physWrite s (g.pa + 8 * w) g.key (natLe 8 (putBits (gWord s g w) hi lo v))

def gMode (s : State) (g : GRef) : Nat := gField s g 0 63 62

def gBound (s : State) (g : GRef) : Bool := gField s g 0 60 60 == 1

def gPoison (s : State) (g : GRef) : Bool := gField s g 0 59 59 == 1

def gDirty (s : State) (g : GRef) : Bool := gField s g 0 58 58 == 1

def gProxy (s : State) (g : GRef) : Bool := gField s g 0 57 57 == 1

def gV (s : State) (g : GRef) : Nat := gField s g 0 31 0

def gSize (s : State) (g : GRef) : Nat := 2 ^ (gField s g 0 56 53 + 8)

def gNsb (s : State) (g : GRef) : Nat := gField s g 2 15 0

def gBase (s : State) (g : GRef) : Nat := gField s g 1 55 0

def gStamps (s : State) (g : GRef) : Nat := gField s g 3 55 0

def gOvfl (s : State) (g : GRef) : Nat := gField s g 6 55 0

/-- A non-zero reserved field of the object (R6). -/
def gReserved (s : State) (g : GRef) : Bool :=
  gField s g 0 52 48 != 0 || gField s g 2 42 32 != 0 || gField s g 3 63 56 != 0 || gField s g 6 63 56 != 0 ||
    gField s g 7 63 8 != 0

/-- The guard object of a region's guard VA: its place and the key it is stored under. -/
def gRefOf (s : State) (rid pa : Nat) (va : Word) : GRef :=
  match vaPhys s rid va.toNat with
  | some (p, key) => if p == pa then ⟨pa, key⟩ else ⟨pa, 0⟩
  | none => ⟨pa, (tget s.capos pa CapoGuard.empty).key⟩

def nextV (v : Nat) : Nat := if v == 0xFFFFFFFF then 1 else v + 1

/-- The guard result word (R113). -/
def guardWord (status count v : Nat) : Word :=
  w64 (2 ^ 63 + status % 256 * 2 ^ 48 + count % 2 ^ 16 * 2 ^ 32 + v % 2 ^ 32)

/-- 32-bit words of bytes. -/
def halves : Nat → List Byte → List Nat
  | 0, _ => []
  | n + 1, bs => leNat (bs.take 4) :: halves n (bs.drop 4)

/-! ## The Capo -/

def getCapo (s : State) (pa : Nat) : CapoGuard := tget s.capos pa CapoGuard.empty

/-- The parts of n bytes at va in the mapping of the region whose task bound a guard (R418), for a requester of a die. -/
def boundLocs (s : State) (c : CapoGuard) (die va n : Nat) (write : Bool) : Option (List LocPart) :=
  vaLocs s c.region c.root die va n write

/-- The writes of at most 64 bytes each, as a hold queue keeps them (04 R103), of data laid over parts: who makes them, and
what each writes. -/
def partWrites (who : Who) : List LocPart → List Byte → List WritePkt
  | [], _ => []
  | p :: r, d =>
    ((List.range ((p.len + 63) / 64)).map fun u =>
      ⟨who, .store, locPlus p.loc (64 * u), p.acc, w64 (p.va + 64 * u), ((d.take p.len).drop (64 * u)).take 64⟩) ++
      partWrites who r (d.drop p.len)

/-- The stamps of a guard's sub-blocks (R112), in the mapping of the binding region; where it no longer translates, every
sub-block counts as of the current version, and `stampsWrite` writes nothing (DESIGN CHOICE, log 19). -/
def stampsRead (s : State) (g : GRef) : List Nat :=
  let c := getCapo s g.pa
  match boundLocs s c (paDie g.pa) (gStamps s g) (4 * gNsb s g) false with
  | some ls => halves (gNsb s g) (partsRead s c.region ls)
  | none => List.replicate (gNsb s g) (gV s g)

def stampsWrite (s : State) (g : GRef) (l : List Nat) : State :=
  let c := getCapo s g.pa
  match boundLocs s c (paDie g.pa) (gStamps s g) (4 * l.length) true with
  | some ls => (partWrites (noWho 0) ls (l.flatMap (natLe 4))).foldl (fun s w => locApply s c.region w) s
  | none => s

/-- The lines the host may cache of a guard's object, stamp table and overflow ring: an operation on the guard waits for
them (04 R107). -/
def capoLines (s : State) (g : GRef) : List Nat :=
  if !anySnoop s then []
  else
    let c := getCapo s g.pa
    snooped s g.pa 64 ++ vaLines s c.region c.root (gStamps s g) (4 * gNsb s g) ++
      (if gOvfl s g == 0 then [] else vaLines s c.region c.root (gOvfl s g) 1024)

def setCapo (s : State) (pa : Nat) (c : CapoGuard) : State := { s with capos := tset s.capos pa c }

/-- The Capo that homes a guard (R111). -/
def capoPlace (pa : Nat) : Place := .ctrl (paDie pa) (paCtl pa)

def capoSrc (pa : Nat) : Nat := ctlSrc (paDie pa) (paCtl pa)

def ownChipNo (s : State) (c : Nat) : Bool := c == 0xFF || c == s.chipId

/-- A guard message leaves for another chip, as the step it is there (R131). -/
def guardOut (s : State) (chip : Nat) (e : Event) : State := { s with outbox := s.outbox ++ [.chipGuard chip e] }

/-- A message of a Capo to a core of this or another chip. -/
def capoSend (s : State) (pa core chip : Nat) (e : Event) : State :=
  if ownChipNo s chip then sendTo s (capoSrc pa) (.core core) e else guardOut s chip e

/-- A waiter entry (R111). -/
def waiterWord (a : AcqPkt) : Nat :=
  2 ^ 31 + (if a.excl then 2 ^ 30 else 0) + (if a.inPlace then 2 ^ 29 else 0) + a.chip % 256 * 2 ^ 21
    + a.who.core % 4096 * 2 ^ 9 + a.hix % 16 * 2 ^ 5

/-- The queue as the object and its overflow ring show it: QLEN, the four oldest requests, the rest in the ring from
OVHEAD on. -/
def putQueue (s : State) (g : GRef) (c : CapoGuard) (q : List AcqPkt) (moved : Nat) : State :=
  let head := (gField s g 7 7 0 + moved) % 256
  let entry := fun i => match q[i]? with
    | some a => waiterWord a
    | none => 0
  let s1 := gPut s g 2 31 16 q.length
  let s2 := gPut s1 g 4 63 0 (entry 0 + entry 1 * 2 ^ 32)
  let s3 := gPut s2 g 5 63 0 (entry 2 + entry 3 * 2 ^ 32)
  let s4 := gPut s3 g 7 7 0 head
  let s5 := (List.range (q.length - 4)).foldl (fun s i =>
    match boundLocs s c (paDie g.pa) (gOvfl s g + 4 * ((head + i) % 256)) 4 true with
    | some ls => (partWrites (noWho 0) ls (natLe 4 (entry (4 + i)))).foldl (fun s w => locApply s c.region w) s
    | none => s) s4
  setCapo s5 g.pa { c with queue := q }

/-- The head group of a queue (R121). -/
def headGroup (q : List AcqPkt) : List AcqPkt :=
  match q with
  | [] => []
  | a :: _ => if a.excl then [a] else q.takeWhile fun b => !b.excl

/-- A message about a guard for one grantee. -/
def guardPkt (a : AcqPkt) (v n : Nat) : GuardPkt :=
  ⟨a.guardPa, a.guardVa, a.region, a.who.core, a.chip, a.hix, v, n, a.window, a.vlast⟩

/-- Grants a group (R121, R132): MODE HANDOVER, V, N and the last exclusive holder, the poison of the group, and a GRANT
to every member. -/
def grantGroup (s : State) (g : GRef) (c : CapoGuard) (grp : List AcqPkt) : State :=
  let excl := grp.any fun a => a.excl
  let vp := gV s g
  let poison := gPoison s g
  let v := if excl || poison then nextV vp else vp
  let s1 := gPut (gPut s g 0 63 62 3) g 0 61 61 (if excl then 1 else 0)
  let s2 := gPut s1 g 0 31 0 v
  let s3 := if excl then s2 else gPut s2 g 0 47 32 (gField s2 g 0 47 32 + grp.length)
  let s4 := match grp with
    | a :: _ =>
      if excl then
        gPut (gPut (gPut s3 g 2 63 52 a.who.core) g 2 51 44 (a.chip % 256)) g 2 43 43 1
      else s3
    | [] => s3
  let s5 := if poison then
      stampsWrite (gPut s4 g 0 59 59 0) g (List.replicate (gNsb s4 g) v)
    else s4
  let mem := grp.map fun a => (⟨a, false, none, 0, 0, false⟩ : Member)
  let c1 := { c with
    group := mem, vp := vp, wasDirty := gDirty s g, lxCore := gField s g 2 63 52, lxChip := gField s g 2 51 44
    poisoned := poison }
  let s6 := setCapo s5 g.pa c1
  grp.foldl (fun s a =>
    capoSend s g.pa a.who.core a.chip (.grant (guardPkt a v 0) 0 poison a)) s6

/-- Grants the head group of the queue, if there is one. -/
def grantHead (s : State) (g : GRef) : State :=
  let c := getCapo s g.pa
  let grp := headGroup c.queue
  if grp.isEmpty then s
  else
    let rest := c.queue.drop grp.length
    let s1 := putQueue s g c rest ((c.queue.length - 4) - (rest.length - 4))
    grantGroup s1 g (getCapo s1 g.pa) grp

/-- HANDOVER_FINISHED (R121, R123): every member has finished; the pin ends and the next group may be granted. -/
def finishHandover (s : State) (g : GRef) : State :=
  let c := getCapo s g.pa
  if gMode s g == 3 && c.group.all fun m => m.finished then
    let s1 := if c.wasDirty then
        let p : GuardPkt := match c.group with
          | m :: _ => { guardPkt m.acq 0 0 with core := c.lxCore, chip := c.lxChip }
          | [] => ⟨g.pa, 0, c.region, c.lxCore, c.lxChip, 0, 0, 0, 0, 0⟩
        capoSend (gPut s g 0 58 58 0) g.pa c.lxCore c.lxChip (.unpin p)
      else s
    let n := gField s1 g 0 47 32
    let mode := if gField s1 g 0 61 61 == 1 then 2 else if 0 < n then 1 else 0
    let s2 := setCapo (gPut s1 g 0 63 62 mode) g.pa { c with
      group := [], wasDirty := false, pins := if c.wasDirty then [] else c.pins }
    let headS := match c.queue with
      | a :: _ => !a.excl
      | [] => false
    if mode == 0 || (mode == 1 && headS) then grantHead s2 g else s2
  else s

/-- Changes one member of the group being granted. -/
def modMember (s : State) (pa core chip : Nat) (f : Member → Member) : State :=
  let c := getCapo s pa
  setCapo s pa { c with group := c.group.map fun m => if m.acq.who.core == core && m.acq.chip == chip then f m else m }

def findMember (c : CapoGuard) (core chip : Nat) : Option Member :=
  c.group.find? fun m => m.acq.who.core == core && m.acq.chip == chip && !m.finished

/-- A grantee has received everything (R121). -/
def memberFinished (s : State) (g : GRef) (core chip : Nat) : State :=
  finishHandover (modMember s g.pa core chip fun m => { m with finished := true }) g

/-! ## Sub-blocks (R122, R123, R418) -/

/-- A sub-block sent to a grantee's window: its 64-byte units arrive one by one (R124), and it leaves for another chip as
one. -/
def sendSub (s : State) (src : Nat) (a : AcqPkt) (i size : Nat) (data : List Byte) : State :=
  let w := fun (o n : Nat) => (⟨noWho a.who.core, .sub a.hix i, .sp a.who.core (a.window + i * size + o), none, a.guardVa,
    (data.drop o).take n⟩ : WritePkt)
  if ownChipNo s a.chip then
    (List.range (size / 64)).foldl (fun s u => sendTo s src (.core a.who.core) (.remoteWrite (w (64 * u) 64))) s
  else { s with outbox := s.outbox ++ [.chipSub a.chip (w 0 size)] }

/-- Sends home-resident sub-blocks of a grant; gives how many were sent and how many could not be (R418). Their reads count
on the die of a grantee of this chip (04 R100). -/
def sendHome (s : State) (g : GRef) (c : CapoGuard) (a : AcqPkt) : List Nat → Nat → Nat → State × Nat × Nat
  | [], sent, lost => (s, sent, lost)
  | i :: r, sent, lost =>
    let size := gSize s g
    let va := gBase s g + i * size
    match boundLocs s c (dieOf a.who.core) va size false with
    | none => sendHome s g c a r sent (lost + 1)
    | some ls =>
      let s1 := if ownChipNo s a.chip then partsCount s ls else s
      sendHome (sendSub s1 (capoSrc g.pa) a i size (partsRead s c.region ls)) g c a r (sent + 1) lost

/-- The lines the host may cache among the home bytes of sub-blocks (04 R107). -/
def subLines (s : State) (g : GRef) (l : List Nat) : List Nat :=
  if !anySnoop s then []
  else l.flatMap fun i => vaLines s (getCapo s g.pa).region (getCapo s g.pa).root (gBase s g + i * gSize s g) (gSize s g)

/-- Whether a hold with VLAST a receives a sub-block of stamp t at version v (R122). -/
def wantsSub (a t v : Nat) : Bool := decide (v < a) || (decide (a < t) && decide (t ≤ v))

/-- DONE to a grantee: its status and the sub-blocks to expect. A grantee on another chip has then all that this chip can
see of it. -/
def sendDone (s : State) (g : GRef) (m : Member) (status : Nat) : State :=
  let p := guardPkt m.acq (gV s g) m.sent
  let s1 := modMember s g.pa m.acq.who.core m.acq.chip fun x => { x with due := none, sent := m.sent }
  let s2 := capoSend s1 g.pa m.acq.who.core m.acq.chip (.done p status)
  if ownChipNo s m.acq.chip then s2 else memberFinished s2 g m.acq.who.core m.acq.chip

/-- The status a grant completes with. -/
def grantStatus (c : CapoGuard) (lost : Nat) : Nat := if c.poisoned then 5 else if 0 < lost then 3 else 0

/-! ## Writing home (R127, R128, R418) -/

/-- Items of writes home are numbered from here on, by hold index. -/
def homeItem : Nat := 2 ^ 33

/-- Who writes a hold's sub-blocks home, for the region whose task bound the guard. -/
def homeWho (core rid hix : Nat) : Who := ⟨core, 9, w64 (rid % 2 ^ 16 * 2 ^ 48), homeItem + hix⟩

/-- Changes the hold with an index. -/
def modHix (s : State) (core hix : Nat) (f : Hold → Hold) : State :=
  modCore s core fun k => { k with holds := k.holds.map fun h => if h.hix == hix then f h else h }

/-- Writes to memory leave a core like any write (04 R102, R103, R107). -/
def sendWrites (s : State) (ws : List WritePkt) : State :=
  ws.foldl (fun s w => sendTo s (taskSrc w.who.core w.who.gtid) (locPlace w.loc) (.remoteWrite w)) s

/-- One sub-block leaves for its home (R127, R128), or for the home chip; gives whether it was lost (R418). -/
def writeHome (s : State) (g : GRef) (core : Nat) (h : Hold) (i : Nat) : State × Bool :=
  let size := gSize s g
  let data := spRead s core (h.window + i * size) size
  let va := gBase s g + i * size
  let c := getCapo s g.pa
  if gProxy s g then
    (guardOut s (gField s g 1 63 56)
      (.remoteWrite ⟨⟨core, 9, h.guardVa, h.region⟩, .sub h.hix i, .phys 0 0, none, w64 va, data⟩), false)
  else match boundLocs s c (dieOf core) va size true with
    | none => (s, true)
    | some ls =>
      let ws := partWrites (homeWho core c.region h.hix) ls data
      (sendWrites (modHix s core h.hix fun h => { h with homeLeft := h.homeLeft + ws.length }) ws, false)

/-- Sub-blocks written home; gives how many were lost. -/
def writeHomeAll (s : State) (g : GRef) (core : Nat) (h : Hold) : List Nat → Nat → State × Nat
  | [], lost => (s, lost)
  | i :: r, lost =>
    let (s1, bad) := writeHome s g core h i
    writeHomeAll s1 g core h r (if bad then lost + 1 else lost)

/-! ## Holds of a core (R118, R119) -/

/-- Whether a tracked guard is the one a region names by a VA: a region that shares the table set of its own, or one whose
VA names the same object (R119, R120). -/
def sameGuard (s : State) (rid : Nat) (va : Word) (h : Hold) : Bool :=
  (h.guardVa == va && setOwnerOf s h.region == setOwnerOf s rid) ||
    (match vaPhys s rid va.toNat with
     | some (pa, _) => h.guardPa == pa
     | none => false)

def findHold (s : State) (core rid : Nat) (va : Word) : Option Hold := (getCore s core).holds.find? (sameGuard s rid va)

def modHold (s : State) (core rid : Nat) (va : Word) (f : Hold → Hold) : State :=
  modCore s core fun k => { k with holds := k.holds.map fun h => if sameGuard s rid va h then f h else h }

def dropHold (s : State) (core rid : Nat) (va : Word) : State :=
  modCore s core fun k => { k with holds := k.holds.filter fun h => !sameGuard s rid va h }

/-- Whether the core tracks a guard (R120). -/
def tracksGuard (s : State) (core rid : Nat) (va : Word) : Bool := (getCore s core).holds.any (sameGuard s rid va)

/-- The flag word of a hold record. -/
def recFlags (hix : Nat) (pinned inpl x held : Bool) : Word :=
  w64 (hix % 16 * 2 ^ 12 + (if pinned then 8 else 0) + (if inpl then 4 else 0) + (if x then 2 else 0)
    + (if held then 1 else 0))

/-- Hardware's write into a hold record (R118). -/
def recWrite (s : State) (core : Nat) (h : Hold) (off : Nat) (d : List Byte) : State :=
  spWrite s core (h.recAddr + off) (localIndex s (clusterOf core) h.region) d

/-- ACQ_TOKEN_COMPLETE (R124): with DONE and every SUB in, the hold is granted, its record and token are written. -/
def tryToken (s : State) (core rid : Nat) (va : Word) : State :=
  match findHold s core rid va with
  | none => s
  | some h =>
    match h.expect with
    | none => s
    | some n =>
      if h.state == .pending && decide (n * (h.sbSize / 64) ≤ h.got) then
        let count := if h.sbSize == 0 then 0 else h.got * 64 / h.sbSize
        let v := if h.status == 0 || h.status == 5 then h.v else 0
        let s1 := recWrite s core h 12 (natLe 4 (if h.status == 0 then h.v else 0))
        let s2 := recWrite s1 core h 24 (natLe 8 (recFlags h.hix false h.inPlace h.excl true).toNat)
        let s3 := modHold s2 core rid va fun h => { h with state := .held, dirty := [] }
        let s4 := deliverReg s3 h.token (.x h.tokenReg) (BitVec.ofNat 512 (guardWord h.status count v).toNat)
        let g := gRefOf s4 h.region h.guardPa h.guardVa
        if gProxy s4 g then s4 else memberFinished s4 g core s4.chipId
      else s

/-- Units of a delivered sub-block reach its window: its dirty bit is cleared, and the token may complete (R122, R124). -/
def subArrived (s : State) (core hix i units : Nat) : State :=
  match (getCore s core).holds.find? fun h => h.hix == hix && h.state == .pending with
  | none => s
  | some h =>
    tryToken (modHold s core h.region h.guardVa fun h => { h with got := h.got + units, dirty := delNat h.dirty i }) core
      h.region h.guardVa

/-! ## What the instructions check and ask (R114-R129) -/

/-- GUARDED entries of a region for a guard (R116, R120). -/
def guardRanges (s : State) (core rid : Nat) (va : Word) : List RangeEntry :=
  (rangesOf s (clusterOf core) rid).filter fun e => e.ty == 1 && e.param == va

/-- The die-DRAM place of a guard VA, translated for a core's region; `w` asks for a writable leaf. -/
def guardPlace (s : State) (core rid : Nat) (va : Word) (w : Bool) : State × Option Nat :=
  if 2 ^ 56 ≤ va.toNat then (s, none)
  else match translate s (.core core) rid va.toNat with
    | .error _ => (s, none)
    | .ok (s1, lf) =>
      let pa := leafPa lf va.toNat
      if (w && !pteW lf.word) || !inDram s pa || inReserved pa then (s1, none) else (s1, some pa)

/-- Parks the issuing slot for an answer into x[rd]; the answer carries the number of the park. -/
def parkAnswer (rd : XField) (s : State) : State × Who :=
  let who := curWho s
  (modCur s fun t => { t with park := .answer rd.toNat who.item, nextItem := t.nextItem + 1 }, who)

/-- What GUARD_ANSWER does beyond writing its word, by the `n` of its message. -/
def ansPlain : Nat := 0

def ansRelease : Nat := 1

def ansFlush : Nat := 2

def ansToken (reg : Nat) : Nat := 1000 + reg

/-- An answer the core itself gives. -/
def answerNow (s : State) (who : Who) (g : GuardPkt) (status : Nat) : State :=
  later s (.guardAnswer who g (guardWord status 0 0))

/-- A guard packet of the issuing task. -/
def ownPkt (s : State) (pa : Nat) (va : Word) : GuardPkt :=
  ⟨pa, va, (curSlot s).region, s.cur.core, s.chipId, 0, 0, 0, 0, 0⟩

/-- Operand checks at issue (R114). -/
def guardOperands (rd : XField) (srcs : List XField) : Op Unit := operands srcs (.x rd) (rd.toNat == 0)

def alignedGuard (a : Word) : Op Unit := trapIf (a.toNat % 64 != 0) (tMisalign a)

/-- A descriptor or hold record: 32 aligned bytes below the mailbox (R114). -/
def localRecord (a : Word) : Op Unit := do
  trapIf (a.toNat % 32 != 0) (tMisalign a)
  trapIf (decide (Config.mailboxBase < a.toNat + 32)) (tRange 0 a)

/-- An operation sent to a guard's Capo; the issuing slot waits. -/
def askCapo (rd : XField) (pa : Nat) (va : Word) (f : GuardPkt → GuardPkt) (op : CapoOp) (s : State) : State :=
  let g := f (ownPkt s pa va)
  let (s1, who) := parkAnswer rd s
  sendTo s1 (taskSrc s.cur.core (curSlot s).gtid) (capoPlace pa) (.capoOperation who g op)

/-- Parks and answers at once. -/
def refuseGuard (rd : XField) (va : Word) (status : Nat) (s : State) : State :=
  let (s1, who) := parkAnswer rd s
  answerNow s1 who (ownPkt s 0 va) status

/-! ## BIND and UNBIND (R115-R117) -/

/-- Whether n bytes at va translate to contiguous writable die DRAM (R116). -/
def contiguousDram (s : State) (rid va n : Nat) : Bool :=
  match getRegion s rid with
  | none => false
  | some r =>
    let parts := pageParts (n / 4096 + 2) va n
    let pas := parts.map fun p =>
      match walkFrom s rid p.1 3 r.ptroot with
      | .error _ => none
      | .ok lf =>
        let pa := leafPa lf p.1
        if pteW lf.word && inDram s pa && !inReserved pa then some pa else none
    match pas with
    | some p0 :: _ => (parts.zip pas).all fun e => e.2 == some (p0 + (e.1.1 - va))
    | _ => false

/-- Whether n bytes at va meet a valid range-table entry. -/
def inRanges (s : State) (core rid va n : Nat) : Bool :=
  (rangesOf s (clusterOf core) rid).any fun e => decide (e.base < va + n) && decide (va < e.base + e.len)

/-- A structure of the guard that BIND refuses (R116). -/
def bindStructBad (s : State) (core rid va n : Nat) : Bool :=
  va != 0 && (!contiguousDram s rid va n || inRanges s core rid va n)

/-- Reserve() and Unreserve() (R116): the region's NBOUND. -/
def reserveGuard (s : State) (rid : Nat) : Option State :=
  match getRegion s rid with
  | none => none
  | some r =>
    let n := rcbField s r 28 15 0
    if r.guardq ≤ n then none else some (rcbPut s r 28 15 0 (n + 1))

def unreserveGuard (s : State) (rid : Nat) : State :=
  match getRegion s rid with
  | none => s
  | some r => rcbPut s r 28 15 0 (rcbField s r 28 15 0 - 1)

/-- BIND's checks at the core, and its request (R116). -/
def bindCheck (rd : XField) (va d : Word) (s : State) : State :=
  let core := s.cur.core
  let rid := (curSlot s).region
  let w := fun i => leNat (spRead s core (d.toNat + 8 * i) 8)
  let base := bits (w 0) 55 0
  let hchip := bits (w 1) 39 32
  let sblog := bits (w 1) 19 16
  let nsb := bits (w 1) 15 0
  let bad := bits (w 0) 63 56 != 0 || bits (w 1) 63 40 != 0 || bits (w 1) 31 20 != 0 || bits (w 2) 63 56 != 0 ||
    bits (w 3) 63 56 != 0 || decide (8 < sblog) || nsb == 0 || decide (32768 < nsb) || base % (256 * 2 ^ sblog) != 0
  if bad then refuseGuard rd va 11 s
  else
    let size := nsb * 2 ^ (sblog + 8)
    let covered := (guardRanges s core rid va).any fun e => decide (e.base ≤ base) && decide (base + size ≤ e.base + e.len)
    match guardPlace s core rid va true with
    | (s1, none) => refuseGuard rd va 3 s1
    | (s1, some pa) =>
      if !covered then refuseGuard rd va 3 s1
      else match reserveGuard s1 rid with
        | none => refuseGuard rd va 8 s1
        | some s2 =>
          let op : CapoOp := .bind base (w 2) (w 3) nsb sblog
          if !ownChipNo s hchip then askCapo rd pa va (fun g => { g with chip := hchip }) op s2
          else if bindStructBad s2 core rid (w 2) (4 * nsb) || bindStructBad s2 core rid (w 3) 1024 then
            refuseGuard rd va 3 (unreserveGuard s2 rid)
          else askCapo rd pa va id op s2

def bindOp (rd ra rb : XField) : Op Unit := do
  guardOperands rd [ra, rb]
  let va ← rdX ra
  let d ← rdX rb
  alignedGuard va
  localRecord d
  awaitWalk va
  change (bindCheck rd va d)

/-- BIND (R116). -/
def execBind (rd ra rb : XField) (s : State) : Host.Outcome State Fault Refusal := runOp (bindOp rd ra rb) s

def unbindOp (rd ra : XField) : Op Unit := do
  guardOperands rd [ra]
  let va ← rdX ra
  alignedGuard va
  awaitWalk va
  change fun s =>
    let rid := (curSlot s).region
    match guardPlace s s.cur.core rid va true with
    | (s1, none) => refuseGuard rd va 3 s1
    | (s1, some pa) =>
      if (guardRanges s s.cur.core rid va).isEmpty then refuseGuard rd va 3 s1 else askCapo rd pa va id .unbind s1

/-- UNBIND (R117). -/
def execUnbind (rd ra : XField) (s : State) : Host.Outcome State Fault Refusal := runOp (unbindOp rd ra) s

/-! ## ACQ (R118-R120) -/

/-- A delivered window that RANGE refuses (R120). -/
def windowBad (s : State) (core window wlen : Nat) : Bool :=
  window % 64 != 0 || decide (Config.mailboxBase < window + wlen) ||
    ((getCore s core).holds.any fun h =>
      !h.inPlace && decide (h.window < window + wlen) && decide (window < h.window + h.wlen))

/-- The lowest hold index in use by no tracked guard. -/
def freeHix (k : Core) : Nat := ((List.range 16).find? fun i => !(k.holds.any fun h => h.hix == i)).getD 15

/-- The acquire of a guard that passed the core's checks (R120): it is tracked, its record names it, and the request
leaves. -/
def trackAcquire (s : State) (rd : XField) (va rec_ : Word) (x inpl : Bool) (pa window wlen vlast : Nat) : State :=
  let core := s.cur.core
  let rid := (curSlot s).region
  let hix := freeHix (getCore s core)
  let who := curWho s
  let h : Hold :=
    { guardVa := va, guardPa := pa, region := rid, state := .pending, excl := x, inPlace := inpl, hix := hix
      recAddr := rec_.toNat, window := window, wlen := wlen, vlast := vlast, sbSize := 0, nsb := 0, dirty := []
      token := who, tokenReg := rd.toNat, home := false, releasing := false, got := 0, expect := none, status := 0, v := 0
      flushing := false, homeLeft := 0, homeNext := [] }
  let s1 := modCore (modCur s fun t => { t with nextItem := t.nextItem + 1 }) core fun k => { k with holds := k.holds ++ [h] }
  let s2 := recWrite s1 core h 16 (natLe 8 va.toNat ++ natLe 8 (recFlags hix false inpl x false).toNat)
  sendTo s2 (taskSrc core who.gtid) (capoPlace pa)
    (.acqreq ⟨who, rid, pa, va, x, inpl, hix, window, wlen, vlast, s.chipId⟩)

/-- The core's checks of an acquire in the order of R120; a failure completes the token. R120 names no status for non-zero
reserved bits [63:19] of the record's first word: by R6 it is the format error FORMAT, reported with the checks of the
window (DEDUCED, log 19). -/
def acquireCheck (rd : XField) (va rec_ : Word) (x inpl : Bool) (s : State) : State :=
  let core := s.cur.core
  let rid := (curSlot s).region
  let k := getCore s core
  let rw := fun o n => leNat (spRead s core (rec_.toNat + o) n)
  let fail := fun (s : State) (st : Nat) =>
    answerNow s (curWho s) { ownPkt s 0 va with n := ansToken rd.toNat } st
  let s0 := modCur s fun t => setPending t (.x rd.toNat)
  if tracksGuard s core rid va then fail s0 9
  else if decide (16 ≤ k.holds.length) || (!inpl && decide (8 ≤ (k.holds.filter fun h => !h.inPlace).length)) then fail s0 8
  else
    let perm := (guardRanges s core rid va).any fun e => e.r && (e.w || !x)
    let winBad := if inpl then rw 0 8 != 0 else windowBad s core (rw 0 8) (rw 8 4)
    if decide (2 ^ 19 ≤ rw 0 8) then fail s0 11
    else match guardPlace s0 core rid va false with
    | (s1, none) => fail s1 3
    | (s1, some pa) =>
      if !perm || winBad then fail s1 3 else trackAcquire s1 rd va rec_ x inpl pa (rw 0 8) (rw 8 4) (rw 12 4)

def acqOp (rd ra rb : XField) (x inpl : Bool) : Op Unit := do
  let s ← look
  operands [ra, rb] (.x rd) (rd.toNat == 0 || (!inpl && !isCompute s.cur.core))
  let va ← rdX ra
  let r ← rdX rb
  alignedGuard va
  localRecord r
  awaitWalk va
  change (acquireCheck rd va r x inpl)

/-- ACQ.X: exclusive, delivered (R120). -/
def execAcqX (rd ra rb : XField) (s : State) : Host.Outcome State Fault Refusal := runOp (acqOp rd ra rb true false) s

/-- ACQ.S: shared, delivered (R120). -/
def execAcqS (rd ra rb : XField) (s : State) : Host.Outcome State Fault Refusal := runOp (acqOp rd ra rb false false) s

/-- ACQ.XI: exclusive, in place (R120, R130). -/
def execAcqXi (rd ra rb : XField) (s : State) : Host.Outcome State Fault Refusal := runOp (acqOp rd ra rb true true) s

/-- ACQ.SI: shared, in place (R120, R130). -/
def execAcqSi (rd ra rb : XField) (s : State) : Host.Outcome State Fault Refusal := runOp (acqOp rd ra rb false true) s

/-! ## REL, GFLUSH, GSTAT (R127-R129) -/

/-- The outstanding items of a task that write into a guard's region, by either name, or window (R127). -/
def drainItems (s : State) (core : Nat) (t : Slot) (h : Hold) (va : Word) : List Nat :=
  let rs := (guardRanges s core h.region h.guardVa ++ guardRanges s core t.region va).map fun e => (e.base, e.len)
  let own := 0x1000000 + inCluster core * 0x80000
  let spans := if h.inPlace then rs else (h.window, h.wlen) :: (own + h.window, h.wlen) :: rs
  (t.out.filter fun o =>
    (match o.kind with
     | .store | .stn | .red | .copy => true
     | .load | .amo | .msg | .node | .spawn => false) &&
    o.spans.any fun a => spans.any fun b => decide (a.1 < b.1 + b.2) && decide (b.1 < a.1 + a.2)).map fun o => o.id

/-- What a hold sends after its writes home leaves: a flush first releases the window of a guard of this chip (R128). -/
def sendNext (core hix : Nat) (s : State) (n : HomeNext) : State :=
  let s1 := match n.ev, (getCore s core).holds.find? fun h => h.hix == hix with
    | .capoOperation _ _ .flushed, some h =>
      if gProxy s (gRefOf s h.region h.guardPa h.guardVa) then s
      else
        let s2 := recWrite s core h 24 (natLe 8 (recFlags h.hix false h.inPlace h.excl false).toNat)
        modCore s2 core fun k => { k with holds := k.holds.filter fun h => h.hix != hix }
    | _, _ => s
  match n.dst with
  | .chip c => guardOut s1 c n.ev
  | _ => sendTo s1 n.src n.dst n.ev

/-- Sends what follows a hold's writes home: at once where none is outstanding. -/
def afterHome (s : State) (core hix src : Nat) (dst : Place) (e : Event) : State :=
  match (getCore s core).holds.find? fun h => h.hix == hix with
  | none => s
  | some h =>
    if h.homeLeft == 0 then sendNext core hix s ⟨src, dst, e⟩
    else modHix s core hix fun h => { h with homeNext := h.homeNext ++ [⟨src, dst, e⟩] }

/-- A write home is acknowledged. -/
def homeAck (s : State) (core hix : Nat) : State :=
  match (getCore s core).holds.find? fun h => h.hix == hix with
  | none => s
  | some h =>
    if h.homeLeft ≤ 1 then
      h.homeNext.foldl (sendNext core hix) (modHix s core hix fun h => { h with homeLeft := 0, homeNext := [] })
    else modHix s core hix fun h => { h with homeLeft := h.homeLeft - 1 }

/-- A release that another task's release of the same hold overtook: the core no longer holds the guard (log 19). -/
def releaseGone (s : State) (core slot rd id : Nat) (va : Word) : State :=
  let t := getSlot s core slot
  answerNow (modSlot s core slot fun t => { t with park := .answer rd id }) ⟨core, slot, t.gtid, id⟩
    ⟨0, va, t.region, core, s.chipId, 0, 0, 0, 0, 0⟩ 7

/-- The release leaves the core after its drain (R127). -/
def sendRelease (s : State) (core slot rd id : Nat) (va : Word) (w : Bool) : State :=
  let rid := (getSlot s core slot).region
  match findHold s core rid va with
  | none => releaseGone s core slot rd id va
  | some h =>
   if h.state != .held || h.releasing then releaseGone s core slot rd id va
   else
    let g := gRefOf s h.region h.guardPa h.guardVa
    let who : Who := ⟨core, slot, (getSlot s core slot).gtid, id⟩
    let pkt : GuardPkt := ⟨h.guardPa, h.guardVa, h.region, core, s.chipId, h.hix, h.v, 0, h.window, h.vlast⟩
    let send := fun (s : State) (p : GuardPkt) (k : RelKind) =>
      sendTo s (taskSrc core who.gtid) (capoPlace h.guardPa) (.guardRelease who p k)
    let s0 := modHold (modSlot (if h.inPlace then releaseRows s core h.region h.guardVa else s) core slot fun t =>
      { t with park := .answer rd id }) core rid va fun h => { h with releasing := true }
    if !h.excl then send s0 pkt .shared
    else if h.inPlace then send s0 pkt .all
    else if h.dirty.isEmpty then send s0 pkt .none
    else if w then
      let (s1, lost) := writeHomeAll s0 g core h h.dirty 0
      afterHome s1 core h.hix (taskSrc core who.gtid) (capoPlace h.guardPa)
        (.guardRelease who { pkt with n := lost } (.written h.dirty))
    else send (modHold s0 core rid va fun h => { h with state := .pinned, home := false }) pkt (.pinned h.dirty)

/-- Sends the release of a parked REL whose drain has ended. -/
def drainDone (s : State) (core slot : Nat) : State :=
  match (getSlot s core slot).park with
  | .releaseDrain rd id waits va w =>
    if waits.any fun n => (getSlot s core slot).out.any fun o => o.id == n then s
    else sendRelease s core slot rd id va w
  | _ => s

def relOp (rd ra : XField) (w : Bool) : Op Unit := do
  guardOperands rd [ra]
  let va ← rdX ra
  alignedGuard va
  change fun s =>
    match findHold s s.cur.core (curSlot s).region va with
    | none => refuseGuard rd va 7 s
    | some h =>
      match h.state with
      | .pending => refuseGuard rd va 9 s
      | .pinned => refuseGuard rd va 7 s
      | .held =>
       if h.releasing then refuseGuard rd va 7 s
       else
        let (s1, who) := parkAnswer rd s
        let s2 := modCur s1 fun t =>
          { t with park := .releaseDrain rd.toNat who.item (drainItems s s.cur.core (curSlot s) h va) va w }
        drainDone s2 s.cur.core s.cur.slot

/-- REL: lazy release (R127). -/
def execRel (rd ra : XField) (s : State) : Host.Outcome State Fault Refusal := runOp (relOp rd ra false) s

/-- REL.W: release with the dirty sub-blocks written home (R127). -/
def execRelW (rd ra : XField) (s : State) : Host.Outcome State Fault Refusal := runOp (relOp rd ra true) s

/-- A pinned window flushed: its sub-blocks go home, then the window is released and its Capo is told (R128); the window of
a guard homed elsewhere stays until its home has answered (R131). -/
def flushOne (who : Who) (core : Nat) (s : State) (h : Hold) : State :=
  let g := gRefOf s h.region h.guardPa h.guardVa
  let s0 := modHix s core h.hix fun h => { h with flushing := true }
  let (s1, lost) := if h.home then (s0, 0) else writeHomeAll s0 g core h h.dirty 0
  afterHome s1 core h.hix (taskSrc core who.gtid) (capoPlace h.guardPa)
    (.capoOperation who ⟨h.guardPa, h.guardVa, h.region, core, s.chipId, h.hix, h.v, lost, h.window, h.vlast⟩ .flushed)

def gflushOp (rd ra : XField) : Op Unit := do
  guardOperands rd [ra]
  let va ← rdX ra
  alignedGuard va
  change fun s =>
    let core := s.cur.core
    let pinned := (getCore s core).holds.filter fun h => h.state == .pinned && !h.flushing && (ra.toNat == 0 || sameGuard s (curSlot s).region va h)
    if pinned.isEmpty then refuseGuard rd va (if ra.toNat == 0 then 0 else 7) s
    else
      let (s1, who) := parkAnswer rd s
      let s2 := modCur s1 fun t => { t with park := .flush rd.toNat pinned.length who.item 0 }
      pinned.foldl (flushOne who core) s2

/-- GFLUSH (R128). -/
def execGflush (rd ra : XField) (s : State) : Host.Outcome State Fault Refusal := runOp (gflushOp rd ra) s

def gstatOp (rd ra : XField) : Op Unit := do
  guardOperands rd [ra]
  let va ← rdX ra
  alignedGuard va
  awaitWalk va
  change fun s =>
    let rid := (curSlot s).region
    match guardPlace s s.cur.core rid va false with
    | (s1, none) =>
      let (s2, who) := parkAnswer rd s1
      later s2 (.guardAnswer who (ownPkt s 0 va) 0)
    | (s1, some pa) =>
      if (guardRanges s s.cur.core rid va).isEmpty then
        let (s2, who) := parkAnswer rd s1
        later s2 (.guardAnswer who (ownPkt s 0 va) 0)
      else askCapo rd pa va id .gstat s1

/-- GSTAT (R129). -/
def execGstat (rd ra : XField) (s : State) : Host.Outcome State Fault Refusal := runOp (gstatOp rd ra) s

/-! ## At the Capo -/

/-- The VA of a guard whose request came from another chip is translated in the region with the same ID (R131). -/
def homePa (s : State) (rid chip pa : Nat) (va : Word) : Option Nat :=
  if ownChipNo s chip then some pa
  else match vaPhys s rid va.toNat with
    | some (p, _) => if inDram s p then some p else none
    | none => none

/-- Refuses an acquire (R120). -/
def refuseAcq (s : State) (a : AcqPkt) (status : Nat) : State :=
  capoSend s a.guardPa a.who.core a.chip (.grant (guardPkt a 0 0) status false a)

/-- An acquire at the Capo of the guard's object on this chip (R120, R121). -/
def acqAtHome (s : State) (a : AcqPkt) : State :=
  let g := gRefOf s a.region a.guardPa a.guardVa
  let c := getCapo s g.pa
  let n := gNsb s g
  let sz := gSize s g
  if !gBound s g then refuseAcq s a 2
  else if a.inPlace && !ownChipNo s a.chip then refuseAcq s a 3
  else if !a.inPlace && (decide (2048 < n) || decide (a.wlen < n * sz) ||
      decide (Config.mailboxBase < a.window + n * sz)) then refuseAcq s a 1
  else
    let mode := gMode s g
    let q := c.queue.length
    if q == 0 && (mode == 0 || (mode == 1 && !a.excl)) then grantGroup s g c [a]
    else if q == (if gOvfl s g == 0 then 4 else 260) then refuseAcq s a 6
    else putQueue s g c (c.queue ++ [a]) 0

/-- An acquire at the Capo it was sent to. One of a core sealed on the way is discarded (R132); one of a proxy goes on to
its home chip (R131). -/
def acqServe (a : AcqPkt) (s : State) : State :=
  if ownChipNo s a.chip then
    if !answering s a.who.core then s
    else
      let g := gRefOf s a.region a.guardPa a.guardVa
      if gBound s g && gProxy s g then
        let p := guardPkt a 0 0
        let home := gField s g 1 63 56
        let s1 := guardOut s home (.acqreq a)
        atCycle s1 (s1.cycle + Config.msCycles) (.guardHomeTimeout a.who p)
      else acqAtHome s a
  else if !isRunning s a.region then refuseAcq s a 2
  else match homePa s a.region a.chip a.guardPa a.guardVa with
    | none => refuseAcq s a 3
    | some pa => acqAtHome s { a with guardPa := pa }

/-- A guard's object on this chip, as a core of a chip names it. -/
def guardAt (s : State) (rid chip pa : Nat) (va : Word) : GRef := gRefOf s rid ((homePa s rid chip pa va).getD pa) va

/-- ACQREQ (R120, R121, R131). -/
def acqreqStep (a : AcqPkt) (s : State) : State :=
  awaitLines (capoLines s (guardAt s a.region a.chip a.guardPa a.guardVa)) (taskSrc a.who.core a.who.gtid)
    (capoPlace a.guardPa) (.acqreq a) (acqServe a) s

def execAcqreq (a : AcqPkt) (s : State) : Host.Outcome State Fault Refusal := always (acqreqStep a) s

/-- GRANT at the acquirer (R123): a refusal completes the token; a grant is answered with PULL. -/
def grantStep (g : GuardPkt) (status : Nat) (poison : Bool) (a : AcqPkt) (s : State) : State :=
  match (getCore s a.who.core).holds.find? fun h => h.guardVa == g.guardVa && h.hix == a.hix && h.state == .pending with
  | none => s
  | some h =>
    let core := a.who.core
    if status != 0 then
      deliverReg (dropHold s core h.region h.guardVa) h.token (.x h.tokenReg) (BitVec.ofNat 512 (guardWord status 0 0).toNat)
    else
      let o := gRefOf s h.region h.guardPa h.guardVa
      let s1 := modHold s core h.region h.guardVa fun h => { h with
        v := g.v, status := if poison then 5 else 0, sbSize := gSize s o, nsb := gNsb s o }
      let p : GuardPkt := ⟨g.guardPa, g.guardVa, h.region, core, s.chipId, h.hix, g.v, 0, h.window, h.vlast⟩
      if gProxy s o then guardOut s1 (gField s o 1 63 56) (.pull p h.inPlace)
      else sendTo s1 (coreSrc core) (capoPlace h.guardPa) (.pull p h.inPlace)

def execGrant (g : GuardPkt) (status : Nat) (poison : Bool) (a : AcqPkt) (s : State) : Host.Outcome State Fault Refusal :=
  always (grantStep g status poison a) s

/-- The sub-blocks a pull gets from home, and those of the last holder's pinned window (R122). A sub-block of the pinned
version that the release did not pin, as after a poisoned grant, is home's (log 19). -/
def pullSubs (s : State) (c : CapoGuard) (g : GRef) (p : GuardPkt) (inPlace : Bool) : List Nat × List Nat :=
  let stamps := stampsRead s g
  let want := if inPlace || c.poisoned then []
    else (stamps.zipIdx.filter fun e => wantsSub p.vlast e.1 (gV s g)).map fun e => e.2
  let pinned := want.filter fun i => c.wasDirty && stamps.getD i 0 == c.vp && c.pins.contains i
  (want.filter fun i => !pinned.contains i, pinned)

/-- PULL served at the Capo (R122, R123): home-resident sub-blocks are sent, the last holder is asked for its own, and
without one DONE follows. -/
def pullServe (p : GuardPkt) (inPlace : Bool) (s : State) : State :=
  let c := getCapo s p.guardPa
  match findMember c p.core p.chip with
  | none => s
  | some m =>
    if m.pulled then s
    else
      let g := gRefOf s c.region p.guardPa p.guardVa
      let a := { m.acq with window := p.window, vlast := p.vlast }
      let (home, pinned) := pullSubs s c g p inPlace
      let (s1, sent, lost) := sendHome s g c a home 0 0
      let m1 : Member := { m with acq := a, pulled := true, sent := sent, lost := lost }
      let s2 := modMember s1 g.pa p.core p.chip fun _ => m1
      if c.wasDirty && !c.poisoned then
        let f : GuardPkt :=
          ⟨g.pa, p.guardVa, c.region, c.lxCore, c.lxChip, a.hix, gV s g, c.vp, a.window, p.vlast⟩
        let s3 := modMember s2 g.pa p.core p.chip fun x => { x with due := some pinned }
        let s4 := capoSend s3 g.pa c.lxCore c.lxChip (.forward f (p.chip * 4096 + p.core) inPlace)
        if ownChipNo s c.lxChip then s4 else atCycle s4 (s4.cycle + Config.msCycles) (.forwardTimeout { f with n := p.chip * 4096 + p.core })
      else sendDone s2 g m1 (grantStatus c lost)

/-- PULL. -/
def pullStep (p : GuardPkt) (inPlace : Bool) (s : State) : State :=
  let g := gRefOf s (getCapo s p.guardPa).region p.guardPa p.guardVa
  awaitLines (if anySnoop s then capoLines s g ++ subLines s g (pullSubs s (getCapo s p.guardPa) g p inPlace).1 else [])
    (coreSrc p.core) (capoPlace p.guardPa) (.pull p inPlace) (pullServe p inPlace) s

def execPull (g : GuardPkt) (inPlace : Bool) (s : State) : Host.Outcome State Fault Refusal := always (pullStep g inPlace) s

/-- Where a core answers a FORWARD: the guard's Capo, or the chip that homes it. -/
def forwardFrom (s : State) (f : GuardPkt) : Place :=
  let g := match findHold s f.core f.region f.guardVa with
    | some h => gRefOf s h.region h.guardPa h.guardVa
    | none => gRefOf s f.region (match vaPhys s f.region f.guardVa.toNat with
        | some (pa, _) => pa
        | none => f.guardPa) f.guardVa
  if gBound s g && gProxy s g then .chip (gField s g 1 63 56) else capoPlace f.guardPa

/-- FORWARD at the last holder (R123): the pinned sub-blocks the recipient wants are sent; on the first FORWARD every dirty
one is written home, and FWDDONE follows when that is acknowledged. A window already flushed answers with none (R128). -/
def forwardStep (f : GuardPkt) (recipient : Nat) (inPlace : Bool) (s : State) : State :=
  let core := f.core
  let dst := forwardFrom s f
  let done := fun (n lost : Nat) => Event.fwddone { f with core := recipient % 4096, chip := recipient / 4096 } n lost
  let none_ := match dst with
    | .chip c => guardOut s c (done 0 0)
    | _ => sendTo s (coreSrc core) dst (done 0 0)
  match findHold s core f.region f.guardVa with
  | none => none_
  | some h =>
    if h.state != .pinned then none_
    else
      let g := gRefOf s h.region h.guardPa h.guardVa
      let (s1, lost) := if h.home then (s, 0) else writeHomeAll s g core h h.dirty 0
      let s2 := modHold s1 core f.region f.guardVa fun h => { h with home := true }
      let subs := if inPlace then [] else h.dirty.filter fun i => h.nsb != 0 && wantsSub f.vlast h.v f.v && decide (i < h.nsb)
      let a : AcqPkt :=
        ⟨noWho (recipient % 4096), f.region, f.guardPa, f.guardVa, false, inPlace, f.hix, f.window, 0, f.vlast, recipient / 4096⟩
      let s3 := subs.foldl (fun s i =>
        sendSub s (coreSrc core) a i (gSize s g) (spRead s core (h.window + i * gSize s g) (gSize s g))) s2
      afterHome s3 core h.hix (coreSrc core) dst (done subs.length lost)

def execForward (g : GuardPkt) (recipient : Nat) (inPlace : Bool) (s : State) : Host.Outcome State Fault Refusal :=
  always (forwardStep g recipient inPlace) s

/-- FWDDONE served at the Capo (R123, R128, R418): a write home that was lost poisons the guard; sub-blocks the holder no
longer had are sent from home, and DONE follows. -/
def fwddoneServe (p : GuardPkt) (sent lost : Nat) (s : State) : State :=
  let c := getCapo s p.guardPa
  let g := gRefOf s c.region p.guardPa p.guardVa
  let s0 := if 0 < lost then gPut s g 0 59 59 1 else s
  match findMember c p.core p.chip with
  | none => s0
  | some m =>
    match m.due with
    | none => s0
    | some due =>
      let (s1, more, lost1) := if sent == 0 then sendHome s0 g c m.acq due 0 0 else (s0, sent, 0)
      sendDone s1 g { m with sent := m.sent + more } (grantStatus c (m.lost + lost1))

/-- FWDDONE. -/
def fwddoneStep (p : GuardPkt) (sent lost : Nat) (s : State) : State :=
  let c := getCapo s p.guardPa
  let g := gRefOf s c.region p.guardPa p.guardVa
  let due := match findMember c p.core p.chip with
    | some m => if sent == 0 then m.due.getD [] else []
    | none => []
  awaitLines (if anySnoop s then capoLines s g ++ subLines s g due else []) (coreSrc p.core) (capoPlace p.guardPa)
    (.fwddone p sent lost) (fwddoneServe p sent lost) s

def execFwddone (g : GuardPkt) (sent lost : Nat) (s : State) : Host.Outcome State Fault Refusal :=
  always (fwddoneStep g sent lost) s

/-- DONE at the acquirer (R124). -/
def doneStep (g : GuardPkt) (status : Nat) (s : State) : State :=
  match findHold s g.core g.region g.guardVa with
  | none => s
  | some h =>
    if h.state != .pending then s
    else tryToken (modHold s g.core g.region g.guardVa fun h => { h with expect := some g.n, status := status }) g.core
      g.region g.guardVa

def execDone (g : GuardPkt) (status : Nat) (s : State) : Host.Outcome State Fault Refusal := always (doneStep g status) s

/-- UNPIN at the last holder (R123): the window is released; one flushed, or whose flush has begun, does nothing (R128). -/
def unpinStep (g : GuardPkt) (s : State) : State :=
  match findHold s g.core g.region g.guardVa with
  | none => s
  | some h =>
    if h.state != .pinned || h.flushing then s
    else dropHold (recWrite s g.core h 24 (natLe 8 (recFlags h.hix false h.inPlace h.excl false).toNat)) g.core g.region
      g.guardVa

def execUnpin (g : GuardPkt) (s : State) : Host.Outcome State Fault Refusal := always (unpinStep g) s

/-- Stamps the listed sub-blocks with V (R127). -/
def stampSubs (s : State) (g : GRef) (l : List Nat) : State :=
  let st := stampsRead s g
  stampsWrite s g (st.zipIdx.map fun e => if l.contains e.2 then gV s g else e.1)

/-- A release applied at the home Capo (R121, R127): stamps first, then the holder leaves and the head group may be
granted. -/
def releaseAtHome (s : State) (g : GRef) (lost : Nat) (r : RelKind) : State :=
  let s0 := if 0 < lost then gPut s g 0 59 59 1 else s
  let s1 := match r with
    | .shared => s0
    | .none => s0
    | .all => gPut (stampSubs s0 g (List.range (gNsb s g))) g 0 58 58 0
    | .written l => stampSubs s0 g l
    | .pinned l => setCapo (gPut (stampSubs s0 g l) g 0 58 58 1) g.pa { getCapo s g.pa with pins := l }
  match r with
  | .shared =>
    let n := gField s1 g 0 47 32 - 1
    let s2 := gPut s1 g 0 47 32 n
    if gMode s2 g == 1 && n == 0 then grantHead (gPut s2 g 0 63 62 0) g else s2
  | .none => grantHead (gPut s1 g 0 63 62 0) g
  | .all => grantHead (gPut s1 g 0 63 62 0) g
  | .written _ => grantHead (gPut s1 g 0 63 62 0) g
  | .pinned _ => grantHead (gPut s1 g 0 63 62 0) g

/-- A core that is lost leaves a guard whose acquire was pending: its request leaves the queue, or its grant counts as
released (R132). -/
def leavePending (s : State) (g : GRef) (core chip : Nat) (excl : Bool) : State :=
  let c := getCapo s g.pa
  match findMember c core chip with
  | some _ => releaseAtHome (memberFinished s g core chip) g 0 (if excl then .none else .shared)
  | none => putQueue s g c (c.queue.filter fun a => !(a.who.core == core && a.chip == chip)) 0

/-- Whether a chip's core waits for a guard, queued or granted. -/
def awaitsGuard (s : State) (g : GRef) (core chip : Nat) : Bool :=
  let c := getCapo s g.pa
  (findMember c core chip).isSome || c.queue.any fun a => a.who.core == core && a.chip == chip

/-- GUARD_RELEASE at the Capo it was sent to (R121, R127, R131). Its answer carries the version before the grant that the
release may let happen: that is an operation of its own (log 19). The loss of a core of another chip comes as a release
of slot 8 (R132, log 19). -/
def releaseServe (who : Who) (p : GuardPkt) (r : RelKind) (s : State) : State :=
  let g0 := gRefOf s p.region p.guardPa p.guardVa
  let back := fun (s : State) (status v : Nat) =>
    if who.slot == 8 then s
    else capoSend s p.guardPa who.core p.chip (.guardAnswer who { p with n := ansRelease } (guardWord status 0 v))
  if ownChipNo s p.chip && gProxy s g0 then
    guardOut s (gField s g0 1 63 56) (.guardRelease who p r)
  else if !ownChipNo s p.chip && !isRunning s p.region then back s 7 0
  else match homePa s p.region p.chip p.guardPa p.guardVa with
    | none => back s 7 0
    | some pa =>
      let g := gRefOf s p.region pa p.guardVa
      if !gBound s g then back s 7 0
      else if who.slot == 8 && awaitsGuard s g p.core p.chip then leavePending s g p.core p.chip (r != .shared)
      else back (releaseAtHome s g p.n r) 0 (gV s g)

/-- GUARD_RELEASE. V of the answer is the version before a grant that the release lets happen (DESIGN CHOICE, log 19). -/
def guardReleaseStep (who : Who) (p : GuardPkt) (r : RelKind) (s : State) : State :=
  awaitLines (capoLines s (guardAt s p.region p.chip p.guardPa p.guardVa)) (taskSrc who.core who.gtid) (capoPlace p.guardPa)
    (.guardRelease who p r) (releaseServe who p r) s

def execGuardRelease (who : Who) (g : GuardPkt) (r : RelKind) (s : State) : Host.Outcome State Fault Refusal :=
  always (guardReleaseStep who g r) s

/-- A BIND at the home Capo, or of a proxy (R116). -/
def bindAtHome (s : State) (g : GRef) (p : GuardPkt) (base stamps ovfl nsb sblog : Nat) : State × Nat × Nat :=
  let put := fun (s : State) (hchip v : Nat) =>
    let s2 := gPut (gPut s g 0 60 60 1) g 0 56 53 sblog
    let s3 := gPut (gPut (gPut s2 g 0 31 0 v) g 1 63 56 hchip) g 1 55 0 base
    gPut s3 g 2 15 0 nsb
  if gBound s g then (unreserveGuard s p.region, 10, 0)
  else if !ownChipNo s p.chip then
    (gPut (put (physWrite s g.pa g.key (List.replicate 64 0#8)) p.chip 0) g 0 57 57 1, 0, 0)
  else if gReserved s g then (unreserveGuard s p.region, 11, 0)
  else
    let v := nextV (gV s g)
    let s0 := gPut (gPut (gPut s g 0 63 62 0) g 0 59 57 0) g 0 47 32 0
    let s1 := put (gPut (gPut (gPut s0 g 2 43 43 0) g 2 31 16 0) g 7 7 0 0) 0xFF v
    let s2 := gPut (gPut s1 g 3 55 0 stamps) g 6 55 0 ovfl
    let s3 := setCapo s2 g.pa { CapoGuard.empty with region := p.region, root := rootOf s p.region, key := g.key }
    (stampsWrite s3 g (List.replicate nsb v), 0, v)

/-- BIND, UNBIND, GSTAT and the notice of GFLUSH at the Capo they were sent to (R116, R117, R128, R129, R131). -/
def capoServe (who : Who) (p : GuardPkt) (op : CapoOp) (s : State) : State :=
  let g := gRefOf s p.region p.guardPa p.guardVa
  let back := fun (s : State) (w : Word) => capoSend s p.guardPa who.core s.chipId (.guardAnswer who { p with n := ansPlain } w)
  match op with
  | .bind base stamps ovfl nsb sblog =>
    let (s1, st, v) := bindAtHome s g p base stamps ovfl nsb sblog
    back s1 (guardWord st 0 v)
  | .unbind =>
    if !gBound s g then back s (guardWord 2 0 0)
    else if gProxy s g then back (unreserveGuard (physWrite s g.pa g.key (List.replicate 64 0#8)) p.region) (guardWord 0 0 0)
    else if gMode s g != 0 || gField s g 2 31 16 != 0 || gDirty s g then back s (guardWord 10 0 0)
    else back (unreserveGuard (gPut s g 0 60 60 0) p.region) (guardWord 0 0 (gV s g))
  | .gstat =>
    if !ownChipNo s p.chip then
      let w := if !isRunning s p.region then 0
        else match homePa s p.region p.chip p.guardPa p.guardVa with
          | none => 0
          | some pa => gWord s (gRefOf s p.region pa p.guardVa) 0
      guardOut s p.chip (.guardAnswer who { p with n := ansPlain } (w64 w))
    else if gProxy s g then
      let s1 := guardOut s (gField s g 1 63 56) (.capoOperation who p .gstat)
      atCycle s1 (s1.cycle + Config.msCycles) (.guardHomeTimeout who p)
    else back s (w64 (gWord s g 0))
  | .flushed =>
    if ownChipNo s p.chip && gProxy s g then
      guardOut s (gField s g 1 63 56) (.capoOperation who p .flushed)
    else
      let answer := fun (s : State) (w : Word) =>
        if who.slot == 8 then s else capoSend s p.guardPa who.core p.chip (.guardAnswer who { p with n := ansFlush } w)
      let ok := fun (g : GRef) =>
        let s1 := gPut (if 0 < p.n then gPut s g 0 59 59 1 else s) g 0 58 58 0
        let s2 := setCapo s1 g.pa { getCapo s1 g.pa with wasDirty := false, pins := [] }
        answer s2 (guardWord 0 0 (gV s2 g))
      if ownChipNo s p.chip then ok g
      else if !isRunning s p.region then answer s (guardWord 7 0 0)
      else match homePa s p.region p.chip p.guardPa p.guardVa with
        | none => answer s (guardWord 7 0 0)
        | some pa =>
          let h := gRefOf s p.region pa p.guardVa
          if gBound s h then ok h else answer s (guardWord 7 0 0)

/-- CAPO_OPERATION. -/
def capoStep (who : Who) (p : GuardPkt) (op : CapoOp) (s : State) : State :=
  let table := match op with
    | .bind _ stamps _ nsb _ => vaLines s p.region (rootOf s p.region) stamps (4 * nsb)
    | _ => []
  awaitLines (table ++ capoLines s (guardAt s p.region p.chip p.guardPa p.guardVa)) (taskSrc who.core who.gtid)
    (capoPlace p.guardPa) (.capoOperation who p op) (capoServe who p op) s

/-- A sub-block written home from another chip (R131): it goes through the mapping of the region whose task bound the guard;
one that does not translate is dropped and poisons the guard (R418). -/
def homeWriteStep (w : WritePkt) (s : State) : State :=
  match vaPhys s w.who.item w.who.gtid.toNat with
  | none => s
  | some (pa, key) =>
    let c := getCapo s pa
    match boundLocs s c (paDie pa) w.va.toNat w.data.length true with
    | none => gPut s ⟨pa, key⟩ 0 59 59 1
    | some ls => sendWrites s (partWrites (homeWho 4095 c.region 16) ls w.data)

def execCapoOperation (who : Who) (g : GuardPkt) (op : CapoOp) (s : State) : Host.Outcome State Fault Refusal :=
  always (capoStep who g op) s

/-! ## Answers and timeouts -/

/-- An answer unparks the slot that waits for it (R113). -/
def answerSlot (s : State) (who : Who) (w : Word) : State :=
  match locate s who.core who.slot who.gtid with
  | some (.live c i) =>
    match (getSlot s c i).park with
    | .answer rd id =>
      if id == who.item then modSlot s c i fun t => afterPark (putReg t (.x rd) (BitVec.ofNat 512 w.toNat)) else s
    | .flush rd left id _ =>
      if id != who.item then s
      else if left ≤ 1 then modSlot s c i fun t => afterPark (putReg t (.x rd) (BitVec.ofNat 512 w.toNat))
      else modSlot s c i fun t => { t with park := .flush rd (left - 1) id w }
    | _ => s
  | _ => s

/-- A release is acknowledged (R127): HELD is cleared; a window with no pin is no longer tracked. A home that answers
NOT_HELD changes nothing here (R131). -/
def releaseAcked (s : State) (core rid : Nat) (va : Word) (status : Nat) : State :=
  match findHold s core rid va with
  | none => s
  | some h =>
    let pin := h.state == .pinned
    if status != 0 then
      modHix s core h.hix fun h => { h with releasing := false, state := if pin then .held else h.state }
    else
      let s1 := recWrite s core h 24 (natLe 8 (recFlags h.hix pin h.inPlace h.excl false).toNat)
      if pin then modHix s1 core h.hix fun h => { h with releasing := false } else dropHold s1 core rid va

/-- The answer to the flush of a window whose guard is homed elsewhere: the window is released, or stays as it was (R131). -/
def flushAnswered (s : State) (core rid : Nat) (va : Word) (status : Nat) : State :=
  match findHold s core rid va with
  | none => s
  | some h =>
    if h.state != .pinned || !h.flushing then s
    else if status != 0 then modHix s core h.hix fun h => { h with flushing := false }
    else dropHold (recWrite s core h 24 (natLe 8 (recFlags h.hix false h.inPlace h.excl false).toNat)) core rid va

/-- GUARD_ANSWER (R113, R127). -/
def guardAnswerStep (who : Who) (g : GuardPkt) (w : Word) (s : State) : State :=
  if 1000 ≤ g.n then deliverReg s who (.x (g.n - 1000)) (BitVec.ofNat 512 w.toNat)
  else if g.n == ansRelease then answerSlot (releaseAcked s who.core g.region g.guardVa (bits w.toNat 55 48)) who w
  else if g.n == ansFlush then answerSlot (flushAnswered s who.core g.region g.guardVa (bits w.toNat 55 48)) who w
  else answerSlot s who w

def execGuardAnswer (who : Who) (g : GuardPkt) (w : Word) (s : State) : Host.Outcome State Fault Refusal :=
  always (guardAnswerStep who g w) s

/-- GUARD_HOME_TIMEOUT: a pending acquire that had no answer completes CHIP_UNREACHABLE, a GSTAT gets its mark
(R120, R129). -/
def guardHomeTimeoutStep (who : Who) (g : GuardPkt) (s : State) : State :=
  match findHold s who.core g.region g.guardVa with
  | some h =>
    if h.state == .pending && h.v == 0 && h.token == who then
      deliverReg (dropHold s who.core g.region g.guardVa) h.token (.x h.tokenReg) (BitVec.ofNat 512 (guardWord 4 0 0).toNat)
    else answerSlot s who 0x001F000000000000#64
  | none => answerSlot s who 0x001F000000000000#64

def execGuardHomeTimeout (who : Who) (g : GuardPkt) (s : State) : Host.Outcome State Fault Refusal :=
  always (guardHomeTimeoutStep who g) s

/-- FORWARD_TIMEOUT: no FWDDONE within 1 ms; the pin is lost and the waiting grantee completes CHIP_UNREACHABLE (R131). -/
def forwardTimeoutStep (f : GuardPkt) (s : State) : State :=
  let c := getCapo s f.guardPa
  match findMember c (f.n % 4096) (f.n / 4096) with
  | none => s
  | some m =>
    if m.due.isNone then s
    else
      let g := gRefOf s c.region f.guardPa f.guardVa
      let s1 := gPut (gPut s g 0 59 59 1) g 0 58 58 0
      sendDone (setCapo s1 g.pa { getCapo s1 g.pa with wasDirty := false, pins := [] }) g m 4

def execForwardTimeout (g : GuardPkt) (s : State) : Host.Outcome State Fault Refusal := always (forwardTimeoutStep g) s

/-! ## Settling a sealed core's guards (R132) -/

/-- Whether an event is a core's release of a hold. -/
def isRelease (core : Nat) (h : Hold) (e : Event) : Bool :=
  match e with
  | .guardRelease who p _ => who.core == core && p.region == h.region && p.guardVa == h.guardVa
  | _ => false

/-- Whether a hold's release has begun and not reached its Capo. -/
def releaseComing (s : State) (core : Nat) (h : Hold) : Bool :=
  h.releasing && ((s.flights.any fun f => isRelease core h f.act) || h.homeNext.any fun n => isRelease core h n.ev)

/-- One tracked guard of a sealed core settled with its Capo. A release on its way is discarded, and the hold counts as
held; one that its Capo has applied leaves nothing but a pinned window to settle (R132, log 19). A grantee that waits for
a FORWARD of the sealed core has those sub-blocks sent from home and completes (DESIGN CHOICE, log 19). -/
def settleHold (core : Nat) (s0 : State) (h0 : Hold) : State :=
  let coming := releaseComing s0 core h0
  let s := if coming then { s0 with flights := s0.flights.filter fun f => !isRelease core h0 f.act } else s0
  let h := if coming && h0.state == .pinned then { h0 with state := .held } else h0
  let g := gRefOf s h.region h.guardPa h.guardVa
  let c := getCapo s g.pa
  if (h.state == .held && h.releasing && !coming) || (h.flushing && h.homeNext.isEmpty && h.homeLeft == 0) then s
  else if gProxy s g then
    let lost := if h.excl && h.state != .pending then 1 else 0
    let p : GuardPkt := ⟨h.guardPa, h.guardVa, h.region, core, s.chipId, h.hix, h.v, lost, h.window, h.vlast⟩
    guardOut s (gField s g 1 63 56) (if h.state == .pinned then .capoOperation (noWho core) p .flushed
      else .guardRelease (noWho core) p (if h.excl then .none else .shared))
  else match h.state with
    | .pinned =>
      let s1 := setCapo (gPut (gPut s g 0 58 58 0) g 0 59 59 1) g.pa { c with wasDirty := false, pins := [] }
      (c.group.filter fun m => m.due.isSome && c.lxCore == core).foldl (fun s m =>
        let (s2, n, lost) := sendHome s g c m.acq (m.due.getD []) 0 0
        sendDone s2 g { m with sent := m.sent + n } (grantStatus c (m.lost + lost))) s1
    | .held => releaseAtHome (if h.excl then gPut s g 0 59 59 1 else s) g 0 (if h.excl then .none else .shared)
    | .pending => leavePending s g core s.chipId h.excl

/-- GUARD_SETTLE: every tracked guard of a sealed core. -/
def settleGuards (s : State) (core : Nat) : State :=
  let s1 := (getCore s core).holds.foldl (settleHold core) s
  modCore s1 core fun k => { k with holds := [] }

end Sys2Proof.Machine
end

