-- ==== Sys2Proof/Machine/FloatOps.lean ====
section
/-! DEFINITION. Exact floating-point operations (spec 02 R40-R42, R51, R52; 08 R176-R180): each forms one exact result
with the invalid and divide-by-zero flags; delivery rounds it once. -/

namespace Sys2Proof.Machine

/-- NV for a signalling NaN (02 R40). -/
def nvSig : FV → Flags
  | .nan true => fNV
  | _ => 0

def isNaN : FV → Bool
  | .nan _ => true
  | _ => false

def isInfV : FV → Bool
  | .inf _ => true
  | _ => false

def isZeroV : FV → Bool
  | .fin _ 0 _ => true
  | _ => false

/-- The sign of a value; a NaN counts as positive. -/
def signV : FV → Bool
  | .nan _ => false
  | .inf n => n
  | .fin n _ _ => n

/-- A value with its sign inverted; NaNs stay (the fused forms negate exactly, 08 R176). -/
def negV : FV → FV
  | .nan s => .nan s
  | .inf n => .inf (!n)
  | .fin n m e => .fin (!n) m e

/-- ±m·2^e as an integer multiple of 2^d, for d at or below e. -/
def scaledInt (neg : Bool) (m : Nat) (e d : Int) : Int :=
  let n : Int := (m * 2 ^ (e - d).toNat : Nat)
  if neg then -n else n

/-- The exact sum of two finite values; an exact zero takes its sign by R41. -/
def sumFin (rm : Rm) (n1 : Bool) (m1 : Nat) (e1 : Int) (n2 : Bool) (m2 : Nat) (e2 : Int) : Ex :=
  let d := if e1 ≤ e2 then e1 else e2
  let s := scaledInt n1 m1 e1 d + scaledInt n2 m2 e2 d
  if s == 0 then
    .fin (if m1 == 0 && m2 == 0 && n1 == n2 then n1 else rm == .rdn) 0 0 false
  else .fin (decide (s < 0)) s.natAbs d false

/-- a + b (08 R176). -/
def exAdd (rm : Rm) (a b : FV) : Ex × Flags :=
  match a, b with
  | .nan _, _ => (.nan false, nvSig a ||| nvSig b)
  | _, .nan _ => (.nan false, nvSig a ||| nvSig b)
  | .inf n1, .inf n2 => if n1 == n2 then (.inf n1, 0) else (.nan false, fNV)
  | .inf n1, .fin _ _ _ => (.inf n1, 0)
  | .fin _ _ _, .inf n2 => (.inf n2, 0)
  | .fin n1 m1 e1, .fin n2 m2 e2 => (sumFin rm n1 m1 e1 n2 m2 e2, 0)

/-- The exact product as a value, with NV for 0 × ∞ (02 R40). -/
def mulV (a b : FV) : FV × Flags :=
  match a, b with
  | .nan _, _ => (.nan false, nvSig a ||| nvSig b)
  | _, .nan _ => (.nan false, nvSig a ||| nvSig b)
  | .inf n1, .inf n2 => (.inf (n1 != n2), 0)
  | .inf n1, .fin n2 m _ => if m == 0 then (.nan false, fNV) else (.inf (n1 != n2), 0)
  | .fin n1 m _, .inf n2 => if m == 0 then (.nan false, fNV) else (.inf (n1 != n2), 0)
  | .fin n1 m1 e1, .fin n2 m2 e2 => (.fin (n1 != n2) (m1 * m2) (e1 + e2), 0)

/-- a × b. -/
def exMul (a b : FV) : Ex × Flags := ((exOf (mulV a b).1), (mulV a b).2)

/-- a × b + c, one exact result (08 R176). A 0 × ∞ with a quiet NaN addend raises NV. -/
def exFma (rm : Rm) (a b c : FV) : Ex × Flags :=
  let (p, f) := mulV a b
  let (r, g) := exAdd rm p c
  (r, f ||| g ||| nvSig c)

/-- a ÷ b (08 R176); the quotient keeps p + 3 bits at least and a sticky bit. -/
def exDiv (p : Nat) (a b : FV) : Ex × Flags :=
  match a, b with
  | .nan _, _ => (.nan false, nvSig a ||| nvSig b)
  | _, .nan _ => (.nan false, nvSig a ||| nvSig b)
  | .inf _, .inf _ => (.nan false, fNV)
  | .inf n1, .fin n2 _ _ => (.inf (n1 != n2), 0)
  | .fin n1 _ _, .inf n2 => (.fin (n1 != n2) 0 0 false, 0)
  | .fin n1 m1 e1, .fin n2 m2 e2 =>
    if m2 == 0 then (if m1 == 0 then (.nan false, fNV) else (.inf (n1 != n2), fDZ))
    else if m1 == 0 then (.fin (n1 != n2) 0 0 false, 0)
    else
      let k := p + 4 + Nat.log2 m2 - Nat.log2 m1
      let num := m1 * 2 ^ k
      (.fin (n1 != n2) (num / m2) (e1 - e2 - k) (num % m2 != 0), 0)

/-- The integer square root, bit by bit from 2^k down. -/
def isqrtFrom (n : Nat) : Nat → Nat → Nat
  | 0, r => r
  | k + 1, r =>
    let t := r + 2 ^ k
    isqrtFrom n k (if t * t ≤ n then t else r)

/-- The integer square root of n. -/
def isqrt (n : Nat) : Nat := isqrtFrom n (Nat.log2 n / 2 + 1) 0

/-- √a (08 R176). -/
def exSqrt (p : Nat) (a : FV) : Ex × Flags :=
  match a with
  | .nan s => (.nan false, if s then fNV else 0)
  | .inf false => (.inf false, 0)
  | .inf true => (.nan false, fNV)
  | .fin n 0 _ => (.fin n 0 0 false, 0)
  | .fin true _ _ => (.nan false, fNV)
  | .fin false m e =>
    let k0 := 2 * p + 6 - Nat.log2 m
    let k := if (e - k0) % 2 == 0 then k0 else k0 + 1
    let w := m * 2 ^ k
    let r := isqrt w
    (.fin false r ((e - k) / 2) (r * r != w), 0)

/-- a < b for non-NaN values; zeros are equal. -/
def ltV (a b : FV) : Bool :=
  match a, b with
  | .nan _, _ => false
  | _, .nan _ => false
  | .inf n1, .inf n2 => n1 && !n2
  | .inf n1, .fin _ _ _ => n1
  | .fin _ _ _, .inf n2 => !n2
  | .fin n1 m1 e1, .fin n2 m2 e2 =>
    let d := if e1 ≤ e2 then e1 else e2
    decide (scaledInt n1 m1 e1 d < scaledInt n2 m2 e2 d)

/-- a = b; −0 equals +0, a NaN equals nothing (08 R179). -/
def eqV (a b : FV) : Bool :=
  !isNaN a && !isNaN b && !ltV a b && !ltV b a

/-- |a|. -/
def absV : FV → FV
  | .nan s => .nan s
  | .inf _ => .inf false
  | .fin _ m e => .fin false m e

/-- Whether fmin picks a over b: −0 lies below +0 (08 R177). -/
def minFirst (a b : FV) : Bool := ltV a b || (!ltV b a && signV a)

/-- FMINMAX (08 R177): variants 0 fmin, 1 fmax, 2 fminm, 3 fmaxm on encodings, moving bits without rounding. -/
def fminmaxBits (F : FF) (variant : Nat) (x y : Nat) : Nat × Flags :=
  let a := ffDecode F x
  let b := ffDecode F y
  let fl := nvSig a ||| nvSig b
  if isNaN a && isNaN b then (ffNaN F, fl)
  else if isNaN a then (y, fl)
  else if isNaN b then (x, fl)
  else
    let min1 := minFirst a b
    let pickMin := if min1 then x else y
    let pickMax := if min1 then y else x
    let smaller := ltV (absV a) (absV b)
    let larger := ltV (absV b) (absV a)
    let r := match variant with
      | 0 => pickMin
      | 1 => pickMax
      | 2 => if smaller then x else if larger then y else pickMin
      | _ => if smaller then y else if larger then x else pickMax
    (r, fl)

/-- FCMP conditions (08 R179): 0 eq, 1 lt, 2 le, 3 un, 4 ltq, 5 leq; none for the codes not listed. -/
def fcmpV (c : Nat) (a b : FV) : Option (Bool × Flags) :=
  let sig := nvSig a ||| nvSig b
  let any := if isNaN a || isNaN b then fNV else 0
  let lt := ltV a b
  let le := ltV a b || eqV a b
  match c with
  | 0 => some (eqV a b, sig)
  | 1 => some (lt, any)
  | 2 => some (le, any)
  | 3 => some (isNaN a || isNaN b, sig)
  | 4 => some (lt, sig)
  | 5 => some (le, sig)
  | _ => none

/-- FSGN variants (08 R178): 0 cpy, 1 opp, 2 xor, 3 abs, 4 nabs; the bits with the new sign. -/
def fsgnBits (F : FF) (variant : Nat) (x y : Nat) : Option Nat :=
  let sb := 2 ^ (F.ebits + F.mbits)
  let sx := x / sb % 2 == 1
  let sy := y / sb % 2 == 1
  let put : Bool → Nat := fun s => x % sb + (if s then sb else 0)
  match variant with
  | 0 => some (put sy)
  | 1 => some (put (!sy))
  | 2 => some (put (sx != sy))
  | 3 => some (put false)
  | 4 => some (put true)
  | _ => none

/-- FCLASS word (08 R180). -/
def fclassBits (F : FF) (x : Nat) : Nat :=
  let m := x % 2 ^ F.mbits
  let neg := if x / 2 ^ (F.ebits + F.mbits) % 2 == 1 then 1 else 0
  match ffDecode F x with
  | .nan sig => neg + 32 + (if sig then 64 else 0) + (if !sig && m % 2 ^ (F.mbits - 1) == 0 then 128 else 0)
  | .inf _ => neg + 16
  | .fin _ 0 _ => neg + 2
  | .fin _ k _ => if k < 2 ^ F.mbits then neg + 4 else neg + 8

/-- A running exact sum for VDOT, MMA blocks (02 R52, R53): a NaN seen, infinities seen by sign, and the finite part as
an integer multiple of 2^d. `zneg` remembers whether every term so far was a negative zero. -/
structure Acc where
  nan : Bool
  pinf : Bool
  ninf : Bool
  n : Int
  d : Int
  zneg : Bool
  any : Bool
deriving DecidableEq, Repr

def accZero : Acc := ⟨false, false, false, 0, 0, true, false⟩

/-- Adds a term exactly. -/
def accAdd (a : Acc) (v : FV) : Acc :=
  match v with
  | .nan _ => { a with nan := true, any := true }
  | .inf false => { a with pinf := true, any := true }
  | .inf true => { a with ninf := true, any := true }
  | .fin neg m e =>
    let d := if e ≤ a.d then e else a.d
    { a with
      n := a.n * (2 ^ (a.d - d).toNat : Nat) + scaledInt neg m e d
      d := d
      zneg := a.zneg && m == 0 && neg
      any := true }

/-- The sum as an exact value: opposite infinities are NV and NaN (02 R52); with a NaN term beside them it is NaN without NV
(DESIGN CHOICE, log 37). An exact zero sum is −0 when every term
was −0 or the mode is RDN with terms that cancel (02 R41); a sum of +0 terms alone is +0. -/
def accValue (rm : Rm) (a : Acc) (allPosZero : Bool) : FV × Flags :=
  if a.nan then (.nan false, 0)
  else if a.pinf && a.ninf then (.nan false, fNV)
  else if a.pinf then (.inf false, 0)
  else if a.ninf then (.inf true, 0)
  else if a.n == 0 then
    (.fin (if a.any && a.zneg then true else if allPosZero then false else rm == .rdn) 0 0, 0)
  else (.fin (decide (a.n < 0)) a.n.natAbs a.d, 0)

end Sys2Proof.Machine
end

