-- ==== Sys2Proof/Machine/Scalar.lean ====
section
/-! DEFINITION. Scalar integer instructions and predicates (spec 08 R162-R169), the divider (R163, R170, R171), and
branches (R172, R173). -/

namespace Sys2Proof.Machine

/-! ## Integer operations (R162-R165) -/

/-- A register-register form: sources ra and rb, result after `lat` cycles. -/
def intOp (rd ra rb : XField) (lat : Nat) (f : Word → Word → Word) : Op Unit := do
  operands [ra, rb] (.xq rd) false
  let a ← rdX ra
  let b ← rdX rb
  wrX rd lat (f a b)

/-- A register-register form whose residue the ALU predicts (19 R347). -/
def intOpPredicted (rd ra rb : XField) (lat : Nat) (f : Word → Word → Word) (fi : Int → Int → Int) : Op Unit := do
  operands [ra, rb] (.xq rd) false
  let s ← look
  let a ← rdX ra
  let b ← rdX rb
  let res := if anyBad s [ra, rb] then predictedRes fi a b (f a b) (srcRes s ra a) (srcRes s rb b) else none
  wrXPredicted rd lat (f a b) res

/-- A form with one register source. -/
def unOp (rd ra : XField) (f : Word → Word) : Op Unit := do
  operands [ra] (.xq rd) false
  let a ← rdX ra
  wrX rd 1 (f a)

/-- A form that reads its destination; a queue register there is queue misuse (R68). -/
def readsDst (rd : XField) (srcs : List XField) (f : Word → List Word → Word) : Op Unit := do
  operands srcs (.x rd) false
  let s ← look
  let vs ← srcs.mapM rdX
  wrX rd 1 (f (getX (curSlot s) rd.toNat) vs)

/-- Bits [127:64] of a product. -/
def mulHi (a b : Int) : Word := BitVec.ofInt 64 (a * b / 2 ^ 64)

/-- The shift count of a register form. -/
def shAmt (b : Word) : Nat := b.toNat % 64

/-- Truncating division and remainder (R163). -/
def divS (a b : Word) : Word :=
  if b = 0#64 then 0#64 else BitVec.ofInt 64 (Int.tdiv a.toInt b.toInt)

def remS (a b : Word) : Word :=
  if b = 0#64 then a else BitVec.ofInt 64 (Int.tmod a.toInt b.toInt)

def divU (a b : Word) : Word := if b = 0#64 then 0#64 else BitVec.ofNat 64 (a.toNat / b.toNat)

def remU (a b : Word) : Word := if b = 0#64 then a else BitVec.ofNat 64 (a.toNat % b.toNat)

/-- One if the condition holds. -/
def boolWord (b : Bool) : Word := if b then 1#64 else 0#64

def minS (a b : Word) : Word := if a.toInt ≤ b.toInt then a else b

def maxS (a b : Word) : Word := if a.toInt ≤ b.toInt then b else a

def minU (a b : Word) : Word := if a.toNat ≤ b.toNat then a else b

def maxU (a b : Word) : Word := if a.toNat ≤ b.toNat then b else a

/-- Leading zero bits, 64 for zero. -/
def clzW (a : Word) : Word := if a = 0#64 then 64#64 else w64 (63 - Nat.log2 a.toNat)

/-- Trailing zero bits among n bits. -/
def ctzFrom (v : Nat) : Nat → Nat
  | 0 => 0
  | n + 1 => if v % 2 = 1 then 0 else 1 + ctzFrom (v / 2) n

def ctzW (a : Word) : Word := w64 (ctzFrom a.toNat 64)

/-- One bits among the low n bits. -/
def popFrom (v : Nat) : Nat → Nat
  | 0 => 0
  | n + 1 => v % 2 + popFrom (v / 2) n

def popW (a : Word) : Word := w64 (popFrom a.toNat 64)

def bswapW (a : Word) : Word := w64 (leNat (natLe 8 a.toNat).reverse)

/-- Width of an extension code. -/
def extBits : ExtW → Nat
  | .b => 8
  | .h => 16
  | .w => 32

def sextW (wd : ExtW) (a : Word) : Word := sext64 (extBits wd) a.toNat

def zextW (wd : ExtW) (a : Word) : Word := w64 (a.toNat % 2 ^ extBits wd)

/-- Bits [pos+wm1:pos] (R165). -/
def bfxW (a : Word) (pos wm1 : Nat) : Word := w64 (a.toNat / 2 ^ pos % 2 ^ (wm1 + 1))

def bfiW (d a : Word) (pos wm1 : Nat) : Word := w64 (putBits d.toNat (pos + wm1) pos (a.toNat % 2 ^ (wm1 + 1)))

/-- The conditions of CMP (R166). -/
def cmpHolds (c : Nat) (a b : Word) : Bool :=
  match c with
  | 0 => a == b
  | 1 => a != b
  | 2 => decide (a.toInt < b.toInt)
  | 3 => decide (b.toInt ≤ a.toInt)
  | 4 => decide (a.toNat < b.toNat)
  | _ => decide (b.toNat ≤ a.toNat)

/-- ADD (R162). -/
def execAdd (rd ra rb : XField) (s : State) : Host.Outcome State Fault Refusal :=
  runOp (intOpPredicted rd ra rb 1 (fun a b => a + b) (fun a b => a + b)) s

/-- SUB (R162). -/
def execSub (rd ra rb : XField) (s : State) : Host.Outcome State Fault Refusal :=
  runOp (intOpPredicted rd ra rb 1 (fun a b => a - b) (fun a b => a - b)) s

/-- MUL: bits [63:0] of the product (R162). -/
def execMul (rd ra rb : XField) (s : State) : Host.Outcome State Fault Refusal :=
  runOp (intOpPredicted rd ra rb 3 (fun a b => a * b) (fun a b => a * b)) s

/-- MULH.SS (R162). -/
def execMulhSs (rd ra rb : XField) (s : State) : Host.Outcome State Fault Refusal :=
  runOp (intOp rd ra rb 3 (fun a b => mulHi a.toInt b.toInt)) s

/-- MULH.UU (R162). -/
def execMulhUu (rd ra rb : XField) (s : State) : Host.Outcome State Fault Refusal :=
  runOp (intOp rd ra rb 3 (fun a b => mulHi a.toNat b.toNat)) s

/-- MULH.SU: signed x[ra] by unsigned x[rb] (R162). -/
def execMulhSu (rd ra rb : XField) (s : State) : Host.Outcome State Fault Refusal :=
  runOp (intOp rd ra rb 3 (fun a b => mulHi a.toInt b.toNat)) s

/-- AND (R162). -/
def execAnd (rd ra rb : XField) (s : State) : Host.Outcome State Fault Refusal :=
  runOp (intOp rd ra rb 1 (fun a b => a &&& b)) s

/-- OR (R162). -/
def execOr (rd ra rb : XField) (s : State) : Host.Outcome State Fault Refusal :=
  runOp (intOp rd ra rb 1 (fun a b => a ||| b)) s

/-- XOR (R162). -/
def execXor (rd ra rb : XField) (s : State) : Host.Outcome State Fault Refusal :=
  runOp (intOp rd ra rb 1 (fun a b => a ^^^ b)) s

/-- ANDN: x[ra] and not x[rb] (R162). -/
def execAndn (rd ra rb : XField) (s : State) : Host.Outcome State Fault Refusal :=
  runOp (intOp rd ra rb 1 (fun a b => a &&& ~~~b)) s

/-- SLL (R162). -/
def execSll (rd ra rb : XField) (s : State) : Host.Outcome State Fault Refusal :=
  runOp (intOp rd ra rb 1 (fun a b => a <<< shAmt b)) s

/-- SRL (R162). -/
def execSrl (rd ra rb : XField) (s : State) : Host.Outcome State Fault Refusal :=
  runOp (intOp rd ra rb 1 (fun a b => a >>> shAmt b)) s

/-- SRA (R162). -/
def execSra (rd ra rb : XField) (s : State) : Host.Outcome State Fault Refusal :=
  runOp (intOp rd ra rb 1 (fun a b => a.sshiftRight (shAmt b))) s

/-- ROL (R162). -/
def execRol (rd ra rb : XField) (s : State) : Host.Outcome State Fault Refusal :=
  runOp (intOp rd ra rb 1 (fun a b => a.rotateLeft (shAmt b))) s

/-- ROR (R162). -/
def execRor (rd ra rb : XField) (s : State) : Host.Outcome State Fault Refusal :=
  runOp (intOp rd ra rb 1 (fun a b => a.rotateRight (shAmt b))) s

/-- SLT (R162). -/
def execSlt (rd ra rb : XField) (s : State) : Host.Outcome State Fault Refusal :=
  runOp (intOp rd ra rb 1 (fun a b => boolWord (decide (a.toInt < b.toInt)))) s

/-- SLTU (R162). -/
def execSltu (rd ra rb : XField) (s : State) : Host.Outcome State Fault Refusal :=
  runOp (intOp rd ra rb 1 (fun a b => boolWord (decide (a.toNat < b.toNat)))) s

/-- MIN (R162). -/
def execMin (rd ra rb : XField) (s : State) : Host.Outcome State Fault Refusal :=
  runOp (intOp rd ra rb 1 minS) s

/-- MAX (R162). -/
def execMax (rd ra rb : XField) (s : State) : Host.Outcome State Fault Refusal :=
  runOp (intOp rd ra rb 1 maxS) s

/-- MINU (R162). -/
def execMinu (rd ra rb : XField) (s : State) : Host.Outcome State Fault Refusal :=
  runOp (intOp rd ra rb 1 minU) s

/-- MAXU (R162). -/
def execMaxu (rd ra rb : XField) (s : State) : Host.Outcome State Fault Refusal :=
  runOp (intOp rd ra rb 1 maxU) s

/-- CLZ (R162). -/
def execClz (rd ra : XField) (s : State) : Host.Outcome State Fault Refusal :=
  runOp (unOp rd ra clzW) s

/-- CTZ (R162). -/
def execCtz (rd ra : XField) (s : State) : Host.Outcome State Fault Refusal :=
  runOp (unOp rd ra ctzW) s

/-- POPC (R162). -/
def execPopc (rd ra : XField) (s : State) : Host.Outcome State Fault Refusal :=
  runOp (unOp rd ra popW) s

/-- BSWAP (R162). -/
def execBswap (rd ra : XField) (s : State) : Host.Outcome State Fault Refusal :=
  runOp (unOp rd ra bswapW) s

/-- SEXT (R162). -/
def execSext (rd ra : XField) (wd : ExtW) (s : State) : Host.Outcome State Fault Refusal :=
  runOp (unOp rd ra (sextW wd)) s

/-- ZEXT (R162). -/
def execZext (rd ra : XField) (wd : ExtW) (s : State) : Host.Outcome State Fault Refusal :=
  runOp (unOp rd ra (zextW wd)) s

/-- ADDI with its predicted residue (R164, 19 R347). -/
def addiOp (rd ra : XField) (imm : BitVec 13) : Op Unit := do
  operands [ra] (.xq rd) false
  let s ← look
  let a ← rdX ra
  let i := immS imm
  let res := if anyBad s [ra] then predictedRes (fun a b => a + b) a i (a + i) (srcRes s ra a) (i.toNat % 15) else none
  wrXPredicted rd 1 (a + i) res

/-- ADDI (R164). -/
def execAddi (rd ra : XField) (imm : BitVec 13) (s : State) : Host.Outcome State Fault Refusal :=
  runOp (addiOp rd ra imm) s

/-- ANDI (R164). -/
def execAndi (rd ra : XField) (imm : BitVec 13) (s : State) : Host.Outcome State Fault Refusal :=
  runOp (unOp rd ra fun a => a &&& immS imm) s

/-- ORI (R164). -/
def execOri (rd ra : XField) (imm : BitVec 13) (s : State) : Host.Outcome State Fault Refusal :=
  runOp (unOp rd ra fun a => a ||| immS imm) s

/-- XORI (R164). -/
def execXori (rd ra : XField) (imm : BitVec 13) (s : State) : Host.Outcome State Fault Refusal :=
  runOp (unOp rd ra fun a => a ^^^ immS imm) s

/-- SLLI (R164). -/
def execSlli (rd ra : XField) (n : BitVec 6) (s : State) : Host.Outcome State Fault Refusal :=
  runOp (unOp rd ra fun a => a <<< n.toNat) s

/-- SRLI (R164). -/
def execSrli (rd ra : XField) (n : BitVec 6) (s : State) : Host.Outcome State Fault Refusal :=
  runOp (unOp rd ra fun a => a >>> n.toNat) s

/-- SRAI (R164). -/
def execSrai (rd ra : XField) (n : BitVec 6) (s : State) : Host.Outcome State Fault Refusal :=
  runOp (unOp rd ra fun a => a.sshiftRight n.toNat) s

/-- SLTI (R164). -/
def execSlti (rd ra : XField) (imm : BitVec 12) (s : State) : Host.Outcome State Fault Refusal :=
  runOp (unOp rd ra fun a => boolWord (decide (a.toInt < (immS imm).toInt))) s

/-- SLTIU: the sign-extended immediate compared as unsigned (R164). -/
def execSltiu (rd ra : XField) (imm : BitVec 12) (s : State) : Host.Outcome State Fault Refusal :=
  runOp (unOp rd ra fun a => boolWord (decide (a.toNat < (immS imm).toNat))) s

/-- MOVI. -/
def moviOp (rd : XField) (imm : BitVec 19) : Op Unit := do
  operands [] (.xq rd) false
  wrX rd 1 (immS imm)

/-- MOVI (R164). -/
def execMovi (rd : XField) (imm : BitVec 19) (s : State) : Host.Outcome State Fault Refusal :=
  runOp (moviOp rd imm) s

/-- MOVHI reads its destination (R164). -/
def execMovhi (rd : XField) (imm : BitVec 19) (s : State) : Host.Outcome State Fault Refusal :=
  runOp (readsDst rd [] fun d _ => (d <<< (19 : Nat)) ||| imm.zeroExtend 64) s

/-- BFX (R165). -/
def execBfx (rd ra : XField) (pos wm1 : BitVec 6) (s : State) : Host.Outcome State Fault Refusal :=
  runOp (unOp rd ra fun a => bfxW a pos.toNat wm1.toNat) s

/-- BFI reads its destination (R165). -/
def execBfi (rd ra : XField) (pos wm1 : BitVec 6) (s : State) : Host.Outcome State Fault Refusal :=
  runOp (readsDst rd [ra] fun d vs => bfiW d (vs.headD 0#64) pos.toNat wm1.toNat) s

/-- A comparison that writes a predicate (R166). -/
def cmpOp (pd : PField) (srcs : List XField) (f : List Word → Bool) : Op Unit := do
  operands srcs (.p pd) false
  let vs ← srcs.mapM rdX
  wrP pd 1 (f vs)

/-- CMP (R166). -/
def execCmp (pd : PField) (ra rb : XField) (c : BitVec 3) (s : State) : Host.Outcome State Fault Refusal :=
  runOp (cmpOp pd [ra, rb] fun vs => cmpHolds c.toNat (vs.headD 0#64) (vs.getD 1 0#64)) s

/-- CMPI (R166). -/
def execCmpi (pd : PField) (ra : XField) (c : BitVec 3) (imm : BitVec 10)
    (s : State) : Host.Outcome State Fault Refusal :=
  runOp (cmpOp pd [ra] fun vs => cmpHolds c.toNat (vs.headD 0#64) (immS imm)) s

/-- SEL: both sources are read, then one is chosen by the predicate (R167). -/
def selOp (rd ra rb : XField) (p : PField) (inv : BitVec 1) : Op Unit := do
  operands [ra, rb] (.xq rd) false
  let a ← rdX ra
  let b ← rdX rb
  let q ← rdP p
  wrX rd 1 (if q != (inv.toNat == 1) then a else b)

/-- SEL (R167). -/
def execSel (rd ra rb : XField) (p : PField) (inv : BitVec 1) (s : State) : Host.Outcome State Fault Refusal :=
  runOp (selOp rd ra rb p inv) s

/-- PLOG: bit pa × 2 + pb of the truth table (R168). -/
def plogOp (pd pa pb : PField) (tt : BitVec 4) : Op Unit := do
  operands [] (.p pd) false
  let a ← rdP pa
  let b ← rdP pb
  wrP pd 1 (tt.getLsbD ((if a then 2 else 0) + (if b then 1 else 0)))

/-- PLOG (R168). -/
def execPlog (pd pa pb : PField) (tt : BitVec 4) (s : State) : Host.Outcome State Fault Refusal :=
  runOp (plogOp pd pa pb tt) s

/-- ADDSH (R169). -/
def execAddsh (rd ra rb : XField) (n : BitVec 6) (s : State) : Host.Outcome State Fault Refusal :=
  runOp (intOp rd ra rb 1 fun a b => a + (b <<< n.toNat)) s

/-- ANOP: nothing but its bundle's framing (03 R72). -/
def execAnop  (s : State) : Host.Outcome State Fault Refusal :=
  runOp (pure ()) s

/-- NOP: nothing but its bundle's framing and marks (03 R72). -/
def execNop  (s : State) : Host.Outcome State Fault Refusal :=
  runOp (pure ()) s

/-! ## The divider (R170, R171) -/

/-- A division does not issue while the divider's queue is full (R170, 18 R335). -/
def divRoom : Op Unit := fun s => if 4 ≤ (getCore s s.cur.core).divQueue.length then .error .stall else .ok ((), s)

/-- Puts an operation into the divider queue, which holds four (R170). -/
def divEnqueue (d : RegId) (v : Word) (occ : Nat) : Op Unit :=
  change fun s =>
    let who : Who := ⟨s.cur.core, s.cur.slot, (curSlot s).gtid, 0⟩
    let s1 := modCur s fun t => setPending t d
    modCore s1 s.cur.core fun k => { k with divQueue := k.divQueue ++ [⟨who, d, v, occ⟩] }

/-- An integer division: a variable-latency producer of 36 cycles in the divider (R163, R170). -/
def divOp (rd ra rb : XField) (f : Word → Word → Word) : Op Unit := do
  divRoom
  operands [ra, rb] (.x rd) false
  let a ← rdX ra
  let b ← rdX rb
  divEnqueue (.x rd.toNat) (f a b) 36

/-- DIV (R163). -/
def execDiv (rd ra rb : XField) (s : State) : Host.Outcome State Fault Refusal :=
  runOp (divOp rd ra rb divS) s

/-- DIVU (R163). -/
def execDivu (rd ra rb : XField) (s : State) : Host.Outcome State Fault Refusal :=
  runOp (divOp rd ra rb divU) s

/-- REM (R163). -/
def execRem (rd ra rb : XField) (s : State) : Host.Outcome State Fault Refusal :=
  runOp (divOp rd ra rb remS) s

/-- REMU (R163). -/
def execRemu (rd ra rb : XField) (s : State) : Host.Outcome State Fault Refusal :=
  runOp (divOp rd ra rb remU) s

/-- Whether the divider of a core can start an operation now. -/
def dividerReady (s : State) (core : Nat) : Bool :=
  let k := getCore s core
  decide (k.divFree ≤ s.cycle) && !k.divQueue.isEmpty

/-- DIVIDER_START: the oldest entry leaves the queue and holds the divider for its occupancy; its result comes two cycles
after that (R170). A divider that is held, or has nothing queued, starts nothing. -/
def dividerStart (core : Nat) (s : State) : State :=
  let k := getCore s core
  match k.divQueue with
  | j :: r =>
    if s.cycle < k.divFree then s
    else
      let s1 := setCore s core { k with divQueue := r, divRun := k.divRun ++ [j], divFree := s.cycle + j.occ }
      atCycle s1 (s1.cycle + j.occ + 2) (.dividerResult core)
  | [] => s

def execDividerStart (core : Nat) (s : State) : Host.Outcome State Fault Refusal := always (dividerStart core) s

/-- DIVIDER_RESULT: the result is written and the pending bit cleared (R170). -/
def dividerResult (core : Nat) (s : State) : State :=
  match (getCore s core).divRun with
  | j :: r => deliverReg (modCore s core fun k => { k with divRun := r }) j.who j.dst (BitVec.ofNat 512 j.val.toNat)
  | [] => s

def execDividerResult (core : Nat) (s : State) : Host.Outcome State Fault Refusal := always (dividerResult core) s

/-! ## Branches and jumps (R172, R173) -/

/-- Transfers to a target: above the program store an illegal bundle (03 R59). -/
def transfer (t : Word) : Op Unit := do
  trapIf (decide (Config.progSize ≤ t.toNat)) (tBundle t)
  change fun s => { s with cur := { s.cur with target := some t } }

/-- A relative target: bundle address + offset × 4 (03 R62). -/
def relTarget {n : Nat} (off : BitVec n) : Op Word := do
  let s ← look
  pure (s.cur.pc + immS off * 4#64)

/-- The link value: the address after the bundle (R172). -/
def linkTo (d : XField) : Op Unit := do
  let s ← look
  wrX d 1 (s.cur.pc + w64 s.cur.size)

def bOp (off : BitVec 22) : Op Unit := do
  let t ← relTarget off
  transfer t

def blOp (off : BitVec 22) : Op Unit := do
  operands [] (.x 1#6) false
  let t ← relTarget off
  transfer t
  linkTo 1#6

def bpOp (p : PField) (n : BitVec 1) (off : BitVec 18) : Op Unit := do
  let q ← rdP p
  if q != (n.toNat == 1) then do
    let t ← relTarget off
    transfer t
  else pure ()

def jrOp (rd ra : XField) : Op Unit := do
  operands [ra] (.x rd) false
  let t ← rdChecked ra
  transfer t
  trapIf (t.toNat % 4 != 0) (tMisalign t)
  linkTo rd

/-- B (R172). -/
def execB (off : BitVec 22) (s : State) : Host.Outcome State Fault Refusal :=
  runOp (bOp off) s

/-- BL: the link is x1 (R172). -/
def execBl (off : BitVec 22) (s : State) : Host.Outcome State Fault Refusal :=
  runOp (blOp off) s

/-- BP: taken when pN xor n = 1 (R172, 03 R63). -/
def execBp (p : PField) (n : BitVec 1) (off : BitVec 18) (s : State) : Host.Outcome State Fault Refusal :=
  runOp (bpOp p n off) s

/-- JR: x[ra] is read before the link is written (R172). -/
def execJr (rd ra : XField) (s : State) : Host.Outcome State Fault Refusal :=
  runOp (jrOp rd ra) s

end Sys2Proof.Machine
end

