-- ==== Sys2Proof/Machine/FloatScalar.lean ====
section
/-! DEFINITION. Scalar floating-point instructions (spec 08 R174-R183). Flags merge when the bundle issues; results have
latency 4, except those of the divider. -/

namespace Sys2Proof.Machine

/-- The value of an f register in a format, after the check of 02 R34. -/
def fpVal (fm : Fmt) (w : Word) : FV := ffDecode (fmtFF fm) (unbox fm w)

/-- Whether a rounding-mode code names none (R174). -/
def rmBad (s : State) (rm : BitVec 3) : Bool := (curRm s rm.toNat).isNone

/-- The rounding mode of an instruction; a code that names none is illegal (R174). -/
def rmNow (rm : BitVec 3) : Op Rm := do
  let s ← look
  match curRm s rm.toNat with
  | some r => pure r
  | none => raise tIllegal

/-- Delivers an exact result to a format and merges its flags (02 R42, R49); FP64, FP32, FP16 and BF16 ignore sat. -/
def deliverF (fm : Fmt) (rm : Rm) (e : Ex × Flags) : Op Word := do
  let (b, fl) := deliver (fmtFF fm) rm false e.1
  change (mergeFlags 0 (e.2 ||| fl))
  pure (box fm b)

/-- A form of two operands. -/
def fpOp2 (fm : Fmt) (rm : BitVec 3) (fd fa fb : FField) (f : Rm → FV → FV → Ex × Flags) : Op Unit := do
  operands [] (.f fd) false
  let r ← rmNow rm
  let a ← rdF fa
  let b ← rdF fb
  let v ← deliverF fm r (f r (fpVal fm a) (fpVal fm b))
  wrF fd 4 v

/-- A fused form (R176). -/
def fpOp3 (fm : Fmt) (rm : BitVec 3) (fd fa fb fc : FField) (f : Rm → FV → FV → FV → Ex × Flags) : Op Unit := do
  operands [] (.f fd) false
  let r ← rmNow rm
  let a ← rdF fa
  let b ← rdF fb
  let c ← rdF fc
  let v ← deliverF fm r (f r (fpVal fm a) (fpVal fm b) (fpVal fm c))
  wrF fd 4 v

/-- Occupancy of FDIV and FSQRT (R170). -/
def fdivOcc (fm : Fmt) : Nat :=
  match fm with
  | .d => 28
  | .s => 16
  | .h => 10
  | .bf => 10

/-- FDIV: through the divider, its flags merged at issue (R170, R174). -/
def fdivOp (fm : Fmt) (rm : BitVec 3) (fd fa fb : FField) : Op Unit := do
  divRoom
  operands [] (.f fd) false
  let r ← rmNow rm
  let a ← rdF fa
  let b ← rdF fb
  let v ← deliverF fm r (exDiv ((fmtFF fm).mbits + 1) (fpVal fm a) (fpVal fm b))
  divEnqueue (.f fd.toNat) v (fdivOcc fm)

/-- FSQRT: through the divider. -/
def fsqrtOp (fm : Fmt) (rm : BitVec 3) (fd fa : FField) : Op Unit := do
  divRoom
  operands [] (.f fd) false
  let r ← rmNow rm
  let a ← rdF fa
  let v ← deliverF fm r (exSqrt ((fmtFF fm).mbits + 1) (fpVal fm a))
  divEnqueue (.f fd.toNat) v (fdivOcc fm)

/-- FMINMAX (R177). -/
def fminmaxOp (fm : Fmt) (v : BitVec 3) (fd fa fb : FField) : Op Unit := do
  operands [] (.f fd) false
  let a ← rdF fa
  let b ← rdF fb
  let (r, fl) := fminmaxBits (fmtFF fm) v.toNat (unbox fm a) (unbox fm b)
  change (mergeFlags 0 fl)
  wrF fd 4 (box fm r)

/-- FSGN (R178). -/
def fsgnOp (fm : Fmt) (v : BitVec 3) (fd fa fb : FField) : Op Unit := do
  operands [] (.f fd) false
  let a ← rdF fa
  let b ← rdF fb
  match fsgnBits (fmtFF fm) v.toNat (unbox fm a) (unbox fm b) with
  | some r => wrF fd 4 (box fm r)
  | none => raise tIllegal

/-- FCMP (R179). -/
def fcmpOp (fm : Fmt) (c : BitVec 3) (pd : PField) (fa fb : FField) : Op Unit := do
  operands [] (.p pd) false
  let a ← rdF fa
  let b ← rdF fb
  match fcmpV c.toNat (fpVal fm a) (fpVal fm b) with
  | some (r, fl) => do
    change (mergeFlags 0 fl)
    wrP pd 4 r
  | none => raise tIllegal

/-- FCLASS (R180). -/
def fclassOp (fm : Fmt) (rd : XField) (fs : FField) : Op Unit := do
  operands [] (.xq rd) false
  let a ← rdF fs
  wrX rd 4 (w64 (fclassBits (fmtFF fm) (unbox fm a)))

/-- FCVT: the value delivered to the destination format, NV for a signalling NaN (R181, 02 R45). -/
def fcvtOp (dst src : Fmt) (rm : BitVec 3) (fd fa : FField) : Op Unit := do
  operands [] (.f fd) false
  let r ← rmNow rm
  let a ← rdF fa
  let v ← deliverF dst r (exOf (fpVal src a), 0)
  wrF fd 4 v

/-- Integer types of FCVTI: width and sign (R182). -/
def intTy (ty : BitVec 2) : Nat × Bool :=
  match ty.toNat with
  | 0 => (32, true)
  | 1 => (32, false)
  | 2 => (64, true)
  | _ => (64, false)

/-- An integer result in 64 bits. -/
def extInt (w : Nat) (signed : Bool) (n : Nat) : Word :=
  if signed then sext64 w n else w64 (n % 2 ^ w)

/-- FCVTI (R182, 02 R44, R45). -/
def fcvtiOp (fm : Fmt) (rm : BitVec 3) (toF : BitVec 1) (ty : BitVec 2) (x : XField) (f : FField) : Op Unit := do
  let (w, signed) := intTy ty
  if toF.toNat == 1 then do
    let s ← look
    operands [x] (.f f) (rmBad s rm)
    let r ← rmNow rm
    let a ← rdX x
    let i : Int := if signed then toSigned w a.toNat else ((a.toNat % 2 ^ w : Nat) : Int)
    let v ← deliverF fm r (exInt i, 0)
    wrF f 4 v
  else do
    let s ← look
    operands [] (.xq x) (rmBad s rm)
    let r ← rmNow rm
    let a ← rdF f
    let (n, fl) := toIntegerR44 w signed r (fpVal fm a)
    change (mergeFlags 0 fl)
    wrX x 4 (extInt w signed n)

/-- FMV: bits moved with no check and no flag (R183). -/
def fmvOp (fm : Fmt) (toF : BitVec 1) (x : XField) (f : FField) : Op Unit := do
  let w := ffWidth (fmtFF fm)
  if toF.toNat == 1 then do
    operands [x] (.f f) false
    let a ← rdX x
    wrF f 4 (box fm (a.toNat % 2 ^ w))
  else do
    operands [] (.xq x) false
    let a ← rdF f
    wrX x 4 (w64 (a.toNat % 2 ^ w))

/-- FADD (R176). -/
def execFadd (fm : Fmt) (rm : BitVec 3) (fd fa fb : FField) (s : State) : Host.Outcome State Fault Refusal :=
  runOp (fpOp2 fm rm fd fa fb exAdd) s

/-- FSUB (R176). -/
def execFsub (fm : Fmt) (rm : BitVec 3) (fd fa fb : FField) (s : State) : Host.Outcome State Fault Refusal :=
  runOp (fpOp2 fm rm fd fa fb fun r a b => exAdd r a (negV b)) s

/-- FMUL (R176). -/
def execFmul (fm : Fmt) (rm : BitVec 3) (fd fa fb : FField) (s : State) : Host.Outcome State Fault Refusal :=
  runOp (fpOp2 fm rm fd fa fb fun _ a b => exMul a b) s

/-- FDIV (R176, R170). -/
def execFdiv (fm : Fmt) (rm : BitVec 3) (fd fa fb : FField) (s : State) : Host.Outcome State Fault Refusal :=
  runOp (fdivOp fm rm fd fa fb) s

/-- FSQRT (R176, R170). -/
def execFsqrt (fm : Fmt) (rm : BitVec 3) (fd fa : FField) (s : State) : Host.Outcome State Fault Refusal :=
  runOp (fsqrtOp fm rm fd fa) s

/-- FMA: a × b + c (R176). -/
def execFma (fm : Fmt) (rm : BitVec 3) (fd fa fb fc : FField) (s : State) : Host.Outcome State Fault Refusal :=
  runOp (fpOp3 fm rm fd fa fb fc exFma) s

/-- FMS: a × b − c (R176). -/
def execFms (fm : Fmt) (rm : BitVec 3) (fd fa fb fc : FField) (s : State) : Host.Outcome State Fault Refusal :=
  runOp (fpOp3 fm rm fd fa fb fc fun r a b c => exFma r a b (negV c)) s

/-- FNMA: −(a × b) + c (R176). -/
def execFnma (fm : Fmt) (rm : BitVec 3) (fd fa fb fc : FField) (s : State) : Host.Outcome State Fault Refusal :=
  runOp (fpOp3 fm rm fd fa fb fc fun r a b c => exFma r (negV a) b c) s

/-- FNMS: −(a × b) − c (R176). -/
def execFnms (fm : Fmt) (rm : BitVec 3) (fd fa fb fc : FField) (s : State) : Host.Outcome State Fault Refusal :=
  runOp (fpOp3 fm rm fd fa fb fc fun r a b c => exFma r (negV a) b (negV c)) s

/-- FMINMAX (R177). -/
def execFminmax (fm : Fmt) (v : BitVec 3) (fd fa fb : FField) (s : State) : Host.Outcome State Fault Refusal :=
  runOp (fminmaxOp fm v fd fa fb) s

/-- FSGN (R178). -/
def execFsgn (fm : Fmt) (v : BitVec 3) (fd fa fb : FField) (s : State) : Host.Outcome State Fault Refusal :=
  runOp (fsgnOp fm v fd fa fb) s

/-- FCMP (R179). -/
def execFcmp (fm : Fmt) (c : BitVec 3) (pd : PField) (fa fb : FField) (s : State) : Host.Outcome State Fault Refusal :=
  runOp (fcmpOp fm c pd fa fb) s

/-- FCLASS (R180). -/
def execFclass (fm : Fmt) (rd : XField) (fs : FField) (s : State) : Host.Outcome State Fault Refusal :=
  runOp (fclassOp fm rd fs) s

/-- FCVT (R181). -/
def execFcvt (dst src : Fmt) (rm : BitVec 3) (fd fa : FField) (s : State) : Host.Outcome State Fault Refusal :=
  runOp (fcvtOp dst src rm fd fa) s

/-- FCVTI (R182). -/
def execFcvti (fm : Fmt) (rm : BitVec 3) (toF : BitVec 1) (ty : BitVec 2) (x : XField) (f : FField)
    (s : State) : Host.Outcome State Fault Refusal :=
  runOp (fcvtiOp fm rm toF ty x f) s

/-- FMV (R183). -/
def execFmv (fm : Fmt) (toF : BitVec 1) (x : XField) (f : FField) (s : State) : Host.Outcome State Fault Refusal :=
  runOp (fmvOp fm toF x f) s

end Sys2Proof.Machine
end

