-- ==== Sys2Proof/Machine/Vector.lean ====
section
/-! DEFINITION. Vector instructions (spec 09 R185-R200, R205; 02 R43, R51, R52). -/

namespace Sys2Proof.Machine

/-! ## Elements and masks (R185, R186) -/

/-- Bits of an element at an ew code. -/
def ewBits (ew : BitVec 2) : Nat := 8 * 2 ^ ew.toNat

/-- Element i of width w. -/
def velem (v : Vec) (w i : Nat) : Nat := v.toNat / 2 ^ (w * i) % 2 ^ w

/-- The register whose elements of width w, at the listed indices, hold the listed values; zero elsewhere. -/
def vplace (w : Nat) : List (Nat × Nat) → Nat
  | [] => 0
  | (i, x) :: r => (x % 2 ^ w) * 2 ^ (w * i) + vplace w r

/-- The bits of the elements of width w at the listed indices. -/
def vbits (w : Nat) (is : List Nat) : Vec := BitVec.ofNat 512 (vplace w (is.map fun i => (i, 2 ^ w - 1)))

/-- Whether element i is active under a mask field (R186). -/
def vactive (s : State) (vm : BitVec 2) (i : Nat) : Bool :=
  vm.toNat == 0 || (getV (curSlot s) (28 + vm.toNat)).getLsbD i

/-- The active indices below n. -/
def actives (s : State) (vm : BitVec 2) (n : Nat) : List Nat := (List.range n).filter (vactive s vm)

/-- Writes computed elements of width w, and merges the flags they raised. -/
def putElems (vd : FField) (lat w : Nat) (es : List (Nat × Nat × Flags)) : Op Unit := do
  change (mergeFlags 0 (es.foldl (fun a e => a ||| e.2.2) 0))
  wrV vd lat (vbits w (es.map fun e => e.1)) (BitVec.ofNat 512 (vplace w (es.map fun e => (e.1, e.2.1))))

/-- An element-wise form: for each active element, a function of its index and the values of va, vb and vd. -/
def vmapOp (a : Av) (lat : Nat) (f : State → Vec → Vec → Vec → Nat → Nat × Flags) : Op Unit := do
  operands [] (.v a.vd) false
  let s ← look
  let x ← rdV a.va
  let y ← rdV a.vb
  let d ← rdV a.vd
  putElems a.vd lat (ewBits a.ew) ((actives s a.vm (elems a.ew)).map fun i => (i, f s x y d i))

/-- The format an element width and variant select (R185). -/
def vfmt (ew : BitVec 2) (variant : Bool) : FF :=
  match ew.toNat with
  | 0 => if variant then fe5m2 else fe4m3
  | 1 => if variant then bf16 else fp16
  | 2 => fp32
  | _ => fp64

/-- FPCTL.RM (R187). -/
def vrm (s : State) : Rm :=
  match curRm s 5 with
  | some r => r
  | none => .rne

/-! ## Integer arithmetic (R188) -/

/-- An integer clamped to [lo, hi], with SAT when it was outside. -/
def clampI (w : Nat) (lo hi i : Int) : Nat × Flags :=
  if i < lo then (ofInt w lo, fSAT) else if hi < i then (ofInt w hi, fSAT) else (ofInt w i, 0)

/-- The operation fn on elements of width w. -/
def vintElem (fn w a b : Nat) : Nat × Flags :=
  let sa := toSigned w a
  let sb := toSigned w b
  let sh := b % w
  let lo : Int := -(2 ^ (w - 1))
  let hi : Int := 2 ^ (w - 1) - 1
  let uhi : Int := 2 ^ w - 1
  match fn with
  | 0 => (ofInt w (a + b), 0)
  | 1 => (ofInt w ((a : Int) - b), 0)
  | 2 => (ofInt w (a * b), 0)
  | 3 => (ofInt w (sa * sb / 2 ^ w), 0)
  | 4 => (a * b / 2 ^ w, 0)
  | 5 => (if sa ≤ sb then a else b, 0)
  | 6 => (if sa ≤ sb then b else a, 0)
  | 7 => (if a ≤ b then a else b, 0)
  | 8 => (if a ≤ b then b else a, 0)
  | 9 => (Nat.land a b, 0)
  | 10 => (Nat.lor a b, 0)
  | 11 => (Nat.xor a b, 0)
  | 12 => (Nat.land a (2 ^ w - 1 - b), 0)
  | 13 => (a * 2 ^ sh % 2 ^ w, 0)
  | 14 => (a / 2 ^ sh, 0)
  | 15 => (ofInt w (sa / 2 ^ sh), 0)
  | 16 => clampI w lo hi (sa + sb)
  | 17 => clampI w lo hi (sa - sb)
  | 18 => clampI w lo hi (sa * sb)
  | 19 => clampI w 0 uhi (a + b)
  | _ => clampI w 0 uhi ((a : Int) - b)

/-- VINT (R188). -/
def execVint (a : Av) (s : State) : Host.Outcome State Fault Refusal :=
  runOp (vmapOp a 2 fun _ x y _ i =>
    vintElem a.fn.toNat (ewBits a.ew) (velem x (ewBits a.ew) i) (velem y (ewBits a.ew) i)) s

/-! ## Floating-point arithmetic (R189, R190) -/

/-- Delivers an element (R187, 02 R42). -/
def deliverV (F : FF) (s : State) (sat : Bool) (e : Ex × Flags) : Nat × Flags :=
  let (b, fl) := deliver F (vrm s) (sat || curSatn s) e.1
  (b, e.2 ||| fl)

/-- The operation fn[2:0] of VFP on encodings. -/
def vfpElem (F : FF) (s : State) (op : Nat) (sat : Bool) (x y : Nat) : Nat × Flags :=
  let a := ffDecode F x
  let b := ffDecode F y
  match op with
  | 0 => deliverV F s sat (exAdd (vrm s) a b)
  | 1 => deliverV F s sat (exAdd (vrm s) a (negV b))
  | 2 => deliverV F s sat (exMul a b)
  | 3 => fminmaxBits F 0 x y
  | 4 => fminmaxBits F 1 x y
  | 5 => (x % ffSign F true, 0)
  | _ => (Nat.xor x (ffSign F true), 0)

/-- VFP (R189). -/
def execVfp (a : Av) (s : State) : Host.Outcome State Fault Refusal :=
  runOp (vmapOp a 4 fun s x y _ i =>
    vfpElem (vfmt a.ew (a.fn.getLsbD 3)) s (a.fn.toNat % 8) (a.fn.getLsbD 4) (velem x (ewBits a.ew) i)
      (velem y (ewBits a.ew) i)) s

/-- ±(a × b) ± d: fn[1:0] 0 fma, 1 fms, 2 fnma, 3 fnms. -/
def vfmaElem (F : FF) (s : State) (op : Nat) (sat : Bool) (x y d : Nat) : Nat × Flags :=
  let a := ffDecode F x
  let c := ffDecode F d
  deliverV F s sat (exFma (vrm s) (if 2 ≤ op then negV a else a) (ffDecode F y) (if op % 2 == 1 then negV c else c))

/-- VFMA: the accumulator is the destination (R190). -/
def execVfma (a : Av) (s : State) : Host.Outcome State Fault Refusal :=
  runOp (vmapOp a 4 fun s x y d i =>
    vfmaElem (vfmt a.ew (a.fn.getLsbD 3)) s (a.fn.toNat % 4) (a.fn.getLsbD 4) (velem x (ewBits a.ew) i)
      (velem y (ewBits a.ew) i) (velem d (ewBits a.ew) i)) s

/-! ## Comparison and selection (R191, R192) -/

/-- A comparison: bit i of vd for each active element i; bits n and up cleared. -/
def vcmpOp (a : Av) (lat : Nat) (f : Nat → Nat → Bool × Flags) : Op Unit := do
  operands [] (.v a.vd) false
  let s ← look
  let x ← rdV a.va
  let y ← rdV a.vb
  let n := elems a.ew
  let es := (actives s a.vm n).map fun i =>
    (i, f (velem x (ewBits a.ew) i) (velem y (ewBits a.ew) i))
  change (mergeFlags 0 (es.foldl (fun m e => m ||| e.2.2) 0))
  let high := (2 ^ 512 - 1) / 2 ^ n * 2 ^ n
  wrV a.vd lat (vbits 1 (es.map fun e => e.1) ||| BitVec.ofNat 512 high)
    (BitVec.ofNat 512 (vplace 1 (es.map fun e => (e.1, if e.2.1 then 1 else 0))))

/-- VCMP conditions on elements of width w. -/
def vcmpElem (c w a b : Nat) : Bool :=
  match c with
  | 0 => a == b
  | 1 => a != b
  | 2 => decide (toSigned w a < toSigned w b)
  | 3 => decide (toSigned w b ≤ toSigned w a)
  | 4 => decide (a < b)
  | _ => decide (b ≤ a)

/-- VCMP (R191). -/
def execVcmp (a : Av) (s : State) : Host.Outcome State Fault Refusal :=
  runOp (vcmpOp a 2 fun x y => (vcmpElem a.fn.toNat (ewBits a.ew) x y, 0)) s

/-- VFCMP conditions (R191, 08 R179). -/
def vfcmpElem (F : FF) (c x y : Nat) : Bool × Flags :=
  match fcmpV c (ffDecode F x) (ffDecode F y) with
  | some r => r
  | none => (false, 0)

/-- VFCMP (R191). -/
def execVfcmp (a : Av) (s : State) : Host.Outcome State Fault Refusal :=
  runOp (vcmpOp a 4 (vfcmpElem (vfmt a.ew (a.fn.getLsbD 3)) (a.fn.toNat % 8))) s

/-- VSEL: the mask chooses, every element is written (R192). -/
def vselOp (a : Av) : Op Unit := do
  operands [] (.v a.vd) false
  let s ← look
  let x ← rdV a.va
  let y ← rdV a.vb
  putElems a.vd 2 (ewBits a.ew) ((List.range (elems a.ew)).map fun i =>
    (i, velem (if vactive s a.vm i then x else y) (ewBits a.ew) i, 0))

/-- VSEL (R192). -/
def execVsel (a : Av) (s : State) : Host.Outcome State Fault Refusal := runOp (vselOp a) s

/-! ## Reductions (R193, 02 R51) -/

/-- Combine of R51: an empty side passes the other on. -/
def combine (f : Nat → Nat → Nat × Flags) (a b : Option (Nat × Flags)) : Option (Nat × Flags) :=
  match a, b with
  | none, b => b
  | a, none => a
  | some (x, p), some (y, q) => some ((f x y).1, p ||| q ||| (f x y).2)

/-- One level of the tree. -/
def treeLevel (f : Nat → Nat → Nat × Flags) : List (Option (Nat × Flags)) → List (Option (Nat × Flags))
  | a :: b :: r => combine f a b :: treeLevel f r
  | l => l

/-- The fixed binary tree over 2^k elements. -/
def treeReduce (f : Nat → Nat → Nat × Flags) : Nat → List (Option (Nat × Flags)) → Option (Nat × Flags)
  | 0, l => l.headD none
  | k + 1, l => treeReduce f k (treeLevel f l)

/-- The integer operation of VRED. -/
def vredInt (op w a b : Nat) : Nat × Flags :=
  match op with
  | 0 => vintElem 0 w a b
  | 1 => vintElem 5 w a b
  | 2 => vintElem 6 w a b
  | 3 => vintElem 7 w a b
  | 4 => vintElem 8 w a b
  | 5 => vintElem 9 w a b
  | 6 => vintElem 10 w a b
  | _ => vintElem 11 w a b

/-- The floating-point operation of VRED: fadd, fmin, fmax. -/
def vredFp (F : FF) (s : State) (op x y : Nat) : Nat × Flags :=
  match op with
  | 0 => vfpElem F s 0 false x y
  | 1 => fminmaxBits F 0 x y
  | _ => fminmaxBits F 1 x y

/-- The accumulator passed on alone: unchanged, but a NaN is written canonical, signalling raising NV (R193). -/
def vredAlone (fp : Bool) (F : FF) (b : Nat) : Nat × Flags :=
  if fp then
    match ffDecode F b with
    | .nan sig => (ffNaN F, if sig then fNV else 0)
    | .inf _ => (b, 0)
    | .fin _ _ _ => (b, 0)
  else (b, 0)

/-- VRED. -/
def vredOp (a : Av) : Op Unit := do
  operands [] (.v a.vd) false
  let s ← look
  let x ← rdV a.va
  let y ← rdV a.vb
  let w := ewBits a.ew
  let fp := a.fn.getLsbD 4
  let F := vfmt a.ew (fp && a.fn.getLsbD 3)
  let f := if fp then vredFp F s (a.fn.toNat % 8) else vredInt (a.fn.toNat % 8) w
  let es := (List.range (elems a.ew)).map fun i =>
    if vactive s a.vm i then some (velem x w i, (0 : Flags)) else none
  let b0 := velem y w 0
  let (r, fl) := match treeReduce f (6 - a.ew.toNat) es with
    | none => vredAlone fp F b0
    | some (t, p) => ((f t b0).1, p ||| (f t b0).2)
  putElems a.vd (if fp then 4 else 2) w [(0, r, fl)]

/-- VRED (R193). -/
def execVred (a : Av) (s : State) : Host.Outcome State Fault Refusal := runOp (vredOp a) s

/-! ## Dot products (R194, 02 R52) -/

/-- A lane of the floating-point VDOT: the exact sum of the products and the lane, rounded once to FP32. -/
def vdotFp (s : State) (Fa Fb : FF) (ps : List (Nat × Nat)) (lane : Nat) : Nat × Flags :=
  let terms := ps.map fun p => mulV (ffDecode Fa p.1) (ffDecode Fb p.2)
  let l := ffDecode fp32 lane
  let acc := (terms.map fun t => t.1).foldl accAdd (accAdd accZero l)
  let posZero := (terms.map fun t => t.1 == .fin false 0 0 || (isZeroV t.1 && !signV t.1)).all id &&
    isZeroV l && !signV l
  let (v, f1) := accValue (vrm s) acc posZero
  let f0 := terms.foldl (fun f t => f ||| t.2) (nvSig l)
  let (b, f2) := deliver fp32 (vrm s) false (exOf v)
  (b, f0 ||| f1 ||| f2)

/-- A lane of the integer VDOT. -/
def vdotInt (w : Nat) (ua ub sat : Bool) (ps : List (Nat × Nat)) (lane : Nat) : Nat × Flags :=
  let rd := fun (u : Bool) (n : Nat) => if u then (n : Int) else toSigned w n
  let sum := ps.foldl (fun (t : Int) p => t + rd ua p.1 * rd ub p.2) (toSigned 32 lane)
  if sat then clampI 32 (-(2 ^ 31)) (2 ^ 31 - 1) sum else (ofInt 32 sum, 0)

/-- VDOT. -/
def vdotOp (a : Av) : Op Unit := do
  operands [] (.v a.vd) false
  let s ← look
  let x ← rdV a.va
  let y ← rdV a.vb
  let d ← rdV a.vd
  let w := ewBits a.ew
  let k := 32 / w
  let int := a.fn.getLsbD 2
  let lane := fun (j : Nat) =>
    let ps := (List.range k).map fun i => (velem x w (j * k + i), velem y w (j * k + i))
    if int then vdotInt w (a.fn.getLsbD 0) (a.fn.getLsbD 1) (a.fn.getLsbD 3) ps (velem d 32 j)
    else vdotFp s (vfmt a.ew (a.fn.getLsbD 0)) (vfmt a.ew (a.fn.getLsbD 1)) ps (velem d 32 j)
  putElems a.vd (if int then 2 else 4) 32 ((actives s a.vm 16).map fun j => (j, lane j))

/-- VDOT (R194). -/
def execVdot (a : Av) (s : State) : Host.Outcome State Fault Refusal := runOp (vdotOp a) s

/-! ## Conversions and scaling (R195-R197) -/

/-- An element type of VCVT. -/
inductive VType where
  | fp (F : FF)
  | int (w : Nat)
  | e8m0
deriving DecidableEq, Repr

def vtBits : VType → Nat
  | .fp F => ffWidth F
  | .int w => w
  | .e8m0 => 8

/-- Destination and source of a VCVT code (R195). -/
def vcvtPair (fn : Nat) : VType × VType :=
  match fn with
  | 0 => (.fp fp64, .fp fp32)
  | 1 => (.fp fp32, .fp fp64)
  | 2 => (.fp fp32, .fp fp16)
  | 3 => (.fp fp16, .fp fp32)
  | 4 => (.fp fp32, .fp bf16)
  | 5 => (.fp bf16, .fp fp32)
  | 6 => (.fp fp16, .fp bf16)
  | 7 => (.fp bf16, .fp fp16)
  | 8 => (.fp fp16, .fp fe4m3)
  | 9 => (.fp fe4m3, .fp fp16)
  | 10 => (.fp bf16, .fp fe4m3)
  | 11 => (.fp fe4m3, .fp bf16)
  | 12 => (.fp fp16, .fp fe5m2)
  | 13 => (.fp fe5m2, .fp fp16)
  | 14 => (.fp fp32, .fp fe4m3)
  | 15 => (.fp fe4m3, .fp fp32)
  | 16 => (.fp fp32, .fp fe5m2)
  | 17 => (.fp fe5m2, .fp fp32)
  | 18 => (.fp fp16, .fp fe2m1)
  | 19 => (.fp fe2m1, .fp fp16)
  | 20 => (.fp fe4m3, .fp fe2m1)
  | 21 => (.fp fe2m1, .fp fe4m3)
  | 22 => (.fp fp32, .e8m0)
  | 23 => (.e8m0, .fp fp32)
  | 24 => (.fp fp64, .int 64)
  | 25 => (.int 64, .fp fp64)
  | 26 => (.fp fp32, .int 32)
  | 27 => (.int 32, .fp fp32)
  | 28 => (.fp fp32, .int 8)
  | 29 => (.int 8, .fp fp32)
  | 30 => (.fp fp16, .int 16)
  | _ => (.int 16, .fp fp16)

/-- One element converted (R195). -/
def vcvtElem (dst src : VType) (rm : Rm) (sat uns : Bool) (x : Nat) : Nat × Flags :=
  match dst, src with
  | .fp D, .fp S => deliver D rm sat (exOf (ffDecode S x))
  | .fp D, .int w => deliver D rm sat (exInt (if uns then (x : Int) else toSigned w x))
  | .fp D, .e8m0 => deliver D rm sat (exOf (e8m0Decode x))
  | .int w, .fp S => toIntegerR44 w (!uns) rm (ffDecode S x)
  | .e8m0, .fp S => toE8m0 (ffDecode S x)
  | .int _, .int _ => (x, 0)
  | .int _, .e8m0 => (x, 0)
  | .e8m0, .int _ => (x, 0)
  | .e8m0, .e8m0 => (x, 0)

/-- VCVT with the matching of elements of R196. -/
def vcvtOp (a : Av) : Op Unit := do
  operands [] (.v a.vd) false
  let s ← look
  let x ← rdV a.va
  match curRm s (a.vb.toNat % 8) with
  | none => raise tIllegal
  | some rm =>
    let (dst, src) := vcvtPair a.fn.toNat
    let wd := vtBits dst
    let ws := vtBits src
    let p := a.vb.toNat / 8
    let n := 512 / (if wd < ws then ws else wd)
    let sat := a.ew.getLsbD 1 || curSatn s
    let place := fun (j : Nat) => if wd < ws then p * n + j else j
    let from_ := fun (j : Nat) => if ws < wd then p * n + j else j
    let js := (List.range n).filter fun j => vactive s a.vm (place j)
    putElems a.vd 4 wd (js.map fun j => (place j, vcvtElem dst src rm sat (a.ew.getLsbD 0) (velem x ws (from_ j))))

/-- VCVT (R195, R196). -/
def execVcvt (a : Av) (s : State) : Host.Outcome State Fault Refusal := runOp (vcvtOp a) s

/-- The block length of VSCALE. -/
def scaleBlock (n : Nat) : Nat :=
  match n with
  | 0 => 1
  | 1 => 8
  | 2 => 16
  | _ => 32

/-- VSCALE (R197). -/
def execVscale (a : Av) (s : State) : Host.Outcome State Fault Refusal :=
  runOp (vmapOp a 4 fun s x y _ i =>
    let F := vfmt a.ew (a.fn.getLsbD 2)
    deliverV F s (a.fn.getLsbD 3)
      (exMul (ffDecode F (velem x (ewBits a.ew) i)) (e8m0Decode (velem y 8 (i / scaleBlock (a.fn.toNat % 4)))))) s

/-! ## Moving elements (R198, R199) -/

/-- VPERM (R198). -/
def execVperm (a : Av) (s : State) : Host.Outcome State Fault Refusal :=
  runOp (vmapOp a 2 fun _ x y _ i =>
    let w := ewBits a.ew
    let j := velem y w i
    (if elems a.ew ≤ j then 0 else velem x w j, 0)) s

/-- VSLIDE: down brings a[i + k], up brings a[i − k], zero from outside (R198). -/
def execVslide (a : Av) (s : State) : Host.Outcome State Fault Refusal :=
  runOp (vmapOp a 2 fun _ x _ _ i =>
    let w := ewBits a.ew
    let k := a.fn.toNat % 2 * 32 + a.vb.toNat
    (if a.fn.getLsbD 1 then (if i < k then 0 else velem x w (i - k))
     else if elems a.ew ≤ i + k then 0 else velem x w (i + k), 0)) s

/-- VBCAST (R198). -/
def execVbcast (a : Av) (s : State) : Host.Outcome State Fault Refusal :=
  runOp (vmapOp a 2 fun _ x _ _ _ =>
    (velem x (ewBits a.ew) (a.fn.toNat % 2 * 32 + a.vb.toNat), 0)) s

/-- VMOVX (R199): 0 and 1 read an element, 2 inserts one, 3 broadcasts. -/
def vmovxOp (x : XField) (v : FField) (e : BitVec 6) (ew : BitVec 2) (fn : BitVec 5) : Op Unit := do
  let w := ewBits ew
  if fn.toNat < 2 then do
    operands [] (.x x) false
    let y ← rdV v
    let n := velem y w e.toNat
    wrX x 2 (if fn.toNat == 0 then sext64 w n else w64 n)
  else do
    operands [x] (.v v) false
    let y ← rdX x
    putElems v 2 w ((if fn.toNat == 2 then [e.toNat] else List.range (elems ew)).map fun i =>
      (i, y.toNat % 2 ^ w, 0))

/-- VMOVX (R199). -/
def execVmovx (x : XField) (v : FField) (e : BitVec 6) (ew : BitVec 2) (fn : BitVec 5) (s : State) :
    Host.Outcome State Fault Refusal :=
  runOp (vmovxOp x v e ew fn) s

/-- VMASK: the truth table fn[3:0] on every bit (R200). -/
def vmaskBits (tt : BitVec 5) (x y : Vec) : Vec :=
  let t := fun (k : Nat) => if tt.getLsbD k then BitVec.allOnes 512 else 0#512
  (t 3 &&& x &&& y) ||| (t 2 &&& x &&& ~~~y) ||| (t 1 &&& ~~~x &&& y) ||| (t 0 &&& ~~~x &&& ~~~y)

def vmaskOp (a : Av) : Op Unit := do
  operands [] (.v a.vd) false
  let x ← rdV a.va
  let y ← rdV a.vb
  wrV a.vd 2 (BitVec.allOnes 512) (vmaskBits a.fn x y)

/-- VMASK (R200). -/
def execVmask (a : Av) (s : State) : Host.Outcome State Fault Refusal := runOp (vmaskOp a) s

/-- VIOTA: indices, or counts of the set bits below each index (R200). -/
def execViota (a : Av) (s : State) : Host.Outcome State Fault Refusal :=
  runOp (vmapOp a 2 fun _ x _ _ i =>
    (if a.fn.toNat == 0 then i else popFrom x.toNat i, 0)) s

/-! ## Exchange within a gang (R205) -/

/-- The member index of a core in its gang. -/
def gangIndex (g : Gang) (core : Nat) : Nat := core - g.base

/-- The member whose element a pattern names. -/
def vxchFrom (pat m d size : Nat) : Nat :=
  match pat with
  | 0 => Nat.xor m d
  | 1 => (m + size - d % size) % size
  | _ => d

def vxchOp (a : Av) : Op Unit := do
  let s ← look
  match (getCore s s.cur.core).gang with
  | none => operands [] (.v a.vd) true
  | some g => do
    operands [] (.v a.vd) (decide (g.size ≤ a.vb.toNat))
    let m := vxchFrom (a.fn.toNat % 4) (gangIndex g s.cur.core) a.vb.toNat g.size
    let x := getV (getSlot s (g.base + m) (g.slots.getD m 0)) a.va.toNat
    let w := ewBits a.ew
    putElems a.vd 2 w ((actives s a.vm (elems a.ew)).map fun i => (i, velem x w i, 0))

/-- VXCH (R205): illegal outside a gang. -/
def execVxch (a : Av) (s : State) : Host.Outcome State Fault Refusal := runOp (vxchOp a) s

end Sys2Proof.Machine
end

