-- ==== Sys2Proof/Machine/LoadStore.lean ====
section
/-! DEFINITION. Loads and stores of the core (spec 07 R146-R154, 04 R86, R98): address classes, checks, local accesses at
issue, and remote accesses put in flight. -/

namespace Sys2Proof.Machine

/-! ## One access -/

/-- Records an access in SPBAD while it holds none (07 R148). -/
def recordSpbad (s : State) (wr : Bool) (a : Nat) : State :=
  modCur s fun t =>
    if t.spbad.getLsbD 63 then t
    else { t with spbad := w64 (2 ^ 63 + (if wr then 2 ^ 62 else 0) + a % 2 ^ 32) }

/-- Whether an earlier bundle of the task sent to a place what has not been performed there. -/
def behindAt (s : State) (p : Place) : Bool :=
  let ch : Chan := ⟨taskSrc s.cur.core (curSlot s).gtid, p⟩
  (s.flights.any fun f => f.chan == some ch && decide (f.id < s.cur.first)) ||
    ((getCore s s.cur.core).heldRel.any fun h => h.src == ch.src && h.dst == ch.dst && decide (h.num < s.cur.first))

/-- The same of the task's own core: accesses to one destination keep issue order (13 R256). -/
def behindOwn (s : State) : Bool := behindAt s (.core s.cur.core)

/-- Whether an earlier element of the same bundle goes to the task's own scratchpad through the cluster window. -/
def elementAhead (s : State) : Bool :=
  let ch : Chan := ⟨taskSrc s.cur.core (curSlot s).gtid, .core s.cur.core⟩
  (s.flights.any fun f => f.chan == some ch && decide (s.cur.first ≤ f.id)) ||
    ((getCore s s.cur.core).heldRel.any fun h => h.src == ch.src && h.dst == ch.dst && decide (s.cur.first ≤ h.num))

/-- What an access of a load gave: bytes at once, or a reply to come from a place. -/
inductive Got where
  | now (d : List Byte)
  | coming (p : List Place)
deriving DecidableEq, Repr

/-- A reply with bytes known now, for accesses that reach no memory of their own. -/
def replyNow (idx : Nat) (d : List Byte) : Op Got := do
  change fun s => later s (.loadReply ⟨curWho s, idx, BitVec.ofNat 512 (leNat d), false⟩)
  pure (.coming [])

/-- A remote read in flight. -/
def readFrom (loc : Loc) (acc : Option AccPage) (ea : Word) (size idx : Nat) : Op Got := do
  change fun s =>
    taskSend s s.cur.core (curSlot s).gtid (locPlace loc) (.remoteRead ⟨curWho s, loc, acc, ea, size, idx⟩)
  pure (.coming [locPlace loc])

/-- One aligned load access of `size` bytes, element `idx` of its load (07 R149). -/
def loadOne (ea : Word) (size idx : Nat) : Op Got := do
  let a := ea.toNat
  trapIf (a % size != 0) (tMisalign ea)
  let s ← look
  let c := s.cur.core
  match classify a with
  | .localSp => do
    trapIf (spBad s c a size) (tUncorr ea)
    stallIf (behindOwn s)
    pure (.now (spRead s c a size))
  | .window =>
    let wc := windowCore c a
    if liveCore s wc then do
      trapIf (spBad s wc (windowAddr a) size) (tUncorr ea)
      readFrom (.sp wc (windowAddr a)) none ea size idx
    else do
      change fun s => recordSpbad s false a
      replyNow idx (List.replicate size 0#8)
  | .progView => replyNow idx (mgets (getCluster s (clusterOf c)).prog (a - 0x8000000) size)
  | .hole => do
    change fun s => recordSpbad s false a
    replyNow idx (List.replicate size 0#8)
  | .device => do
    let (loc, acc) ← devAccess .load a size
    let bad := match loc with
      | .sp _ _ => false
      | .phys pa _ => physBad s pa size
      | .held _ _ pa _ => physBad s pa size
    trapIf bad (tUncorr ea)
    readFrom loc acc ea size idx
  | .nonCanon => raise (tXlate 0 0 ea)

/-- A posted write of the task, counted until acknowledged (12 R237); it does not issue while the count is full or the
hold queue of its page refuses it (04 R103). -/
def postWrite (kind : WKind) (loc : Loc) (acc : Option AccPage) (ea : Word) (d : List Byte) (stnMsg : Bool) : Op Unit := do
  let s ← look
  stallIf (oscFull s || holdRefuses s loc (rootOf s (curSlot s).region) ea.toNat)
  trapIf (decide (d.length < 64) && locBad s loc d.length) (tUncorr ea)
  change fun s =>
    let w : WritePkt := ⟨curWho s, kind, loc, acc, ea, d⟩
    let k := match kind with
      | .stn _ => OutKind.stn
      | .store => .store
      | .row => .store
      | .sub _ _ => .store
    let s1 := addOut s s.cur.core s.cur.slot k [locPlace loc] [(ea.toNat, d.length)] .none .none 0 false
    taskSend s1 s.cur.core (curSlot s).gtid (locPlace loc) (if stnMsg then .stnMessage w else .remoteWrite w)

/-- A write below 2^32 that reaches nothing: dropped and recorded (07 R146, R148). -/
def dropWrite (a : Nat) : Op Unit := change fun s => recordSpbad s true a

/-- A write of the owning core into its scratchpad, with the check of delivered windows (07 R146, 05 R126) and of poison that
it would leave (R149, 19 R351); it stays behind the bundle's own elements on their way there (R154). -/
def localWrite (a : Nat) (d : List Byte) : Op Unit := do
  let s ← look
  let c := s.cur.core
  if inMailbox a d.length then dropWrite a
  else do
    match windowRefusal s c a d.length true with
    | some (det, at_) => raise (tRange det (w64 at_))
    | none => do
      trapIf (decide (d.length < 64) && spBad s c a d.length) (tUncorr (w64 a))
      stallIf (behindOwn s)
      change fun s =>
        if elementAhead s then
          taskSend s c (curSlot s).gtid (.core c) (.remoteWrite ⟨{ curWho s with item := 2 ^ 31 }, .store, .sp c a, none, w64 a, d⟩)
        else
          let s1 := undoRecord s c s.cur.slot a d.length
          markDirty (spWrite s1 c a (localIndex s (clusterOf c) (curSlot s).region) d) c a d.length

/-- The check of delivered windows for a core's write to its own scratchpad through the cluster window (05 R126). -/
def ownWindow (wc a n : Nat) : Op Unit := do
  let s ← look
  match if wc == s.cur.core then windowRefusal s wc a n true else none with
  | some (det, at_) => raise (tRange det (w64 at_))
  | none => pure ()

/-- One aligned store access (07 R149, R150). -/
def storeOne (ea : Word) (d : List Byte) : Op Unit := do
  let a := ea.toNat
  trapIf (a % d.length != 0) (tMisalign ea)
  let s ← look
  let c := s.cur.core
  match classify a with
  | .localSp => localWrite a d
  | .window =>
    let wc := windowCore c a
    ownWindow wc (windowAddr a) d.length
    if liveCore s wc && !inMailbox (windowAddr a) d.length then
      postWrite .store (.sp wc (windowAddr a)) none ea d false
    else dropWrite a
  | .progView => dropWrite a
  | .hole => dropWrite a
  | .device => do
    let (loc, acc) ← devAccess .store a d.length
    postWrite .store loc acc ea d false
  | .nonCanon => raise (tXlate 0 0 ea)

/-- A nibble store to the byte at `ea` (07 R152). -/
def nibbleOne (ea : Word) (hi : Bool) (v : Nat) : Op Unit := do
  let a := ea.toNat
  let s ← look
  let c := s.cur.core
  match classify a with
  | .localSp => localWrite a [putNibble hi (mget (getCore s c).sp a) v]
  | .window =>
    let wc := windowCore c a
    ownWindow wc (windowAddr a) 1
    if liveCore s wc && !inMailbox (windowAddr a) 1 then
      postWrite (.stn hi) (.sp wc (windowAddr a)) none ea [BitVec.ofNat 8 (v % 16)] true
    else dropWrite a
  | .progView => dropWrite a
  | .hole => dropWrite a
  | .device => do
    let (loc, acc) ← devAccess .store a 1
    postWrite (.stn hi) loc acc ea [BitVec.ofNat 8 (v % 16)] false
  | .nonCanon => raise (tXlate 0 0 ea)

/-! ## Scalar and floating-point forms (07 R149, R151) -/

/-- The register value a load's bytes make (07 R149, 02 R34). -/
def formValue (f : LoadForm) (d : Nat) : Vec :=
  match f with
  | .scalar size signed =>
    BitVec.ofNat 512 (if signed then (sext64 (8 * size) d).toNat else d % 2 ^ (8 * size))
  | .float size => BitVec.ofNat 512 (if size == 4 then (box .s d).toNat else d % 2 ^ 64)
  | .vector _ => BitVec.ofNat 512 d
  | .none => 0#512

/-- A load of one access: latency 4 if local, otherwise pending until its reply (03 R73, R75). -/
def loadTo (ea : Word) (size : Nat) (d : RegId) (f : LoadForm) : Op Unit := do
  let g ← loadOne ea size 0
  match g with
  | .now bs => change fun s => writeLate s d 4 (formValue f (leNat bs))
  | .coming ps =>
    change fun s =>
      let s1 := addOut s s.cur.core s.cur.slot .load ps [] d f 1 false
      modCur s1 fun t => setPending t d

/-- How many of a store's accesses would count in OSC: remote and device ones (12 R237). -/
def countsOut (s : State) (es : List Nat) : Nat :=
  (es.filter fun a => match classify a with
    | .window => liveCore s (windowCore s.cur.core a) && !inMailbox (windowAddr a) 1
    | .device => true
    | .localSp | .progView | .hole | .nonCanon => false).length

/-- A store's bundle does not issue while its accesses would take COUNT above 1,024 (12 R237). -/
def outRoom (es : List Nat) : Op Unit := do
  let s ← look
  stallIf (es != [] && decide (1024 < oscOf (curSlot s) + countsOut s es))

/-- A store of one access. -/
def storeAt (ea : Word) (d : List Byte) : Op Unit := do
  outRoom [ea.toNat]
  storeOne ea d

/-- A CM scalar load. -/
def loadCm (m : Cm) (size : Nat) (signed : Bool) : Op Unit := whenP m.p do
  operands [m.ra] (.x m.rd) false
  let b ← rdChecked m.ra
  loadTo (cmAddr b m.imm size) size (.x m.rd.toNat) (.scalar size signed)

/-- A CM scalar store: the data is popped before the address (03 R69). -/
def storeCm (m : Cm) (size : Nat) : Op Unit := whenP m.p do
  operands [m.rd, m.ra] .none false
  let v ← rdChecked m.rd
  let b ← rdChecked m.ra
  storeAt (cmAddr b m.imm size) (natLe size v.toNat)

/-- FLD. -/
def loadCmF (m : CmF) (size : Nat) : Op Unit := whenP m.p do
  operands [m.ra] (.f m.fd) false
  let b ← rdChecked m.ra
  loadTo (cmAddr b m.imm size) size (.f m.fd.toNat) (.float size)

/-- FST. -/
def storeCmF (m : CmF) (size : Nat) : Op Unit := whenP m.p do
  operands [m.ra] .none false
  let v ← rdF m.fd
  let b ← rdChecked m.ra
  storeAt (cmAddr b m.imm size) (natLe size v.toNat)

/-- The address of LDX and STX (07 R151). -/
def indexAddr (a b : Word) (scaled : BitVec 1) (size : Nat) : Word :=
  if scaled.toNat == 1 then a + b * w64 size else a + b

def ldxOp (rd ra rb : XField) (scaled sext : BitVec 1) (size : BitVec 2) : Op Unit := do
  operands [ra, rb] (.x rd) false
  let a ← rdChecked ra
  let b ← rdChecked rb
  let n := 2 ^ size.toNat
  loadTo (indexAddr a b scaled n) n (.x rd.toNat) (.scalar n (sext.toNat == 1))

def stxOp (rd ra rb : XField) (scaled : BitVec 1) (size : BitVec 2) : Op Unit := do
  operands [rd, ra, rb] .none false
  let v ← rdChecked rd
  let a ← rdChecked ra
  let b ← rdChecked rb
  let n := 2 ^ size.toNat
  storeAt (indexAddr a b scaled n) (natLe n v.toNat)

/-- The byte address of a nibble address (07 R152). -/
def nibbleAddr (a : Word) (imm : BitVec 7) : Word := a.sshiftRight 1 + immS imm

def stnOp (m : Cm) : Op Unit := whenP m.p do
  operands [m.rd, m.ra] .none false
  let v ← rdChecked m.rd
  let a ← rdChecked m.ra
  outRoom [(nibbleAddr a m.imm).toNat]
  nibbleOne (nibbleAddr a m.imm) (a.getLsbD 0) (v.toNat % 16)

/-! ## Vector forms (07 R153, R154) -/

def vldOp (m : CmF) : Op Unit := whenP m.p do
  operands [m.ra] (.v m.fd) false
  let b ← rdChecked m.ra
  loadTo (cmAddr b m.imm 64) 64 (.v m.fd.toNat) (.vector 0)

def vstOp (m : CmF) : Op Unit := whenP m.p do
  operands [m.ra] .none false
  let v ← rdV m.fd
  let b ← rdChecked m.ra
  storeAt (cmAddr b m.imm 64) (natLe 64 v.toNat)

/-- The accesses of a vector load in increasing index, with what each gave. -/
def loadEach (size : Nat) : List (Nat × Word) → Op (List (Nat × Got))
  | [] => pure []
  | (i, ea) :: r => do
    let g ← loadOne ea size i
    let gs ← loadEach size r
    pure ((i, g) :: gs)

/-- A strided or gathered load (07 R154): fixed latency only when every active address is local. -/
def loadElems (vd : FField) (ew : BitVec 2) (es : List (Nat × Word)) : Op Unit := do
  let w := ewBits ew
  let gs ← loadEach (w / 8) es
  let nowVals := gs.filterMap fun g => match g.2 with
    | .now bs => some (g.1, leNat bs)
    | .coming _ => none
  let places := gs.flatMap fun g => match g.2 with
    | .now _ => []
    | .coming ps => ps
  let n := gs.length - nowVals.length
  let mask := vbits w (gs.map fun g => g.1)
  let val := BitVec.ofNat 512 (vplace w nowVals)
  if n == 0 then wrV vd 4 mask val
  else change fun s =>
    let item := (curSlot s).nextItem
    let s1 := addOut s s.cur.core s.cur.slot .load places [] (.v vd.toNat) (.vector w) n false
    modCur s1 fun t => setPending { t with out := t.out.map fun o =>
      if o.id == item then { o with value := val, mask := mask } else o } (.v vd.toNat)

/-- Addresses of a strided form: x[ra] + i × x[rb]. -/
def strideAddrs (s : State) (mask ew : BitVec 2) (a b : Word) : List (Nat × Word) :=
  (actives s mask (elems ew)).map fun i => (i, a + b * w64 i)

/-- Addresses of a gathered or scattered form: x[ra] + index × element size. -/
def indexAddrs (s : State) (mask ew : BitVec 2) (a : Word) (v : Vec) : List (Nat × Word) :=
  (actives s mask (elems ew)).map fun i => (i, a + w64 (velem v (ewBits ew) i * (ewBits ew / 8)))

/-- Stores of the listed elements in increasing index. -/
def storeElems (ew : BitVec 2) (v : Vec) (es : List (Nat × Word)) : Op Unit := do
  outRoom (es.map fun e => e.2.toNat)
  opEach (fun e => storeOne e.2 (natLe (ewBits ew / 8) (velem v (ewBits ew) e.1))) es

def vldsOp (vd : FField) (ra rb : XField) (mask ew : BitVec 2) : Op Unit := do
  operands [ra, rb] (.v vd) false
  let a ← rdChecked ra
  let b ← rdChecked rb
  let s ← look
  loadElems vd ew (strideAddrs s mask ew a b)

def vstsOp (vd : FField) (ra rb : XField) (mask ew : BitVec 2) : Op Unit := do
  operands [ra, rb] .none false
  let v ← rdV vd
  let a ← rdChecked ra
  let b ← rdChecked rb
  let s ← look
  storeElems ew v (strideAddrs s mask ew a b)

def vgathOp (vd : FField) (ra : XField) (vi : FField) (mask ew : BitVec 2) : Op Unit := do
  operands [ra] (.v vd) false
  let a ← rdChecked ra
  let i ← rdV vi
  let s ← look
  loadElems vd ew (indexAddrs s mask ew a i)

def vscatOp (vd : FField) (ra : XField) (vi : FField) (mask ew : BitVec 2) : Op Unit := do
  operands [ra] .none false
  let v ← rdV vd
  let a ← rdChecked ra
  let i ← rdV vi
  let s ← look
  storeElems ew v (indexAddrs s mask ew a i)

/-- LDB (07 R149). -/
def execLdb (m : Cm) (s : State) : Host.Outcome State Fault Refusal :=
  runOp (loadCm m 1 true) s

/-- LDBU (07 R149). -/
def execLdbu (m : Cm) (s : State) : Host.Outcome State Fault Refusal :=
  runOp (loadCm m 1 false) s

/-- LDH (07 R149). -/
def execLdh (m : Cm) (s : State) : Host.Outcome State Fault Refusal :=
  runOp (loadCm m 2 true) s

/-- LDHU (07 R149). -/
def execLdhu (m : Cm) (s : State) : Host.Outcome State Fault Refusal :=
  runOp (loadCm m 2 false) s

/-- LDW (07 R149). -/
def execLdw (m : Cm) (s : State) : Host.Outcome State Fault Refusal :=
  runOp (loadCm m 4 true) s

/-- LDWU (07 R149). -/
def execLdwu (m : Cm) (s : State) : Host.Outcome State Fault Refusal :=
  runOp (loadCm m 4 false) s

/-- LDD (07 R149). -/
def execLdd (m : Cm) (s : State) : Host.Outcome State Fault Refusal :=
  runOp (loadCm m 8 false) s

/-- STB (07 R149). -/
def execStb (m : Cm) (s : State) : Host.Outcome State Fault Refusal :=
  runOp (storeCm m 1) s

/-- STH (07 R149). -/
def execSth (m : Cm) (s : State) : Host.Outcome State Fault Refusal :=
  runOp (storeCm m 2) s

/-- STW (07 R149). -/
def execStw (m : Cm) (s : State) : Host.Outcome State Fault Refusal :=
  runOp (storeCm m 4) s

/-- STD (07 R149). -/
def execStd (m : Cm) (s : State) : Host.Outcome State Fault Refusal :=
  runOp (storeCm m 8) s

/-- FLD of 32 bits (07 R149). -/
def execFldS (m : CmF) (s : State) : Host.Outcome State Fault Refusal :=
  runOp (loadCmF m 4) s

/-- FLD of 64 bits (07 R149). -/
def execFldD (m : CmF) (s : State) : Host.Outcome State Fault Refusal :=
  runOp (loadCmF m 8) s

/-- FST of 32 bits (07 R149). -/
def execFstS (m : CmF) (s : State) : Host.Outcome State Fault Refusal :=
  runOp (storeCmF m 4) s

/-- FST of 64 bits (07 R149). -/
def execFstD (m : CmF) (s : State) : Host.Outcome State Fault Refusal :=
  runOp (storeCmF m 8) s

/-- LDX (07 R151). -/
def execLdx (rd ra rb : XField) (scaled sext : BitVec 1) (size : BitVec 2)
    (s : State) : Host.Outcome State Fault Refusal :=
  runOp (ldxOp rd ra rb scaled sext size) s

/-- STX (07 R151). -/
def execStx (rd ra rb : XField) (scaled : BitVec 1) (size : BitVec 2) (s : State) : Host.Outcome State Fault Refusal :=
  runOp (stxOp rd ra rb scaled size) s

/-- STN (07 R152). -/
def execStn (m : Cm) (s : State) : Host.Outcome State Fault Refusal :=
  runOp (stnOp m) s

/-- VLD (07 R153). -/
def execVld (m : CmF) (s : State) : Host.Outcome State Fault Refusal :=
  runOp (vldOp m) s

/-- VST (07 R153). -/
def execVst (m : CmF) (s : State) : Host.Outcome State Fault Refusal :=
  runOp (vstOp m) s

/-- VLDS (07 R154). -/
def execVlds (vd : FField) (ra rb : XField) (mask ew : BitVec 2) (s : State) : Host.Outcome State Fault Refusal :=
  runOp (vldsOp vd ra rb mask ew) s

/-- VSTS (07 R154). -/
def execVsts (vd : FField) (ra rb : XField) (mask ew : BitVec 2) (s : State) : Host.Outcome State Fault Refusal :=
  runOp (vstsOp vd ra rb mask ew) s

/-- VGATH (07 R154). -/
def execVgath (vd : FField) (ra : XField) (vi : FField) (mask ew : BitVec 2)
    (s : State) : Host.Outcome State Fault Refusal :=
  runOp (vgathOp vd ra vi mask ew) s

/-- VSCAT (07 R154). -/
def execVscat (vd : FField) (ra : XField) (vi : FField) (mask ew : BitVec 2)
    (s : State) : Host.Outcome State Fault Refusal :=
  runOp (vscatOp vd ra vi mask ew) s

/-! ## What a watch compares (20 R362) -/

/-- The accesses of a C-word: whether it writes, first address, length. -/
def accessesOf (i : Instr) : Op (List (Bool × Nat × Nat)) :=
  let cm := fun (m : Cm) (wr : Bool) (size : Nat) => (do
    let p ← rdP m.p
    if !p then pure []
    else do
      if wr then do
        let _ ← rdX m.rd
        let b ← rdX m.ra
        pure [(wr, (cmAddr b m.imm size).toNat, size)]
      else do
        let b ← rdX m.ra
        pure [(wr, (cmAddr b m.imm size).toNat, size)] : Op (List (Bool × Nat × Nat)))
  let cf := fun (m : CmF) (wr : Bool) (size : Nat) => (do
    let p ← rdP m.p
    if !p then pure []
    else do
      let b ← rdX m.ra
      pure [(wr, (cmAddr b m.imm size).toNat, size)] : Op (List (Bool × Nat × Nat)))
  let am := fun (ra : XField) (size : Nat) => (do
    let a ← rdX ra
    pure [(true, a.toNat, size)] : Op (List (Bool × Nat × Nat)))
  match i with
  | .ldb m => cm m false 1
  | .ldbu m => cm m false 1
  | .ldh m => cm m false 2
  | .ldhu m => cm m false 2
  | .ldw m => cm m false 4
  | .ldwu m => cm m false 4
  | .ldd m => cm m false 8
  | .stb m => cm m true 1
  | .sth m => cm m true 2
  | .stw m => cm m true 4
  | .std m => cm m true 8
  | .fldS m => cf m false 4
  | .fldD m => cf m false 8
  | .fstS m => cf m true 4
  | .fstD m => cf m true 8
  | .vld m => cf m false 64
  | .vst m => cf m true 64
  | .stn m => do
    let p ← rdP m.p
    if !p then pure []
    else do
      let _ ← rdX m.rd
      let a ← rdX m.ra
      pure [(true, (nibbleAddr a m.imm).toNat, 1)]
  | .ldx _ ra rb sc _ sz => do
    let a ← rdX ra
    let b ← rdX rb
    pure [(false, (indexAddr a b sc (2 ^ sz.toNat)).toNat, 2 ^ sz.toNat)]
  | .stx rd ra rb sc sz => do
    let _ ← rdX rd
    let a ← rdX ra
    let b ← rdX rb
    pure [(true, (indexAddr a b sc (2 ^ sz.toNat)).toNat, 2 ^ sz.toNat)]
  | .vlds _ ra rb mk ew => do
    let a ← rdX ra
    let b ← rdX rb
    let s ← look
    pure ((strideAddrs s mk ew a b).map fun e => (false, e.2.toNat, ewBits ew / 8))
  | .vsts _ ra rb mk ew => do
    let a ← rdX ra
    let b ← rdX rb
    let s ← look
    pure ((strideAddrs s mk ew a b).map fun e => (true, e.2.toNat, ewBits ew / 8))
  | .vgath _ ra vi mk ew => do
    let a ← rdX ra
    let v ← rdV vi
    let s ← look
    pure ((indexAddrs s mk ew a v).map fun e => (false, e.2.toNat, ewBits ew / 8))
  | .vscat _ ra vi mk ew => do
    let a ← rdX ra
    let v ← rdV vi
    let s ← look
    pure ((indexAddrs s mk ew a v).map fun e => (true, e.2.toNat, ewBits ew / 8))
  | .amo _ ra _ op => am ra (if op == .faddS then 4 else 8)
  | .amoAq _ ra _ op => am ra (if op == .faddS then 4 else 8)
  | .amoRl _ ra _ op => am ra (if op == .faddS then 4 else 8)
  | .amoAr _ ra _ op => am ra (if op == .faddS then 4 else 8)
  | .red ra _ op => am ra (if op == .faddS then 4 else 8)
  | .redRl ra _ op => am ra (if op == .faddS then 4 else 8)
  | _ => pure []

end Sys2Proof.Machine
end

