-- ==== Sys2Proof/Machine/Traffic.lean ====
section
/-! DEFINITION. Memory traffic at its destination and back (spec 07 R149-R152, 04 R103, R107, 12 R237, R248, R249). -/

namespace Sys2Proof.Machine

/-! ## What follows an acknowledgement -/

/-- Whether a rectangle contains a mesh position (13 R259). -/
def rectHas (w : Nat) (x y : Nat) : Bool :=
  decide (bits w 6 0 ≤ x) && decide (x ≤ bits w 22 16) && decide (bits w 12 8 ≤ y) && decide (y ≤ bits w 28 24)

/-- Whether a scope word contains a compute core, or core 0 of a cluster (13 R260, 01 R20). -/
def scopeCore (w c : Nat) : Bool := rectHas w (meshX c) (meshY c)

/-- Whether a scope word contains a destination (13 R260). -/
def inScope (w : Nat) (p : Place) : Bool :=
  match p with
  | .core c =>
    if c < 3072 then scopeCore w c
    else if c < 3136 then scopeCore w ((c - 3072) * 48)
    else if c < 3144 then scopeCore w ((c - 3136) * 384)
    else bit w 31
  | .ctrl d c => scopeCore w (d * 384 + c * 48)
  | .port _ => bit w 31
  | .host => bit w 31
  | .chip _ => bit w 31

/-- Whether a fence of a scope still waits for an outstanding item: a counted one is to be acknowledged, a load or AMO to be
performed at every destination in the scope (13 R261). -/
def awaited (w : Nat) (o : OutItem) : Bool := countedKind o.kind || o.places.any (inScope w)

/-- Whether a parked fence has nothing left to wait for (13 R261). -/
def fenceDone (s : State) (c i : Nat) : Bool :=
  let t := getSlot s c i
  match t.park with
  | .fence w waits => !(waits.any fun n => t.out.any fun o => o.id == n && awaited w.toNat o)
  | _ => false

/-- An access of a load or an AMO is performed at a destination; a fence may have waited for it (13 R261). -/
def performedAt (s : State) (w : Who) (p : Place) : State :=
  match locate s w.core w.slot w.gtid with
  | none => s
  | some a =>
    let s1 := modTask s a fun t => { t with
      out := t.out.map fun o => if o.id == w.item then { o with places := o.places.erase p } else o }
    match a with
    | .live c i => if fenceDone s1 c i then atCycle s1 (s1.cycle + 1) (.fenceComplete c i) else s1
    | .saved _ => s1

/-- What an ended item lets happen: held release forms leave, a drained REL leaves, and a fence ends in the next cycle. -/
def afterAck (s : State) (w : Who) : State :=
  let s1 := settleHeld s w.core
  match locate s1 w.core w.slot w.gtid with
  | some (.live c i) =>
    let s2 := drainDone s1 c i
    if fenceDone s2 c i then atCycle s2 (s2.cycle + 1) (.fenceComplete c i) else s2
  | some (.saved _) => s1
  | none => s1

/-- An item is acknowledged or logged: its counts end (12 R237). -/
def endItem (s : State) (w : Who) : State := afterAck (dropItem s w) w

/-- Items of the matrix engine's rows are numbered from here on. -/
def rowItem : Nat := 2 ^ 32

/-- An atomic of another chip is acknowledged at the interface (12 R246, R247). -/
def soEnds (s : State) (c : Nat) : State := { s with soOut := s.soOut.filter fun e => e.1 != c }

/-- The acknowledgement of a RED of another chip leaves for it (12 R247). -/
def foreignAck (s0 : State) (w : Who) : State :=
  let key := foreignKey w.core
  let s := soEnds s0 w.core
  { s with outbox := s.outbox ++
      [.chipAtomic (key / 4096) ⟨{ w with core := key % 4096 }, 3144, 0, foreignSeq w.core, true, .add, 0, 0, 0, .sp 4095 0, 0⟩] }

/-- An outstanding item of a task, in its slot, its saved context or the tracker of its core. -/
def itemOf (s : State) (w : Who) : Option OutItem :=
  let own := match locate s w.core w.slot w.gtid with
    | some a => (taskSlot s a).out
    | none => []
  (own ++ ((getCore s w.core).tracker.filter fun e => e.gtid == w.gtid).flatMap fun e => e.items).find? fun o => o.id == w.item

/-- A message that another chip has taken or refused ends: its count and its place in the send buffer (15 R298). -/
def endSent (s : State) (w : Who) : State :=
  match itemOf s w with
  | some o => if o.kind == .msg then modCore (endItem s w) w.core fun k => { k with msgsFlying := k.msgsFlying - 1 } else endItem s w
  | none => s

/-- WRITE_ACK (12 R237), of another chip also for a message (15 R298); a row's acknowledgement goes to the engine (10 R222). -/
def writeAckStep (w : Who) (s : State) : State :=
  if 8192 ≤ w.core then foreignAck s w
  else if homeItem ≤ w.item then homeAck s w.core (w.item - homeItem)
  else if rowItem ≤ w.item then
    modCluster s (clusterOf w.core) fun k => { k with
      mmaRun := k.mmaRun.map fun r => { r with waits := r.waits.filter fun n => n != w.item } }
  else endSent s w

def execWriteAck (who : Who) (s : State) : Host.Outcome State Fault Refusal := always (writeAckStep who) s

/-! ## Writes -/

/-- The log's OP of a store: its access size. -/
def storeLog (w : WritePkt) (kind cause : Nat) : LogEntry :=
  ⟨w.va, w64 (leNat (w.data.take 8)), w.who.gtid, kind, if kind == 5 then w.data.length else 0, cause, 0, 0, w.who.core⟩

/-- An error notice for a lost item (19 R349). -/
def lostNotice (s : State) (dst : Nat) (who : Who) (kind lost : Nat) : State :=
  sendErrorNotice s (noticeFrom s lost dst) ⟨dst, who, kind, lostReason s lost, lost, gtidRegion who.gtid, 0, 0, 0⟩

/-- A write whose scratchpad's core no longer answers (12 R248, 19 R349): stores and STN are logged with SEALED, an STN and
a matrix row are answered with an error notice, a delivery ends with its hold. -/
def lostWrite (s : State) (w : WritePkt) (c : Nat) : State :=
  match w.kind with
  | .store => endItem (logAppend s (gtidRegion w.who.gtid) (storeLog w 5 6)) w.who
  | .stn _ => lostNotice (endItem (logAppend s (gtidRegion w.who.gtid) (storeLog w 3 6)) w.who) w.who.core w.who 7 c
  | .row => later (lostNotice s w.who.core w.who 6 c) (.writeAck w.who)
  | .sub _ _ => s

/-- The source number a task's or unit's write travels under. -/
def writeSrc (w : WritePkt) : Nat := taskSrc w.who.core w.who.gtid

/-- A write that meets a line the host may cache sends the back-invalidate and waits; one that the hold queue refuses
waits. -/
def writeWaits (s : State) (w : WritePkt) : Bool :=
  snoopHit s w.loc w.data.length || holdFull s w.loc (rootOf s (gtidRegion w.who.gtid)) w.va.toNat

/-- The region a write is made for. -/
def writeRegion (s : State) (w : WritePkt) : Nat :=
  match w.kind, w.loc with
  | .sub hix _, .sp c _ =>
    match (getCore s c).holds.find? fun h => h.hix == hix with
    | some h => h.region
    | none => 0
  | _, _ => gtidRegion w.who.gtid

/-- What follows a performed write: its acknowledgement, or the count of a delivery. -/
def wrote (s : State) (w : WritePkt) : State :=
  match w.kind with
  | .sub hix sb => subArrived s w.who.core hix sb (w.data.length / 64)
  | .store => later s (.writeAck w.who)
  | .stn _ => later s (.writeAck w.who)
  | .row => later s (.writeAck w.who)

/-- An access to device memory counts in the bytes its region moved (21 R374). -/
def countMoved (s : State) (l : Loc) (rid n : Nat) : State :=
  match l with
  | .sp _ _ => s
  | .phys _ _ => moveBytes s rid n
  | .held _ _ _ _ => moveBytes s rid n

/-- The core that writes; a delivered sub-block comes from its home. -/
def writerOf (w : WritePkt) : Nat :=
  match w.kind with
  | .sub _ _ => 4095
  | .store => w.who.core
  | .stn _ => w.who.core
  | .row => w.who.core

/-- A posted write performed at its destination (07 R150). -/
def performWrite (s : State) (w : WritePkt) : State :=
  let s1 := countUnits (locApply (reachedBy s (writerOf w) w.loc) (writeRegion s w) w) w.acc w.va.toNat w.data.length
  wrote (countMoved s1 w.loc (gtidRegion w.who.gtid) w.data.length) w

/-- Whether a write brings a sub-block home from another chip (05 R131). -/
def comesHome (w : WritePkt) : Bool :=
  match w.kind, w.loc with
  | .sub _ _, .phys _ _ => true
  | _, _ => false

/-- REMOTE_WRITE (07 R150, 04 R103). -/
def remoteWriteStep (w : WritePkt) (s : State) : State :=
  if comesHome w then homeWriteStep w s
  else match w.loc with
  | .sp c _ => if answering s c then performWrite s w else lostWrite s w c
  | .phys _ _ =>
    if writeWaits s w then putBack (askLines s w.loc w.data.length) (writeSrc w) (locPlace w.loc) (.remoteWrite w)
    else performWrite s w
  | .held _ _ _ _ =>
    if writeWaits s w then putBack (askLines s w.loc w.data.length) (writeSrc w) (locPlace w.loc) (.remoteWrite w)
    else performWrite s w

def execRemoteWrite (w : WritePkt) (s : State) : Host.Outcome State Fault Refusal := always (remoteWriteStep w) s

/-- STN_MESSAGE: the owner's atomic slot applies the nibble indivisibly (07 R152); one to a word of an open interval waits
(19 R353). -/
def stnMessageStep (w : WritePkt) (s : State) : State :=
  match w.loc with
  | .sp c a =>
    if !answering s c then lostWrite s w c
    else if undoHolds s c a 1 then putBack s (writeSrc w) (.core c) (.stnMessage w)
    else performWrite s w
  | .phys _ _ => remoteWriteStep w s
  | .held _ _ _ _ => remoteWriteStep w s

def execStnMessage (w : WritePkt) (s : State) : Host.Outcome State Fault Refusal := always (stnMessageStep w) s

/-! ## Reads -/

/-- REMOTE_READ: the value is taken at the destination (07 R150, 13 R254). -/
def remoteReadStep (r : ReadPkt) (s : State) : State :=
  let rid := gtidRegion r.who.gtid
  let serve := fun (s : State) =>
    let bad := locBad s r.loc r.size
    let d := leNat (locRead s r.loc r.who.core rid r.va.toNat r.size)
    let s1 := performedAt s r.who (locPlace r.loc)
    later (countMoved (countUnits s1 r.acc r.va.toNat r.size) r.loc rid r.size) (.loadReply ⟨r.who, r.idx, BitVec.ofNat 512 d, bad⟩)
  match r.loc with
  | .sp c _ => if answering s c then serve s else lostNotice s r.who.core r.who 2 c
  | .phys _ _ =>
    if snoopHit s r.loc r.size then
      putBack (askLines s r.loc r.size) (taskSrc r.who.core r.who.gtid) (locPlace r.loc) (.remoteRead r)
    else serve s
  | .held _ _ _ _ =>
    if snoopHit s r.loc r.size then
      putBack (askLines s r.loc r.size) (taskSrc r.who.core r.who.gtid) (locPlace r.loc) (.remoteRead r)
    else serve s

def execRemoteRead (r : ReadPkt) (s : State) : Host.Outcome State Fault Refusal := always (remoteReadStep r) s

/-- The value of an outstanding load with one more access's data. -/
def placeData (o : OutItem) (idx : Nat) (d : BitVec 512) : Vec :=
  match o.form with
  | .vector w => o.value ||| BitVec.ofNat 512 (d.toNat * 2 ^ (w * idx))
  | .scalar n sg => formValue (.scalar n sg) d.toNat
  | .float n => formValue (.float n) d.toNat
  | .none => d

/-- A load's result written where its mask says, its pending bit cleared (03 R75). -/
def landLoad (t : Slot) (o : OutItem) (v : Vec) : Slot :=
  let t1 := match o.dst with
    | .v n => putReg t (.v n) ((getV t n &&& ~~~o.mask) ||| (v &&& o.mask))
    | .x _ => putReg t o.dst v
    | .f _ => putReg t o.dst v
    | .p _ => t
    | .none => t
  { clearPending t1 o.dst with out := t1.out.filter fun p => p.id != o.id }

/-- A task whose load or AMO was lost parks with UNCORR, value 0, at its next bundle (12 R248, 19 R349). -/
def trapAtNext (s : State) (a : TaskAt) (t : Trap) : State := modTask s a fun k => { k with trapNext := some t }

/-- A lost load or AMO: its destination gets 0, its pending bit clears, its task will park (19 R349). -/
def failLoad (s : State) (w : Who) : State :=
  match locate s w.core w.slot w.gtid with
  | none => dropItem s w
  | some a =>
    match (taskSlot s a).out.find? fun o => o.id == w.item with
    | none => s
    | some o =>
      let s1 := modTask s a fun t => wakeSlot (landLoad t { o with mask := BitVec.allOnes 512 } 0)
      afterAck (trapAtNext s1 a (tUncorr 0)) w

/-- LOAD_REPLY (03 R75, 07 R149): with its last datum the load's destination is written. -/
def loadReplyStep (l : LoadPkt) (s : State) : State :=
  if l.bad then failLoad s l.who
  else match locate s l.who.core l.who.slot l.who.gtid with
    | none => dropItem s l.who
    | some a =>
      match (taskSlot s a).out.find? fun o => o.id == l.who.item with
      | none => s
      | some o =>
        let v := placeData o l.idx l.data
        if o.left ≤ 1 then afterAck (modTask s a fun t => wakeSlot (landLoad t o v)) l.who
        else modTask s a fun t => { t with
          out := t.out.map fun p => if p.id == o.id then { p with left := p.left - 1, value := v } else p }

def execLoadReply (l : LoadPkt) (s : State) : Host.Outcome State Fault Refusal := always (loadReplyStep l) s

/-! ## The host's answer to a back-invalidate (04 R107) -/

/-- BACK_INVALIDATE_RESPONSE: the line, with the host's changes if it had any, comes back, and is no longer tracked. -/
def backInvalidateStep (die ctl line : Nat) (data : List Byte) (s : State) : State :=
  let s1 := if data.length == 64 then { s with mem := msets s.mem (64 * line) data } else s
  modDie s1 die fun k => { k with
    snoop := tset (tset k.snoop ctl ((tget k.snoop ctl []).filter fun x => x != line)) (8 + ctl)
      ((tget k.snoop (8 + ctl) []).filter fun x => x != line) }

def execBackInvalidateResponse (die ctl line : Nat) (data : List Byte) (s : State) : Host.Outcome State Fault Refusal :=
  always (backInvalidateStep die ctl line data) s

end Sys2Proof.Machine
end

