-- ==== Sys2Proof/Machine/Copies.lean ====
section
/-! DEFINITION. Copies (spec 07 R155-R161): CPY, CPY2, and the copy engine's start and completion. The engine moves the
bytes of a copy in ascending copy offset, at most 64 in a step (log 11). -/

namespace Sys2Proof.Machine

/-! ## Issue (R155, R156) -/

/-- Copies outstanding of a core, those of ended tasks included (R155). -/
def coreCopies (s : State) (core : Nat) : Nat := (s.copies.filter fun e => e.2.who.core == core).length

/-- The accesses a copy waits for: the task's earlier loads, stores, STN and vector accesses (R159). -/
def copyWaits (t : Slot) : List Nat :=
  (t.out.filter fun o =>
    match o.kind with
    | .load | .store | .stn => true
    | .amo | .red | .msg | .copy | .node | .spawn => false).map fun o => o.id

/-- Row r of a copy: source and destination address. -/
def copyRow (c : Copy) (r : Nat) : Word × Word :=
  (c.src + BitVec.ofInt 64 (c.spitch * r), c.dst + BitVec.ofInt 64 (c.dpitch * r))

/-- The destination ranges of a copy. -/
def copySpans (c : Copy) : List (Nat × Nat) := (List.range c.rows).map fun r => ((copyRow c r).2.toNat, c.len)

/-- Registers the copy of a descriptor (R156): its token is pending, and it counts in OSC. -/
def beginCopy (rd : XField) (two : Bool) (d : Nat) (s : State) : State :=
  let core := s.cur.core
  let t := curSlot s
  let w := fun i => leNat (spRead s core (d + 8 * i) 8)
  let bad := bits (w 2) 63 40 != 0 ||
    (if two then bits (w 3) 63 16 != 0 || w 6 != 0 || w 7 != 0 else w 3 != 0)
  let rows := if two then bits (w 3) 15 0 else 1
  let len := bits (w 2) 39 0
  let c : Copy :=
    { id := s.nextCopy, who := curWho s, region := t.region, token := rd.toNat, two := two, dst := w64 (w 0)
      src := w64 (w 1), len := len, rows := rows, dpitch := if two then (w64 (w 4)).toInt else 0
      spitch := if two then (w64 (w 5)).toInt else 0, bad := bad
      waits := if bad || len == 0 || rows == 0 then [] else copyWaits t
      phys := false, pos := 0, started := false, line := none, result := 0, failVa := 0 }
  let s1 := addOut s core s.cur.slot .copy [] (copySpans c) .none .none 0 false
  let s2 := modCur s1 fun t => setPending t (.x rd.toNat)
  { s2 with copies := tset s2.copies c.id c, nextCopy := s2.nextCopy + 1 }

def cpyOp (rd ra : XField) (two : Bool) : Op Unit := do
  let s ← look
  stallIf (decide (1024 ≤ oscOf (curSlot s)) || decide (8 ≤ coreCopies s s.cur.core))
  operands [ra] (.x rd) (rd.toNat == 0)
  let d ← rdChecked ra
  let n := if two then 64 else 32
  trapIf (d.toNat % n != 0) (tMisalign d)
  trapIf (decide (Config.mailboxBase < d.toNat + n)) (tRange 0 d)
  trapIf (spBad s s.cur.core d.toNat n) (tUncorr d)
  change (beginCopy rd two d.toNat)

/-- CPY (R155). -/
def execCpy (rd ra : XField) (s : State) : Host.Outcome State Fault Refusal := runOp (cpyOp rd ra false) s

/-- CPY2 (R155). -/
def execCpy2 (rd ra : XField) (s : State) : Host.Outcome State Fault Refusal := runOp (cpyOp rd ra true) s

/-! ## The engine (R157-R160) -/

/-- The first address after `a` that is not in a's address class (R86). -/
def classEnd (a : Nat) : Nat :=
  if a < 0x80000 then 0x80000 else if a < 0x1000000 then 0x1000000 else if a < 0x2800000 then 0x2800000
  else if a < 0x8000000 then 0x8000000 else if a < 0x8200000 then 0x8200000 else if a < 2 ^ 32 then 2 ^ 32
  else if a < 2 ^ 56 then 2 ^ 56 else 2 ^ 64

/-- How a copy failed: STATUS, SIDE, LEVEL, DETAIL, the address, and for an error in its data the destination bytes to
poison; or the physical address of a line the host must give back first; or a hold queue that refuses the write. -/
inductive CopyStop where
  | fail (status side level detail : Nat) (va : Word)
  | uncorr (va : Word)
  | line (pa : Nat)
  | full
deriving DecidableEq, Repr

/-- A trap of the device-space checks as a copy reports it. -/
def trapStop (side : Nat) (t : Trap) (va : Word) : CopyStop :=
  if t.cause == 5 then .fail 1 side t.level t.detail va else .fail 2 side 0 t.detail va

/-- A place of a copy's bytes: a location, or the program store. -/
inductive CopyEnd where
  | loc (l : Loc) (a : Option AccPage)
  | prog (a : Nat)
deriving DecidableEq, Repr

/-- An end of a checkpoint copy: a physical address, its bytes as they stand, under no key and no range check (04 R110). -/
def physEnd (s : State) (side : Nat) (va : Word) (n : Nat) : Except CopyStop (State × CopyEnd) :=
  let pa := va.toNat
  if !paPresent s pa then .error (.fail 1 side 0 5 va)
  else if !(snooped s pa n).isEmpty then .error (.line pa)
  else if side == 0 && physBad s pa n then .error (.uncorr va)
  else .ok (s, .loc (.phys pa 0) none)

/-- A source of n bytes within one 64-byte unit (R157). -/
def taskSource (s : State) (c : Copy) (va : Word) (n : Nat) : Except CopyStop (State × CopyEnd) :=
  let a := va.toNat
  let core := c.who.core
  match classify a with
  | .localSp =>
    if (getCore s core).sealed then .error (.fail 3 0 0 2 va)
    else if spBad s core a n then .error (.uncorr va) else .ok (s, .loc (.sp core a) none)
  | .window =>
    let wc := windowCore core a
    if !liveCore s wc then .error (.fail 3 0 0 2 va)
    else if spBad s wc (windowAddr a) n then .error (.uncorr va)
    else .ok (s, .loc (.sp wc (windowAddr a)) none)
  | .progView => .ok (s, .prog (a - 0x8000000))
  | .hole => .error (.fail 3 0 0 0 va)
  | .nonCanon => .error (.fail 1 0 0 0 va)
  | .device =>
    match devCheck s (.cluster (clusterOf core)) core c.region .cpySrc a n with
    | .error t => .error (if isLine t then .line (64 * t.value.toNat) else trapStop 0 t va)
    | .ok (s1, l, acc) =>
      if snoopHit s1 l n then .error (.line ((locPa l).getD 0))
      else if locBad s1 l n then .error (.uncorr va)
      else .ok (s1, .loc l acc)

def copySource (s : State) (c : Copy) (va : Word) (n : Nat) : Except CopyStop (State × CopyEnd) :=
  if c.phys then physEnd s 0 va n else taskSource s c va n

/-- The first destination byte a delivered window refuses, with the detail. -/
def copyWindow (s : State) (core wc a n : Nat) (va : Word) : Except CopyStop Unit :=
  match if wc == core then windowRefusal s wc a n true else none with
  | some (det, at_) => .error (.fail 2 1 0 det (va + w64 (at_ - a)))
  | none => .ok ()

/-- A destination of n bytes within one 64-byte unit (R157, 05 R126). -/
def taskDest (s : State) (c : Copy) (va : Word) (n : Nat) : Except CopyStop (State × CopyEnd) :=
  let a := va.toNat
  let core := c.who.core
  match classify a with
  | .localSp =>
    if (getCore s core).sealed then .error (.fail 3 1 0 2 va)
    else if inMailbox a n then .error (.fail 3 1 0 1 va)
    else match copyWindow s core core a n va with
      | .error e => .error e
      | .ok () => .ok (s, .loc (.sp core a) none)
  | .window =>
    let wc := windowCore core a
    if !liveCore s wc then .error (.fail 3 1 0 2 va)
    else if inMailbox (windowAddr a) n then .error (.fail 3 1 0 1 va)
    else match copyWindow s core wc (windowAddr a) n va with
      | .error e => .error e
      | .ok () => .ok (s, .loc (.sp wc (windowAddr a)) none)
  | .progView => .error (.fail 3 1 0 1 va)
  | .hole => .error (.fail 3 1 0 0 va)
  | .nonCanon => .error (.fail 1 1 0 0 va)
  | .device =>
    match devCheck s (.cluster (clusterOf core)) core c.region .cpyDst a n with
    | .error t => .error (if isLine t then .line (64 * t.value.toNat) else trapStop 1 t va)
    | .ok (s1, l, acc) =>
      if snoopHit s1 l n then .error (.line ((locPa l).getD 0))
      else if holdFull s1 l (rootOf s1 c.region) a then .error .full
      else .ok (s1, .loc l acc)

def copyDest (s : State) (c : Copy) (va : Word) (n : Nat) : Except CopyStop (State × CopyEnd) :=
  if c.phys then physEnd s 1 va n else taskDest s c va n

/-- Counts a unit once, at the first byte of it that the row touches. -/
def countFirst (s : State) (e : CopyEnd) (va : Word) (first : Bool) : State :=
  match e with
  | .loc _ a => if first || va.toNat % 64 == 0 then countUnits s a va.toNat 1 else s
  | .prog _ => s

/-- The bytes of a source. -/
def copyBytes (s : State) (c : Copy) (e : CopyEnd) (va : Word) (n : Nat) : List Byte :=
  match e with
  | .loc l _ => locRead s l c.who.core c.region va.toNat n
  | .prog a => mgets (getCluster s (clusterOf c.who.core)).prog a n

/-- Bytes written at a destination. -/
def copyPut (s : State) (c : Copy) (e : CopyEnd) (va : Word) (d : List Byte) : State :=
  match e with
  | .loc l a => locApply (reachedBy s c.who.core l) c.region ⟨c.who, .store, l, a, va, d⟩
  | .prog _ => s

/-- One piece of a row: at most 64 bytes, within one unit of the source and of the destination. -/
def copyPiece (s : State) (c : Copy) (src dst : Word) (n : Nat) (first : Bool) : Except (CopyStop × State) State :=
  match copySource s c src n with
  | .error e => .error (e, s)
  | .ok (s1, se) =>
    match copyDest s1 c dst n with
    | .error (.fail st sd lv dt va) =>
      -- the bytes below a window's first refused byte are performed
      let k := (va - dst).toNat
      if k == 0 || decide (n ≤ k) then .error (.fail st sd lv dt va, s1)
      else match copyDest s1 c dst k with
        | .ok (s2, de) => .error (.fail st sd lv dt va, copyPut s2 c de dst (copyBytes s2 c se src k))
        | .error _ => .error (.fail st sd lv dt va, s1)
    | .error e => .error (e, s1)
    | .ok (s2, de) =>
      let d := copyBytes s2 c se src n
      .ok (copyPut (countFirst (countFirst s2 se src first) de dst first) c de dst d)

/-- The completion word (R158). -/
def copyWord (status side level detail bytes : Nat) : Word :=
  w64 (2 ^ 63 + status % 256 * 2 ^ 48 + side % 2 * 2 ^ 47 + level % 8 * 2 ^ 44 + detail % 16 * 2 ^ 40 + bytes % 2 ^ 40)

/-- Poison of the destination units that would have held the bad data (R158). -/
def poisonDest (s : State) (c : Copy) (src dst : Word) (n : Nat) : State :=
  let k := Nat.min n (64 - src.toNat % 64)
  [dst, dst + w64 (k - 1)].foldl (fun s a =>
    match copyDest s c a 1 with
    | .ok (s1, .loc (.sp core x) _) => modCore s1 core fun k => { k with poison := addNat k.poison (x / 64) }
    | .ok (s1, .loc l _) => { s1 with dramPoison := addNat s1.dramPoison ((locPa l).getD 0 / 64) }
    | .ok (s1, .prog _) => s1
    | .error _ => s) s

/-- The engine's next step of a copy: more bytes are performed up to an offset, or the copy ends with its word and the
failing address, or it waits for a line or for room in a hold queue. -/
inductive CopyTurn where
  | more (s : State) (pos : Nat)
  | ends (s : State) (word va : Word)
  | line (pa : Nat)
  | full
deriving DecidableEq, Repr

/-- Bytes of the piece of a copy from `pos` on: within one 64-byte unit of the source and of the destination. -/
def pieceLen (c : Copy) : Nat :=
  let (src, dst) := copyRow c (c.pos / c.len)
  let off := c.pos % c.len
  Nat.min (c.len - off) (Nat.min (64 - (src + w64 off).toNat % 64) (64 - (dst + w64 off).toNat % 64))

/-- One step of a copy (R156-R158): a row that crosses an address class fails before any of its bytes; the word of a failure
gives the copy offset of the first failing byte. -/
def copyRun (c : Copy) (s : State) : CopyTurn :=
  if c.bad then .ends s (copyWord 4 0 0 0 0) c.src
  else if c.len == 0 || c.rows == 0 then .ends s (copyWord 0 0 0 0 0) 0
  else
    let (src, dst) := copyRow c (c.pos / c.len)
    let off := c.pos % c.len
    let a := src + w64 off
    let b := dst + w64 off
    let n := pieceLen c
    if off == 0 && decide (classEnd src.toNat < src.toNat + c.len) then .ends s (copyWord 3 0 0 3 c.pos) src
    else if off == 0 && decide (classEnd dst.toNat < dst.toNat + c.len) then .ends s (copyWord 3 1 0 3 c.pos) dst
    else match copyPiece s c a b n (off == 0) with
      | .ok s1 =>
        if c.len * c.rows ≤ c.pos + n then .ends s1 (copyWord 0 0 0 0 (c.len * c.rows)) 0 else .more s1 (c.pos + n)
      | .error (.fail st sd lv dt va, s1) =>
        .ends s1 (copyWord st sd (if st == 1 && dt == 1 then lv else 0) dt
          (c.pos + (va - (if sd == 0 then a else b)).toNat)) va
      | .error (.uncorr va, s1) => .ends (poisonDest s1 c va b (c.len - off)) (copyWord 5 0 0 0 c.pos) va
      | .error (.line pa, _) => .line pa
      | .error (.full, _) => .full

/-- Whether a copy can start (R159): its task's earlier accesses are performed, and no line it met is still with the
host. -/
def copyReady (s : State) (c : Copy) : Bool :=
  !c.started && !pairOpen s c.who.core c.who.slot &&
  !(c.waits.any fun n => (liveItems s c.who.core c.who.slot c.who.gtid).contains n) &&
  (match c.line with
   | none => true
   | some x => (snooped s (64 * x) 64).isEmpty)

/-- COPY_START (R159): the engine performs the next bytes of the copy; after the last its completion follows. A copy not ready
does not start. -/
def copyStartStep (id : Nat) (s : State) : State :=
  match tfind s.copies id with
  | none => s
  | some c =>
    if !copyReady s c then s
    else match copyRun c s with
      | .line pa =>
        let s1 := askLine s (pa / 64)
        { s1 with copies := tset s1.copies id { c with line := some (pa / 64) } }
      | .full => s
      | .more s1 n => { s1 with copies := tset s1.copies id { c with pos := n, line := none } }
      | .ends s1 w va =>
        later (moveBytes { s1 with copies := tset s1.copies id { c with started := true, result := w, failVa := va } } c.region
          (bits w.toNat 39 0)) (.copyComplete id)

def execCopyStart (id : Nat) (s : State) : Host.Outcome State Fault Refusal := always (copyStartStep id) s

/-- Whether n bytes at a physical address lie in the DRAM footprint of a cluster. -/
def inOwnDram (s : State) (cl pa n : Nat) : Bool :=
  inDram s pa && n != 0 && paCluster pa == cl && pa / 8192 == (pa + n - 1) / 8192

/-- Whether n bytes at a physical address lie in an expander. -/
def inExpander (pa n : Nat) : Bool := decide (2 ^ 48 ≤ pa) && decide (pa + n ≤ 2 ^ 49)

/-- A checkpoint copy (04 R110), or its reverse: a cluster control core's command to the copy engine between the DRAM of its
own footprint and an expander. The spec gives the command no instruction, so it comes as a turn of its own (log 11). -/
def checkpointStep (core : Nat) (src dst : Word) (len : Nat) (s : State) : State :=
  let cl := clusterOf core
  let out := inOwnDram s cl src.toNat len && inExpander dst.toNat len
  let back := inExpander src.toNat len && inOwnDram s cl dst.toNat len
  if !isControl core || !answering s core || !(out || back) || decide (8 ≤ coreCopies s core) then s
  else
    let c : Copy :=
      { id := s.nextCopy, who := noWho core, region := 0, token := 0, two := false, dst := dst, src := src, len := len
        rows := 1, dpitch := 0, spitch := 0, bad := false, waits := [], phys := true, pos := 0, started := false
        line := none, result := 0, failVa := 0 }
    { s with copies := tset s.copies c.id c, nextCopy := s.nextCopy + 1 }

/-- The log entry of a copy whose task has ended (R161, 12 R249). -/
def copyLog (c : Copy) : LogEntry :=
  let w := c.result.toNat
  ⟨c.failVa, w64 (bits w 39 0), c.who.gtid, 2, if c.two then 1 else 0, bits w 55 48, bits w 43 40, bits w 47 47, c.who.core⟩

/-- COPY_COMPLETE (R158, R161): the word reaches the token wherever the task is; the task gone, it is discarded, and a
failure is logged. -/
def copyCompleteStep (id : Nat) (s : State) : State :=
  match tfind s.copies id with
  | none => s
  | some c =>
    if !c.started then s
    else
      let s1 := { s with copies := tdel s.copies id }
      let s2 := match locate s1 c.who.core c.who.slot c.who.gtid with
        | some _ => deliverReg s1 c.who (.x c.token) (BitVec.ofNat 512 c.result.toNat)
        | none => if bits c.result.toNat 55 48 == 0 then s1 else logAppend s1 c.region (copyLog c)
      endItem s2 c.who

def execCopyComplete (id : Nat) (s : State) : Host.Outcome State Fault Refusal := always (copyCompleteStep id) s

end Sys2Proof.Machine
end

