-- ==== Sys2Proof/Machine/Atomics.lean ====
section
/-! DEFINITION. Atomics and reductions (spec 12 R239-R249, R251): the instructions, the atomic slot, the returned value, and
the scale-out interface's filter. -/

namespace Sys2Proof.Machine

/-! ## Owners and homes (R239, R240) -/

/-- The entry of a die's atomic home table for a unit: home identity and physical core. -/
def homeEntry (s : State) (d unit : Nat) : Option (Nat × Nat) :=
  let h := (getDie s d).homes
  if h.isEmpty then none else h[unit % h.length]?

/-- Home identity and physical core of a location (R239). -/
def homeOf (s : State) (l : Loc) (va : Word) : Option (Nat × Nat) :=
  match l with
  | .sp c _ => some (c, c)
  | .phys pa _ => homeEntry s (if pa < 2 ^ 40 then paDie pa else lowestLive s) (pa / 64)
  | .held d _ _ _ => homeEntry s d (va.toNat / 64)

/-- The home table after a core is sealed (R240): its entries name the next live compute core of the die. -/
def adoptHomes (s : State) (d sealedCore : Nat) : State :=
  let live := liveCores s d
  let next := match live.find? fun c => decide (sealedCore < c) with
    | some c => c
    | none => live.getD 0 sealedCore
  modDie s d fun k => { k with homes := k.homes.map fun e => if e.2 == sealedCore then (e.1, next) else e }

/-- Device atomics on their way to a sealed core, or still inside theirs, are bound for the core that has adopted their
identity, in their order (R248). -/
def redirectAtoms (s : State) (old : Nat) : State :=
  let to_ := fun (d : Place) (e : Event) => match e with
    | .atomicMessage a => if d == .core old && a.loc != noLoc then
        (match a.loc with
         | .sp _ _ => d
         | _ => .core ((homeOf s a.loc a.va).getD (old, old)).2) else d
    | _ => d
  { s with
    flights := s.flights.map fun f => { f with chan := f.chan.map fun c => { c with dst := to_ c.dst f.act } }
    cores := s.cores.map fun e => (e.1, { e.2 with heldRel := e.2.heldRel.map fun h => { h with dst := to_ h.dst h.ev } }) }

/-! ## Operations (R242, R243, R245) -/

/-- Operand width in bytes. -/
def atomBytes (op : AmoOp) : Nat :=
  match op with
  | .faddS => 4
  | .add | .swap | .cas | .min | .max | .minu | .maxu | .and | .or | .xor | .faddD => 8

/-- AtomicFAdd (R245): one rounding by RNE, no flags. -/
def atomFadd (F : FF) (m b : Nat) : Nat := (deliver F .rne false (exAdd .rne (ffDecode F m) (ffDecode F b)).1).1

/-- The new value of a word (R243). -/
def atomNew (op : AmoOp) (m b c : Word) : Word :=
  match op with
  | .add => m + b
  | .swap => b
  | .cas => if m == c then b else m
  | .min => if m.toInt < b.toInt then m else b
  | .max => if m.toInt < b.toInt then b else m
  | .minu => if m.toNat < b.toNat then m else b
  | .maxu => if m.toNat < b.toNat then b else m
  | .and => m &&& b
  | .or => m ||| b
  | .xor => m ^^^ b
  | .faddD => w64 (atomFadd fp64 m.toNat b.toNat)
  | .faddS => w64 (atomFadd fp32 (m.toNat % 2 ^ 32) (b.toNat % 2 ^ 32))

/-- The AMO operation a RED performs. -/
def redAmo (op : RedOp) : AmoOp :=
  match op with
  | .add => .add
  | .min => .min
  | .max => .max
  | .and => .and
  | .or => .or
  | .xor => .xor
  | .faddD => .faddD
  | .faddS => .faddS

/-- The fn code of a RED (R242). -/
def redFn (op : RedOp) : Nat :=
  match op with
  | .add => 0
  | .min => 1
  | .max => 2
  | .and => 3
  | .or => 4
  | .xor => 5
  | .faddD => 6
  | .faddS => 7

/-- Where an atomic is applied, its checks and counting done, or the trap or log cause of their failure. -/
def atomPlace (s : State) (core rid : Nat) (k : AccKind) (ea : Word) (n : Nat) :
    Except (Trap × Nat × Nat) (State × Loc) :=
  let a := ea.toNat
  match classify a with
  | .localSp => if inMailbox a n then .error (tRange 0 ea, 3, 1) else .ok (s, .sp core a)
  | .window =>
    let wc := windowCore core a
    if inMailbox (windowAddr a) n then .error (tRange 0 ea, 3, 1)
    else if k == .red && !liveCore s wc then .error (tUncorr 0, 3, 2)
    else .ok (s, .sp wc (windowAddr a))
  | .progView => .error (tRange 0 ea, 3, 1)
  | .hole => .error (tRange 0 ea, 3, 0)
  | .nonCanon => .error (tXlate 0 0 ea, 1, 0)
  | .device =>
    match devCheck s (.core core) core rid k a n with
    | .error t => .error (t, if t.cause == 5 then 1 else 2, t.detail)
    | .ok (s1, l, acc) => .ok (countUnits s1 acc a n, l)

/-! ## At the home (R241, R246) -/

/-- The source identity of atomics from other chips (R246, R247). -/
def soSource : Nat := 3144

/-- The source an atomic message travels under: the scale-out interface's for one of another chip. -/
def atomSrc (a : AtomPkt) : Nat := if a.source == soSource then soSource else taskSrc a.who.core a.who.gtid

/-- The applied record of a source at a home identity (R246). -/
def appliedRec (s : State) (a : AtomPkt) : Nat × Word :=
  match a.loc with
  | .sp c _ => tget (getCore s c).applied a.source (0, 0)
  | .phys pa _ =>
    tget (getDie s (if pa < 2 ^ 40 then paDie pa else lowestLive s)).records (a.home * 4096 + a.source) (0, 0)
  | .held d _ _ _ => tget (getDie s d).records (a.home * 4096 + a.source) (0, 0)

def putRec (s : State) (a : AtomPkt) (v : Word) : State :=
  let die := fun d => modDie s d fun k => { k with records := tset k.records (a.home * 4096 + a.source) (a.seq, v) }
  match a.loc with
  | .sp c _ => modCore s c fun k => { k with applied := tset k.applied a.source (a.seq, v) }
  | .phys pa _ => die (if pa < 2 ^ 40 then paDie pa else lowestLive s)
  | .held d _ _ _ => die d

/-- Whether a sequence number is a duplicate (R246). -/
def isDuplicate (last seq : Nat) : Bool := decide ((last + 4096 - seq % 4096) % 4096 < 2048)

/-- The answer to an applied or repeated operation: the value of an AMO, the acknowledgement of a RED. -/
def answerAtom (s : State) (a : AtomPkt) (v : Word) : State :=
  later s (if a.red then .writeAck a.who else .amoReturn a.who v)

/-- The region an atomic acts for. -/
def atomRegion (a : AtomPkt) : Nat := gtidRegion a.who.gtid

/-- Applies an operation to its word (R243). -/
def applyAtom (s : State) (a : AtomPkt) : State :=
  let n := atomBytes a.op
  let m := w64 (leNat (locRead s a.loc a.who.core (atomRegion a) a.va.toNat n))
  let new := atomNew a.op m a.b a.c
  let put : WritePkt := ⟨{ a.who with core := 4095 }, .store, a.loc, none, a.va, natLe n new.toNat⟩
  let s1 := putRec (locApply (reachedBy s a.who.core a.loc) (atomRegion a) put) a m
  answerAtom (if a.red then s1 else performedAt s1 a.who (.core ((homeOf s a.loc a.va).getD (4095, 4095)).2)) a m

/-- The log entry of a RED (R249). -/
def redLog (a : AtomPkt) (cause detail : Nat) : LogEntry := ⟨a.va, a.b, a.who.gtid, 1, a.fn, cause, detail, 0, a.who.core⟩

def logRed (s : State) (a : AtomPkt) (cause detail : Nat) : State :=
  endItem (logAppend s (atomRegion a) (redLog a cause detail)) a.who

/-- A RED whose checks failed when it issued: they are made again; it is logged, or goes on to its home (R242). -/
def recheckRed (s : State) (a : AtomPkt) : State :=
  match atomPlace s a.who.core (atomRegion a) .red a.va (atomBytes a.op) with
  | .error (t, cause, detail) =>
    if isLine t then putBack (askLine s t.value.toNat) (atomSrc a) (.core a.who.core) (.atomicMessage a)
    else logRed s a cause detail
  | .ok (s1, l) =>
    let (home, phys) := (homeOf s1 l a.va).getD (4095, 4095)
    sendEvent s1 (taskSrc a.who.core a.who.gtid) (.core phys) (.atomicMessage { a with home := home, loc := l })

/-- The die whose atomic home table serves a location; none for a scratchpad. -/
def homeDie (s : State) (l : Loc) : Option Nat :=
  match l with
  | .sp _ _ => none
  | .phys pa _ => some (if pa < 2 ^ 40 then paDie pa else lowestLive s)
  | .held d _ _ _ => some d

/-- An atomic whose owner or home does not answer (R240, R248, 19 R349): an AMO gets an error notice, a RED is logged with
cause SEALED. Where a die has no live compute core left, its management core answers every atomic to its units. -/
def lostAtom (s : State) (a : AtomPkt) (c : Nat) : State :=
  match homeDie s a.loc with
  | some d =>
    let s1 := sendErrorNotice s (3136 + d) ⟨a.who.core, a.who, 3, lostReason s c, c, atomRegion a, 0, 0, 0⟩
    if a.red then logRed s1 a 6 0 else s1
  | none => if a.red then logRed s a 6 0 else lostNotice s a.who.core a.who 3 c

/-- Whether a home identity still names a core that stops answering, its seal under way: the message waits for the core
that adopts the identity (R248). -/
def beingAdopted (s : State) (a : AtomPkt) (phys : Nat) : Bool :=
  (homeDie s a.loc).isSome && (getCore s phys).sealed && s.flights.any fun f => f.act == .coreSeal phys

/-- Whether an atomic message must wait: an open interval (19 R353), a line with the host, a full hold queue (R251). -/
def atomWaits (s : State) (a : AtomPkt) : Bool :=
  (match a.loc with
   | .sp c x => undoHolds s c x (atomBytes a.op)
   | .phys _ _ => false
   | .held _ _ _ _ => false) ||
  snoopHit s a.loc (atomBytes a.op) || holdFull s a.loc (rootOf s (atomRegion a)) a.va.toNat

/-- Whether a core's atomic slot serves messages (R241). -/
def servesAtoms (s : State) (c : Nat) : Bool := decide (c < 3144) && answering s c

/-- ATOMIC_MESSAGE: the atomic slot of the home core applies an operation once (R241, R243, R246). -/
def atomicMessageStep (a : AtomPkt) (s : State) : State :=
  if a.loc == noLoc then recheckRed s a
  else
    let phys := ((homeOf s a.loc a.va).getD (4095, 4095)).2
    let r := appliedRec s a
    if beingAdopted s a phys then putBack s (atomSrc a) (.core phys) (.atomicMessage a)
    else if !servesAtoms s phys then lostAtom s a a.home
    else if isDuplicate r.1 a.seq then
      if !a.red && r.1 == a.seq then answerAtom s a r.2 else s
    else if atomWaits s a then
      putBack (askLines s a.loc (atomBytes a.op)) (atomSrc a) (.core phys) (.atomicMessage a)
    else if locBad s a.loc (atomBytes a.op) then
      let s1 := putRec s a 0
      if a.red then logRed s1 a 5 0 else later s1 (.loadReply ⟨a.who, 0, 0, true⟩)
    else applyAtom s a

def execAtomicMessage (a : AtomPkt) (s : State) : Host.Outcome State Fault Refusal := always (atomicMessageStep a) s

/-! ## Sending (R242, R244, R246) -/

/-- Unacknowledged atomics of a core to one home identity (R246), those of its ended and saved tasks among them. -/
def atomsTo (s : State) (core key : Nat) : Nat :=
  let k := getCore s core
  let n := fun (l : List OutItem) => (l.filter fun o => o.home == some key).length
  ((List.range 8).map fun i => n (coreSlot k i).out).sum + (k.tracker.map fun t => n t.items).sum +
    ((s.saved.filter fun v => v.core == core).map fun v => n v.rest.out).sum

/-- The atomic just counted goes to this home identity. -/
def tagHome (key : Nat) (t : Slot) : Slot :=
  { t with out := t.out.dropLast ++ (t.out.drop (t.out.length - 1)).map fun o => { o with home := some key } }

/-- The items a release form waits for: every counted item and every AMO of the task (R244). -/
def releaseWaits (t : Slot) : List Nat :=
  (t.out.filter fun o => countedKind o.kind || o.kind == .amo).map fun o => o.id

/-- Whether an access to the core's own scratchpad is performed as its bundle issues (13 R254): nothing of the core's tasks
is on its way there, and no checked pair's gate keeps it back (19 R353). -/
def atomNow (s : State) (a : AtomPkt) : Bool :=
  let core := s.cur.core
  a.loc != noLoc && classify a.va.toNat == .localSp && !inPair s core s.cur.slot &&
    !(getCore s core).heldRel.any (fun h => h.dst == .core core) &&
    !s.flights.any fun f =>
      match f.chan with
      | some c => c.dst == .core core && srcCore c.src == some core
      | none => false

/-- The core's atomic slot takes the atomic that has just left (R241). -/
def takeOwn (s : State) : State :=
  match s.flights.getLast? with
  | some f =>
    match f.act with
    | .atomicMessage a => atomicMessageStep a { s with flights := s.flights.dropLast, firing := f.id }
    | _ => s
  | none => s

/-- Sends an atomic message of the task, or holds a release form inside the core (R244). -/
def sendAtom (s : State) (home phys : Nat) (a : AtomPkt) (waits : List Nat) : State :=
  let core := s.cur.core
  let m : AtomPkt := { a with source := core, home := home }
  let s0 := modCur s (tagHome (homeKey m))
  if !waits.isEmpty then holdInside s0 core (taskSrc core a.who.gtid) (.core phys) a.who.gtid waits (.atomicMessage m)
  else
    let s1 := taskSend s0 core a.who.gtid (.core phys) (.atomicMessage m)
    if atomNow s m then takeOwn s1 else s1

/-- An AMO (R242-R244). -/
def amoOp (rd ra rb : XField) (op : AmoOp) (aq rl : Bool) : Op Unit := do
  operands [ra, rb] (.x rd) false
  let ea ← rdChecked ra
  let b ← rdChecked rb
  if op == .cas && !isQ rd then do
    let _ ← rdChecked rd
    pure ()
  trapIf (ea.toNat % atomBytes op != 0) (tMisalign ea)
  let s ← look
  let c := getX (curSlot s) rd.toNat
  match atomPlace s s.cur.core (curSlot s).region .amo ea (atomBytes op) with
  | .error (t, _, _) => fun _ => .error (stopOf t)
  | .ok (s1, l) => do
    let (home, phys) := (homeOf s1 l ea).getD (4095, 4095)
    stallIf (decide (64 ≤ atomsTo s s.cur.core (keyOf l home)))
    change fun _ =>
      let waits := if rl then releaseWaits (curSlot s1) else []
      let who := curWho s1
      let d : RegId := if rd.toNat == 0 then .none else .x rd.toNat
      let s2 := addOut s1 s1.cur.core s1.cur.slot .amo [.core phys] [] d .none 1 aq
      let s3 := modCur s2 fun t => setPending { t with everOutside := true } d
      sendAtom s3 home phys ⟨who, 0, 0, 0, false, op, 0, b, c, l, ea⟩ waits

/-- AMO (R242). -/
def execAmo (rd ra rb : XField) (op : AmoOp) (s : State) : Host.Outcome State Fault Refusal :=
  runOp (amoOp rd ra rb op false false) s

/-- AMO.AQ (R244). -/
def execAmoAq (rd ra rb : XField) (op : AmoOp) (s : State) : Host.Outcome State Fault Refusal :=
  runOp (amoOp rd ra rb op true false) s

/-- AMO.RL (R244). -/
def execAmoRl (rd ra rb : XField) (op : AmoOp) (s : State) : Host.Outcome State Fault Refusal :=
  runOp (amoOp rd ra rb op false true) s

/-- AMO.AR (R244). -/
def execAmoAr (rd ra rb : XField) (op : AmoOp) (s : State) : Host.Outcome State Fault Refusal :=
  runOp (amoOp rd ra rb op true true) s

/-- A RED retires after its alignment check; one whose class, range or translation check fails goes to the log (R242). -/
def redOp (ra rb : XField) (op : RedOp) (rl : Bool) : Op Unit := do
  operands [ra, rb] .none false
  let ea ← rdChecked ra
  let b ← rdChecked rb
  let n := atomBytes (redAmo op)
  let s ← look
  stallIf (oscFull s)
  trapIf (ea.toNat % n != 0) (tMisalign ea)
  let (s1, l) := match atomPlace s s.cur.core (curSlot s).region .red ea n with
    | .error _ => (s, noLoc)
    | .ok p => p
  let (home, phys) := if l == noLoc then (s.cur.core, s.cur.core) else (homeOf s1 l ea).getD (4095, 4095)
  stallIf (l != noLoc && decide (64 ≤ atomsTo s s.cur.core (keyOf l home)))
  change fun _ =>
    let waits := if rl then releaseWaits (curSlot s1) else []
    let who := curWho s1
    let s2 := addOut s1 s1.cur.core s1.cur.slot .red [.core phys] [(ea.toNat, n)] .none .none 1 false
    sendAtom (modCur s2 fun t => { t with everOutside := true }) home phys
      ⟨who, 0, 0, 0, true, redAmo op, redFn op, b, 0, l, ea⟩ waits

/-- RED (R242). -/
def execRed (ra rb : XField) (op : RedOp) (s : State) : Host.Outcome State Fault Refusal := runOp (redOp ra rb op false) s

/-- RED.RL (R244). -/
def execRedRl (ra rb : XField) (op : RedOp) (s : State) : Host.Outcome State Fault Refusal := runOp (redOp ra rb op true) s

/-! ## The value returned (R243) -/

/-- The interface records a returned value before it answers the remote source (R247). -/
def foreignReturn (s : State) (w : Who) (v : Word) : State :=
  let key := foreignKey w.core
  let r := tget s.soRecords key ⟨0, 0, true⟩
  let s1 := soEnds s w.core
  let s2 := if r.last == foreignSeq w.core then { s1 with soRecords := tset s.soRecords key { r with val := v, done := true } } else s1
  { s2 with outbox := s2.outbox ++
      [.chipAtomic (key / 4096) ⟨{ w with core := key % 4096 }, soSource, 0, foreignSeq w.core, false, .add, 0, v, 0, noLoc, 0⟩] }

/-- AMO_RETURN (R243, R253): the old value is written into x[rd], wherever the task is; killed, it is discarded. -/
def amoReturnStep (w : Who) (v : Word) (s : State) : State :=
  if 8192 ≤ w.core then foreignReturn s w v
  else match locate s w.core w.slot w.gtid with
    | none => endItem s w
    | some a =>
      match (taskSlot s a).out.find? fun o => o.id == w.item with
      | none => s
      | some o => afterAck (modTask s a fun t => wakeSlot (landLoad t o (BitVec.ofNat 512 v.toNat))) w

def execAmoReturn (who : Who) (v : Word) (s : State) : Host.Outcome State Fault Refusal := always (amoReturnStep who v) s

/-! ## Atomics from other chips (R247) -/

/-- Unacknowledged atomics of the interface to one home identity (R246). -/
def soTo (s : State) (key : Nat) : Nat := (s.soOut.filter fun e => e.2 == key).length

/-- SCALE_OUT_ATOMIC: a duplicate is dropped, or answered from VAL once its value has returned; another passes to its home
as source 3,144 with the interface's own number, and waits while 64 are unacknowledged there. -/
def scaleOutAtomicStep (chip core : Nat) (a : AtomPkt) (s : State) : State :=
  let key := chip * 4096 + core
  let r := tget s.soRecords key ⟨0, 0, true⟩
  if isDuplicate r.last a.seq then
    if !a.red && r.last == a.seq && r.done then
      { s with outbox := s.outbox ++ [.chipAtomic chip { a with b := r.val }] }
    else s
  else
    let (home, phys) := (homeOf s a.loc a.va).getD (4095, 4095)
    let to_ := keyOf a.loc home
    if 64 ≤ soTo s to_ then later s (.scaleOutAtomic chip core a)
    else
      let n := tget s.soAtoms to_ 1
      let who : Who := { a.who with core := foreignAtom chip core a.seq }
      let s1 := { s with
        soRecords := tset s.soRecords key ⟨a.seq, 0, a.red⟩
        soAtoms := tset s.soAtoms to_ ((n + 1) % 4096)
        soOut := s.soOut ++ [(who.core, to_)] }
      sendTo s1 soSource (.core phys) (.atomicMessage { a with source := soSource, home := home, seq := n, who := who })

def execScaleOutAtomic (chip core : Nat) (a : AtomPkt) (s : State) : Host.Outcome State Fault Refusal :=
  always (scaleOutAtomicStep chip core a) s

end Sys2Proof.Machine
end

