-- ==== Sys2Proof/Machine/Fences.lean ====
section
/-! DEFINITION. FENCE and its scope (spec 13 R259-R262), and WAITR (18 R344). -/

namespace Sys2Proof.Machine

/-- Reserved bits of a scope word (R259). -/
def scopeBad (w : Nat) : Bool := bits w 63 32 != 0 || bits w 30 29 != 0 || bit w 23 || bits w 15 13 != 0 || bit w 7

/-- The places a copy writes to: one per page or scratchpad its destination touches (R261). -/
def copyPlaces (s : State) (c : Copy) : List Place :=
  (copySpans c).flatMap fun sp =>
    (pageParts (sp.2 / 4096 + 2) sp.1 sp.2).flatMap fun p =>
      match classify p.1 with
      | .localSp => [.core c.who.core]
      | .window => [.core (windowCore c.who.core p.1)]
      | .device =>
        match translate s (.cluster (clusterOf c.who.core)) c.region p.1 with
        | .ok (_, lf) => [locPlace (leafLoc s lf p.1)]
        | .error _ => []
      | .progView => []
      | .hole => []
      | .nonCanon => []

/-- The places of an outstanding item: of a load or AMO, those where it is not performed yet. -/
def itemPlaces (s : State) (g : Word) (o : OutItem) : List Place :=
  match o.kind with
  | .copy =>
    match s.copies.find? fun e => e.2.who.gtid == g && e.2.who.item == o.id with
    | some e => copyPlaces s e.2
    | none => []
  | .load | .amo | .store | .stn | .red | .msg | .node | .spawn => o.places

/-- The items a fence of scope w waits for (R261). -/
def fenceWaits (s : State) (t : Slot) (w : Nat) : List Nat :=
  (t.out.filter fun o => (itemPlaces s t.gtid o).any (inScope w)).map fun o => o.id

def fenceOp (ra : XField) : Op Unit := do
  operands [ra] .none false
  let w ← rdX ra
  trapIf (scopeBad w.toNat) tIllegal
  change fun s =>
    let s1 := parkIn (.fence w (fenceWaits s (curSlot s) w.toNat)) s
    if fenceDone s1 s1.cur.core s1.cur.slot then
      atCycle s1 (s1.cycle + 1) (.fenceComplete s1.cur.core s1.cur.slot)
    else s1

/-- FENCE (R261). -/
def execFence (ra : XField) (s : State) : Host.Outcome State Fault Refusal := runOp (fenceOp ra) s

/-- The first entry of a region's log: its CAUSE and address. -/
def firstLogged (s : State) (r : Region) : Nat × Word :=
  match vaPlaces s r.id r.alog 32 with
  | some ps =>
    let ws := wordsOf 4 (placesRead s ps none)
    (bits (ws.getD 3 0#64).toNat 39 36, ws.getD 0 0#64)
  | none => (0, 0)

/-- FENCE_COMPLETE (R261): the slot unparks; with an uncleared log entry its task is trapped ASYNC at the fence and the
region halts (REGION_HALT, 12 R250). -/
def fenceCompleteStep (core slot : Nat) (s : State) : State :=
  if !fenceDone s core slot then s
  else
    let t := getSlot s core slot
    match getRegion s t.region with
    | none => modSlot s core slot completePark
    | some r =>
      if logCount s r == 0 then modSlot s core slot completePark
      else
        let (cause, va) := firstLogged s r
        let tr : Trap := ⟨16, cause, 0, va⟩
        haltRegion
          (modSlot s core slot fun t => { t with park := .trapped tr, nextSw := false, swPark := false, heldWords := none }) r core (some t.gtid) t.gtid t.pc slot tr

def execFenceComplete (core slot : Nat) (s : State) : Host.Outcome State Fault Refusal :=
  always (fenceCompleteStep core slot) s

/-! ## WAITR (18 R344) -/

/-- A register that a WAITR field names; none for "none". -/
def waitrReg (file : Nat) (f : XField) : Option RegId :=
  match file with
  | 0 => if f.toNat == 0 then none else some (.x f.toNat)
  | 1 => if f.toNat < 32 then some (.f f.toNat) else none
  | _ => if f.toNat < 32 then some (.v f.toNat) else none

/-- A WAITR field that is no register and not "none". -/
def waitrBad (file : Nat) (f : XField) : Bool :=
  if file == 0 then decide (48 ≤ f.toNat) else decide (32 < f.toNat)

def waitrOp (file : BitVec 2) (rd ra rb : XField) : Op Unit := do
  trapIf (file.toNat == 3 || [rd, ra, rb].any (waitrBad file.toNat)) tIllegal
  let s ← look
  let rs := [rd, ra, rb].filterMap (waitrReg file.toNat)
  if rs.any (isPending (curSlot s)) then change (parkIn (.waitr rs)) else pure ()

/-- WAITR: the slot parks until the named registers have clear pending bits. -/
def execWaitr (file : BitVec 2) (rd ra rb : XField) (s : State) : Host.Outcome State Fault Refusal :=
  runOp (waitrOp file rd ra rb) s

end Sys2Proof.Machine
end

