-- ==== Sys2Proof/Machine/RunQueue.lean ====
section
/-! DEFINITION. Creating tasks and queueing them (spec 15 R291, R292, R304, R305, 03 R79, 16 R315): run queues, mailbox slots
and the messages that wait at a tag. -/

namespace Sys2Proof.Machine

/-! ## New tasks (15 R292) -/

/-- A new GTID of a core for a region, and the core's serial advanced. -/
def newGtid (s : State) (core rid : Nat) : Word × State :=
  let n := (getCore s core).serial
  (w64 (rid % 2 ^ 16 * 2 ^ 48 + core % 4096 * 2 ^ 36 + n % 2 ^ 36), modCore s core fun k => { k with serial := n + 1 })

/-- Whether a core's run queue has room (15 R291). -/
def runqRoom (k : Core) : Bool := decide (k.runq.length < 320)

/-- A task joins its core's run queue, or waits at its source while the queue is full. -/
def enqueue (s : State) (core : Nat) (q : QTask) : State :=
  modCore s core fun k =>
    if runqRoom k && k.runHold.isEmpty then { k with runq := k.runq ++ [q] } else { k with runHold := k.runHold ++ [q] }

/-- Tasks held back enter while there is room. -/
def admitHeld (k : Core) : Core :=
  let n := 320 - k.runq.length
  { k with runq := k.runq ++ k.runHold.take n, runHold := k.runHold.drop n }

/-- A new task of a region, counted in its OTC, joins the run queue of a core (16 R315). -/
def createTask (s : State) (core rid cls : Nat) (o : TaskOrigin) (pc x3 x4 : Word) (missing : Option Nat) : Word × State :=
  let (g, s1) := newGtid s core rid
  (g, enqueue (otcAdd s1 rid 1) core ⟨g, rid, cls, o, .fresh pc x3 x4, s.cycle, missing⟩)

/-- The start state of a task's slot (03 R79). -/
def freshSlot (now : Nat) (q : QTask) (pc x3 x4 : Word) : Slot :=
  { Slot.empty with
    held := true
    gtid := q.gtid
    region := q.region
    cls := q.cls
    origin := q.origin
    pc := pc
    firstPc := pc
    arg := x3
    enqueuedAt := q.enqueuedAt
    dispatchedAt := now
    x := [(3, x3), (4, x4), (5, w64 (q.gtid.toNat % 2 ^ 32))]
    notBefore := now + 1 }

/-! ## Route-tag entries (15 R304) -/

def getTag (k : Core) (n : Nat) : Nat := (tget k.tags n 0#64).toNat

def tagV (e : Nat) : Bool := bit e 31

def tagEn (e : Nat) : Bool := bit e 30

def tagPend (e : Nat) : Bool := bit e 29

def tagSerial (e : Nat) : Bool := bit e 28

def tagClass (e : Nat) : Nat := bits e 27 26

def tagRun (e : Nat) : Bool := bit e 25

def tagRgn (e : Nat) : Nat := bits e 22 19

def tagPcw (e : Nat) : Nat := bits e 18 0

def tagWaiting (e : Nat) : Nat := bits e 47 40

def tagMaxq (e : Nat) : Nat := bits e 39 32

/-- Replaces a field of a tag entry. -/
def putTag (s : State) (core n hi lo v : Nat) : State :=
  modCore s core fun k => { k with tags := tset k.tags n (w64 (putBits (getTag k n) hi lo v)) }

/-- Slots of accepted messages of a tag not yet started, in acceptance order. -/
def tagQueue (k : Core) (n : Nat) : List Nat := tget k.tagWait n []

/-- The mailbox address of a slot (15 R299). -/
def mboxAddr (i : Nat) : Nat := Config.mailboxBase + 64 * i

/-- The header and payload in a mailbox slot. -/
def mboxHdr (s : State) (core i : Nat) : Word := w64 (leNat (spRead s core (mboxAddr i) 8))

def mboxPayload (s : State) (core i : Nat) : List Word :=
  (List.range (hdrNpay (mboxHdr s core i))).map fun j => w64 (leNat (spRead s core (mboxAddr i + 8 + 8 * j) 8))

/-- The region of a message in a mailbox slot. -/
def mboxRegion (k : Core) (i : Nat) : Nat :=
  match tfind k.mbox i with
  | some u => u.region
  | none => 0

/-- Whether a waiting message of the tag may become a task now (15 R305). -/
def tagStarts (k : Core) (n : Nat) : Bool :=
  let e := getTag k n
  !(tagQueue k n).isEmpty && tagEn e && (!tagSerial e || !tagRun e) && runqRoom k

/-- The oldest waiting message of a tag becomes a task. -/
def startOne (s : State) (core n : Nat) : State :=
  let k := getCore s core
  match tagQueue k n with
  | [] => s
  | i :: rest =>
    let e := getTag k n
    let s1 := modCore s core fun k => { k with tagWait := tset k.tagWait n rest }
    let s2 := putTag s1 core n 47 40 (tagWaiting e - 1)
    let s3 := if rest.isEmpty then putTag s2 core n 29 29 0 else s2
    let s4 := if tagSerial e then putTag s3 core n 25 25 1 else s3
    let (g, s5) := createTask s4 core (mboxRegion k i) (tagClass e) (.message i n) (w64 (4 * tagPcw e)) (w64 (mboxAddr i))
      (mboxHdr s core i) none
    modCore s5 core fun k => { k with msgTask := g }

/-- Waiting messages of a tag start while they may. -/
def startTag (s : State) (core n : Nat) : Nat → State
  | 0 => s
  | f + 1 => if tagStarts (getCore s core) n then startTag (startOne s core n) core n f else s

def startWaiting (s : State) (core n : Nat) : State := startTag s core n 256

/-- A core's waiting messages of every tag, once its run queue has room again. -/
def startAll (s : State) (core : Nat) : State :=
  ((getCore s core).tagWait).foldl (fun s e => startWaiting s core e.1) s

/-- Work that waited for room in the run queue enters it (15 R291). -/
def refillQueue (s : State) (core : Nat) : State := startAll (modCore s core admitHeld) core

/-! ## Mailbox slots (15 R299, R300) -/

/-- The lowest free mailbox slot in [lo, hi). -/
def freeMbox (k : Core) (lo hi : Nat) : Option Nat :=
  ((List.range (hi - lo)).map fun i => lo + i).find? fun i => (tfind k.mbox i).isNone

/-- The region whose table set a tag entry's RGN names, that has loaded the entry (15 R419). -/
def tagRegion (k : Core) (n : Nat) : Nat := tget k.tagOwner n 0

def liveOr (s : State) (rid other : Nat) : Nat := if (getRegion s rid).isSome then rid else other

/-- The region with a local index on a cluster (15 R419). -/
def regionOfIndex (s : State) (cl ix : Nat) : Nat :=
  match ix with
  | 0 => 0
  | n + 1 =>
    match tfind (getCluster s cl).sets n with
    | some e => e.region
    | none => 0

/-- The region of the task a message on a tag starts (15 R419). -/
def itemRegion (s : State) (core tag : Nat) (m : Msg) : Nat :=
  let own := tagRegion (getCore s core) tag
  let w := fun (i : Nat) => (m.pay.getD i 0#64)
  match tag with
  | 0xFC => liveOr s (gtidRegion (w 0)) own
  | 0xFD => liveOr s (gtidRegion (w 0)) own
  | 0xFE =>
    if bits (w 1).toNat 31 24 == 8 then liveOr s (regionOfIndex s (clusterOf core) (bits (w 1).toNat 47 32)) own
    else if w 0 == 0#64 then own
    else liveOr s (gtidRegion (w 0)) own
  | 0xFF => liveOr s (gtidRegion m.who.gtid) own
  | _ => own

/-- Whether a region is being killed. -/
def isDying (s : State) (rid : Nat) : Bool :=
  match getRegion s rid with
  | some r => r.dying
  | none => false

/-- A message enters a mailbox slot and waits at its tag (15 R299, R305). -/
def waitMessage (s : State) (core i tag rid : Nat) (m : Msg) : State :=
  let d := natLe 8 m.hdr.toNat ++ bytesOf m.pay
  let s1 := spWrite s core (mboxAddr i) (localIndex s (clusterOf core) rid) d
  let s2 := modCore (markReached s1 core) core fun k => { k with
    mbox := tset k.mbox i ⟨rid, tag⟩
    tagWait := tset k.tagWait tag (tagQueue k tag ++ [i]) }
  let e := getTag (getCore s2 core) tag
  let s3 := putTag s2 core tag 47 40 (tagWaiting e + 1)
  startWaiting (if tagEn e then s3 else putTag s3 core tag 29 29 1) core tag

/-- An accepted message takes its slot; that of a region being killed is discarded (16 R315). -/
def placeMessage (s : State) (core i tag : Nat) (m : Msg) : State :=
  let rid := itemRegion s core tag m
  if isDying s rid then s else waitMessage s core i tag rid m

/-- A bounce in a free bounce slot (15 R300): the refusal reason replaces the source fields. -/
def placeBounce (s : State) (core : Nat) (m : Msg) (reason : Nat) : State :=
  if isMgmt core || !tagV (getTag (getCore s core) 0xFF) then s
  else
    let h := w64 (putBits m.hdr.toNat 43 32 (reason % 16))
    match freeMbox (getCore s core) 240 256 with
    | some i => placeMessage s core i 0xFF { m with hdr := h }
    | none => modCore s core fun k => { k with heldBounces := k.heldBounces ++ [(m, reason)] }

/-- Held bounces take free bounce slots, oldest first. -/
def admitBounces (s : State) (core : Nat) : Nat → State
  | 0 => s
  | f + 1 =>
    match (getCore s core).heldBounces with
    | [] => s
    | b :: rest =>
      if (freeMbox (getCore s core) 240 256).isSome then
        admitBounces (placeBounce (modCore s core fun k => { k with heldBounces := rest }) core b.1 b.2) core f
      else s

/-- A mailbox slot is freed; held bounces take the free bounce slots. -/
def releaseMbox (s : State) (core i : Nat) : State :=
  let s1 := modCore s core fun k => { k with mbox := tdel k.mbox i }
  admitBounces s1 core (getCore s1 core).heldBounces.length

/-- What the end of a message task frees (15 R294, R303): its mailbox slot, and RUN of its SERIAL tag. -/
def endMessage (s : State) (core slot tag : Nat) : State :=
  let e := getTag (getCore s core) tag
  startWaiting (releaseMbox (if tagSerial e then putTag s core tag 25 25 0 else s) core slot) core tag

/-- Waiting messages of a tag are discarded, their slots freed (15 R306). -/
def clearTag (s : State) (core tag : Nat) : State :=
  let l := tagQueue (getCore s core) tag
  let s1 := modCore s core fun k => { k with tagWait := tset k.tagWait tag [] }
  let s2 := putTag (putTag s1 core tag 47 40 0) core tag 29 29 0
  l.foldl (fun s i => releaseMbox s core i) s2

end Sys2Proof.Machine
end

