-- ==== Sys2Proof/Machine/Barriers.lean ====
section
/-! DEFINITION. Barrier objects (spec 17 R322-R330, 10 R228) and the loop unit (R331-R333). -/

namespace Sys2Proof.Machine

/-! ## Result words (R325) -/

def barWord (status phase arr : Nat) (last : Bool) : Word :=
  w64 (arr % 2 ^ 16 * 2 ^ 16 + (if last then 2 ^ 12 else 0) + phase % 16 * 2 ^ 8 + status % 256)

def barStatus (w : Word) : Nat := bits w.toNat 7 0

/-- The word by which the owner tells a waiting core that its wait is parked: ARR and PHASE of that moment (R327). -/
def parkedWord (phase arr : Nat) : Word := w64 (2 ^ 63 + (barWord 0 phase arr false).toNat)

/-! ## The object (R322) -/

/-- A barrier object as it stands. -/
structure BarObj where
  lo : Nat
  hi : Nat
deriving DecidableEq, Repr

def barObj (s : State) (owner addr : Nat) : BarObj :=
  ⟨leNat (spRead s owner addr 8), leNat (spRead s owner (addr + 8) 8)⟩

def bExp (o : BarObj) : Nat := bits o.lo 15 0

def bArr (o : BarObj) : Nat := bits o.lo 31 16

def bPhase (o : BarObj) : Nat := bits o.lo 35 32

def bName (o : BarObj) : Nat := bits o.lo 47 40

/-- A field of the object's low word replaced. -/
def bPut (o : BarObj) (hi lo v : Nat) : BarObj := { o with lo := putBits o.lo hi lo v }

/-- The object is written by the owner's atomic slot for a task of region `rid`. -/
def barStore (s : State) (owner addr rid : Nat) (o : BarObj) : State :=
  spWrite s owner addr (localIndex s (clusterOf owner) rid) (natLe 8 o.lo ++ natLe 8 o.hi)

/-- A hardware name of an owner (R323). -/
def barName (s : State) (owner n : Nat) : Option BarName := tfind (getCore s owner).names n

def setName (s : State) (owner n : Nat) (b : BarName) : State :=
  modCore s owner fun k => { k with names := tset k.names n b }

/-- Whether a name is bound to an object, or to another, with waiters. -/
def nameBusy (s : State) (owner n obj : Nat) (same : Bool) : Bool :=
  match barName s owner n with
  | some b => ((b.obj == obj) == same) && !b.waiters.isEmpty
  | none => false

/-- Passed(ph, w) of R326. -/
def barPassed (ph w : Nat) : Bool :=
  let d := (ph + 16 - w % 16) % 16
  decide (1 ≤ d) && decide (d ≤ 8)

/-! ## The operations (R326) -/

/-- A barrier word goes from an owner to a core. -/
def barAnswer (s : State) (owner : Nat) (who : Who) (w : Word) : State :=
  sendTo s (coreSrc owner) (.core who.core) (.barrierAnswer who w)

def barRelease (s : State) (owner : Nat) (who : Who) (w : Word) : State :=
  sendTo s (coreSrc owner) (.core who.core) (.barrierRelease who w)

/-- Release(o): every waiter that has passed is sent OK; gives the object with its WAITERS bit. -/
def releaseWaiters (s : State) (owner : Nat) (o : BarObj) : State × BarObj :=
  match barName s owner (bName o) with
  | none => (s, bPut o 37 37 0)
  | some b =>
    let p := bPhase o
    let s1 := (b.waiters.filter fun x => barPassed p x.w).foldl
      (fun s x => barRelease s owner x.who (barWord 0 p (bArr o) false)) s
    let rest := b.waiters.filter fun x => !barPassed p x.w
    (setName s1 owner (bName o) { b with waiters := rest }, bPut o 37 37 (if rest.isEmpty then 0 else 1))

/-- Init(o, iw): the status and the state after. -/
def barInitStep (s : State) (owner addr rid : Nat) (iw : Word) : Nat × State :=
  let o := barObj s owner addr
  let n := bits iw.toNat 23 16
  if iw.toNat / 2 ^ 24 != 0 || o.hi != 0 || bits o.lo 63 48 != 0 || bits o.lo 39 38 != 0 then (6, s)
  else if bits iw.toNat 15 0 == 0 then (4, s)
  else if nameBusy s owner (bName o) addr true || nameBusy s owner n addr false then (5, s)
  else
    let kept := match barName s owner n with
      | some b => b.waiters
      | none => []
    (0, setName (barStore s owner addr rid ⟨bits iw.toNat 15 0 + n * 2 ^ 40, 0⟩) owner n ⟨addr, kept⟩)

/-- Arrive(o, n): the result word and the state after. -/
def barArrive (s : State) (owner addr rid n : Nat) (bad : Bool) : Word × State :=
  let o := barObj s owner addr
  if bExp o == 0 then (barWord 3 0 0 false, s)
  else if n == 0 || bad then (barWord 4 0 0 false, s)
  else
    let p := bPhase o
    if bExp o < bArr o + n then (barWord 1 p (bArr o) false, barStore s owner addr rid (bPut o 36 36 1))
    else if bArr o + n == bExp o then
      let (s1, o1) := releaseWaiters s owner (bPut (bPut o 31 16 0) 35 32 (p + 1))
      (barWord 0 p 0 true, barStore s1 owner addr rid o1)
    else (barWord 0 p (bArr o + n) false, barStore s owner addr rid (bPut o 31 16 (bArr o + n)))

/-- Wait(o, w): answered at once, or parked under the object's name. -/
def barWaitStep (s : State) (owner addr rid : Nat) (who : Who) (w bound : Nat) : State :=
  let o := barObj s owner addr
  if bExp o == 0 then barAnswer s owner who (barWord 3 0 0 false)
  else if barPassed (bPhase o) w then barAnswer s owner who (barWord 0 (bPhase o) (bArr o) false)
  else if bound == 0 then barAnswer s owner who (barWord 2 (bPhase o) (bArr o) false)
  else
    let b := (barName s owner (bName o)).getD ⟨addr, []⟩
    let s1 := setName s owner (bName o) { b with waiters := b.waiters ++ [⟨who, w % 16⟩] }
    barAnswer (barStore s1 owner addr rid (bPut o 37 37 1)) owner who (parkedWord (bPhase o) (bArr o))

/-- BARARW: its arrival, and its wait for the phase it arrived in. -/
def barArriveWait (s : State) (k : BarPkt) (rid : Nat) (rb : Word) : State :=
  let (w, s1) := barArrive s k.owner k.addr rid (bits rb.toNat 15 0) (bits rb.toNat 31 16 != 0)
  if barStatus w != 0 then barAnswer s1 k.owner k.who w
  else if bit w.toNat 12 then
    let o := barObj s1 k.owner k.addr
    barRelease s1 k.owner k.who (barWord 0 (bPhase o) (bArr o) true)
  else barWaitStep s1 k.owner k.addr rid k.who (bits w.toNat 11 8) (bits rb.toNat 63 32)

/-- An operation applied by the owner's atomic slot. -/
def barApply (s : State) (k : BarPkt) : State :=
  let rid := gtidRegion k.who.gtid
  match k.op with
  | .init iw =>
    let (st, s1) := barInitStep s k.owner k.addr rid iw
    barAnswer s1 k.owner k.who (barWord st 0 0 false)
  | .arrive rb =>
    let (w, s1) := barArrive s k.owner k.addr rid (bits rb.toNat 15 0) (rb.toNat / 2 ^ 16 != 0)
    barAnswer s1 k.owner k.who w
  | .wait rb =>
    if bits rb.toNat 31 4 != 0 then barAnswer s k.owner k.who (barWord 6 0 0 false)
    else barWaitStep s k.owner k.addr rid k.who (bits rb.toNat 3 0) (bits rb.toNat 63 32)
  | .arriveWait rb => barArriveWait s k rid rb

/-- BARRIER_OPERATION (R326): GONE where the owner does not answer; an operation on a word of an open interval waits
(19 R353). -/
def barrierOperationStep (k : BarPkt) (s : State) : State :=
  if !answering s k.owner then
    later (lostNotice s k.who.core k.who 5 k.owner) (.barrierAnswer k.who (barWord 7 0 0 false))
  else if undoHolds s k.owner k.addr 16 then putBack s (taskSrc k.who.core k.who.gtid) (.core k.owner) (.barrierOperation k)
  else barApply s k

def execBarrierOperation (k : BarPkt) (s : State) : Host.Outcome State Fault Refusal := always (barrierOperationStep k) s

/-! ## At the waiting core (R325, R327) -/

/-- A cancel leaves for the owner, behind the operation of the task that it takes back (R329). -/
def barCancel (s : State) (who : Who) (owner addr : Nat) : State :=
  taskSend s who.core who.gtid (.core owner) (.barrierCancel who owner addr)

/-- A parked barrier form resumes with its word. -/
def barDone (s : State) (c i rd : Nat) (w : Word) : State :=
  modSlot s c i fun t => completePark (putReg t (.x rd) (BitVec.ofNat 512 (w.toNat % 2 ^ 32)))

/-- Whether a parked wait's bound has expired: in the cycle of expiry it has not (R327). -/
def boundPassed (s : State) (bound : Option Nat) : Bool :=
  match bound with
  | some b => decide (b < s.cycle)
  | none => false

/-- What the owner's word does to a parked wait. -/
def barSeen (s : State) (c i : Nat) (who : Who) (w : Word) : State :=
  match (getSlot s c i).park with
  | .barrier rd id owner addr ph _ bound arw =>
    if id != who.item then s
    else if bit w.toNat 63 then
      let arr := bits w.toNat 31 16
      let phase := bits w.toNat 11 8
      if boundPassed s bound then barCancel (barDone s c i rd (barWord 2 phase arr false)) who owner addr
      else modSlot s c i fun t => { t with
        park := .barrier rd id owner addr (some (ph.getD phase)) (some (arr, phase)) bound arw }
    else barDone s c i rd w
  | _ => s

/-- BARRIER_ANSWER: a result word, or the notice that the wait is parked. -/
def barrierAnswerStep (who : Who) (w : Word) (s : State) : State :=
  match locate s who.core who.slot who.gtid with
  | some (.live c i) =>
    match (getSlot s c i).park with
    | .answer _ _ => answerSlot s who w
    | _ => barSeen s c i who w
  | _ => s

def execBarrierAnswer (who : Who) (w : Word) (s : State) : Host.Outcome State Fault Refusal :=
  always (barrierAnswerStep who w) s

/-- The stagger of a core of a region (10 R228). -/
def staggerOf (s : State) (core rid : Nat) : Nat :=
  if !isCompute core then 0
  else match getRegion s rid with
    | some r => r.stagger * (inCluster core % 16)
    | none => 0

/-- BARRIER_RELEASE (R327): judged against the bound on arrival, so that one in the cycle of expiry wins and a later one is
discarded; the slot goes on after the stagger. A word that comes with no wait parked before it is the operation's own
answer. -/
def barrierReleaseStep (who : Who) (w : Word) (s : State) : State :=
  match locate s who.core who.slot who.gtid with
  | some (.live c i) =>
    match (getSlot s c i).park with
    | .barrier rd id _ _ _ seen bound _ =>
      if id != who.item || (seen.isSome && boundPassed s bound) then s
      else
        let d := staggerOf s c (getSlot s c i).region
        if d == 0 then barDone s c i rd w
        else atCycle (modSlot s c i fun t => { t with park := .answer rd id, pc := t.nextPc }) (s.cycle + d)
          (.staggerExpiry who w)
    | _ => s
  | _ => s

def execBarrierRelease (who : Who) (w : Word) (s : State) : Host.Outcome State Fault Refusal :=
  always (barrierReleaseStep who w) s

/-- STAGGER_EXPIRY. -/
def execStaggerExpiry (who : Who) (w : Word) (s : State) : Host.Outcome State Fault Refusal :=
  always (fun s => answerSlot s who w) s

/-- BARRIER_BOUND_EXPIRY (R327): TIMEOUT with the ARR and PHASE the owner returned, and a cancel. -/
def barrierBoundStep (who : Who) (s : State) : State :=
  match locate s who.core who.slot who.gtid with
  | some (.live c i) =>
    match (getSlot s c i).park with
    | .barrier rd id owner addr _ (some (arr, phase)) _ _ =>
      if id != who.item then s else barCancel (barDone s c i rd (barWord 2 phase arr false)) who owner addr
    | _ => s
  | _ => s

def execBarrierBoundExpiry (who : Who) (s : State) : Host.Outcome State Fault Refusal := always (barrierBoundStep who) s

/-- The name under which a task waits at an owner. -/
def waiterName (s : State) (owner : Nat) (who : Who) : Option (Nat × BarName) :=
  (getCore s owner).names.find? fun e => e.2.waiters.any fun x => x.who == who

/-- BARRIER_CANCEL (R327, R329): the waiter is removed from the name it waits under, and WAITERS follows that name's set. -/
def barrierCancelStep (who : Who) (owner addr : Nat) (s : State) : State :=
  if !answering s owner then s
  else match waiterName s owner who with
    | none => s
    | some (n, b) =>
      let rest := b.waiters.filter fun x => x.who != who
      barStore (setName s owner n { b with waiters := rest }) owner addr (gtidRegion who.gtid)
        (bPut (barObj s owner addr) 37 37 (if rest.isEmpty then 0 else 1))

def execBarrierCancel (who : Who) (owner addr : Nat) (s : State) : Host.Outcome State Fault Refusal :=
  always (barrierCancelStep who owner addr) s

/-! ## The instructions (R324) -/

/-- The owner and address of an object's address, or the trap it raises. -/
def barPlace (core : Nat) (a : Word) : Except Trap (Nat × Nat) :=
  if a.toNat % 16 != 0 then .error (tMisalign a)
  else match classify a.toNat with
    | .localSp => if a.toNat + 16 ≤ Config.mailboxBase then .ok (core, a.toNat) else .error (tRange 0 a)
    | .window =>
      let o := windowAddr a.toNat
      if o + 16 ≤ Config.mailboxBase then .ok (windowCore core a.toNat, o) else .error (tRange 0 a)
    | .device => .error (tRange 0 a)
    | .progView => .error (tRange 0 a)
    | .hole => .error (tRange 0 a)
    | .nonCanon => .error (tRange 0 a)

/-- Whether a place lies in a cluster. -/
def placeInCluster (cl : Nat) (p : Place) : Bool :=
  match p with
  | .core c => !isMgmt c && clusterOf c == cl
  | .ctrl _ _ => false
  | .port _ => false
  | .host => false
  | .chip _ => false

/-- The earlier items an arrival waits for (R328). -/
def arrivalWaits (s : State) : List Nat :=
  let t := curSlot s
  (t.out.filter fun o =>
    (match o.kind with
     | .store | .stn | .red | .copy => true
     | .load | .amo | .msg | .node | .spawn => false) &&
      (itemPlaces s t.gtid o).any (placeInCluster (clusterOf s.cur.core))).map fun o => o.id

/-- An operation leaves for its owner, an arrival behind the items it waits for. -/
def barSend (s : State) (who : Who) (owner addr : Nat) (op : BarOp) (waits : List Nat) : State :=
  let ev : Event := .barrierOperation ⟨who, owner, addr, op⟩
  if waits.isEmpty then taskSend s who.core who.gtid (.core owner) ev
  else holdInside s who.core (taskSrc who.core who.gtid) (.core owner) who.gtid waits ev

/-- The address of a barrier form. -/
def barOperand (ra : XField) : Op (Nat × Nat) := do
  let a ← rdChecked ra
  let s ← look
  match barPlace s.cur.core a with
  | .ok p => pure p
  | .error t => raise t

/-- BARINIT and BARARR: the slot parks until the owner answers. -/
def barAsk (rd ra rb : XField) (op : Word → BarOp) (arrives : Bool) : Op Unit := do
  operands [ra, rb] (.x rd) false
  let (owner, addr) ← barOperand ra
  let v ← rdX rb
  change fun s =>
    let (s1, who) := parkAnswer rd s
    barSend s1 who owner addr (op v) (if arrives then arrivalWaits s else [])

def execBarinit (rd ra rb : XField) (s : State) : Host.Outcome State Fault Refusal :=
  runOp (barAsk rd ra rb .init false) s

def execBararr (rd ra rb : XField) (s : State) : Host.Outcome State Fault Refusal :=
  runOp (barAsk rd ra rb .arrive true) s

/-- The cycle at which a bound has expired: 0 is tested by the owner, all ones never expires. -/
def boundCycle (s : State) (b : Nat) : Option Nat :=
  if b == 0 || b == 2 ^ 32 - 1 then none else some (s.cycle + b)

/-- Parks in a wait, with its bound. -/
def parkBarrier (rd owner addr : Nat) (w : Option Nat) (bound : Nat) (arw : Bool) (s : State) : State × Who :=
  let who := curWho s
  let b := boundCycle s bound
  let s1 := modCur s fun t => { t with
    park := .barrier rd who.item owner addr w none b arw, nextItem := t.nextItem + 1, barPhase := none }
  (match b with
   | some c => atCycle s1 (c + 1) (.barrierBoundExpiry who)
   | none => s1, who)

def barWaitOp (rd ra rb : XField) : Op Unit := do
  operands [ra, rb] (.x rd) false
  let (owner, addr) ← barOperand ra
  let v ← rdX rb
  change fun s =>
    let (s1, who) := parkBarrier rd.toNat owner addr (some (bits v.toNat 3 0)) (bits v.toNat 63 32) false s
    barSend s1 who owner addr (.wait v) []

/-- BARWAIT. -/
def execBarwait (rd ra rb : XField) (s : State) : Host.Outcome State Fault Refusal := runOp (barWaitOp rd ra rb) s

/-- BARARW; one whose arrival was applied before its task was stopped waits for that phase (R329). -/
def barArwOp (rd ra rb : XField) : Op Unit := do
  operands [ra, rb] (.x rd) false
  let (owner, addr) ← barOperand ra
  let v ← rdX rb
  change fun s =>
    let bound := bits v.toNat 63 32
    match (curSlot s).barPhase with
    | some p =>
      let (s1, who) := parkBarrier rd.toNat owner addr (some p) bound true s
      barSend s1 who owner addr (.wait (w64 (bound * 2 ^ 32 + p))) []
    | none =>
      let (s1, who) := parkBarrier rd.toNat owner addr none bound true s
      barSend s1 who owner addr (.arriveWait v) (arrivalWaits s)

def execBararw (rd ra rb : XField) (s : State) : Host.Outcome State Fault Refusal := runOp (barArwOp rd ra rb) s

/-! ## The loop unit (R331-R333) -/

/-- A counter of a cluster; idle where none is listed. -/
def loopCtr (s : State) (cl n : Nat) : Option LoopCtr := tfind (getCluster s cl).loops n

/-- LOOPINIT's status and effect. -/
def loopInit (s : State) (cl rid : Nat) (a b : Word) : Nat × State :=
  let n := bits b.toNat 3 0
  let p := bits b.toNat 27 16
  let mn := bits b.toNat 63 40
  if a.toNat / 2 ^ 40 != 0 || bits b.toNat 39 28 != 0 || bits b.toNat 15 4 != 0 || p == 0 || mn == 0 then (2, s)
  else
    let free := match loopCtr s cl n with
      | none => true
      | some c => c.next == c.n || c.region == rid
    if !free then (1, s)
    else if a == 0#64 then (0, modCluster s cl fun k => { k with loops := tdel k.loops n })
    else (0, modCluster s cl fun k => { k with loops := tset k.loops n ⟨0, a.toNat, p, mn, rid⟩ })

/-- GetChunk(c). -/
def getChunk (s : State) (cl rid n : Nat) : Word × State :=
  match loopCtr s cl n with
  | none => (0xFFFFFFFFFF#64, s)
  | some c =>
    if c.region != rid then (0xFFFFFFFFFF#64, s)
    else
      let rem := c.n - c.next
      let cnt := Nat.min rem (Nat.min (Nat.max c.min (ceilDiv rem c.p)) (2 ^ 24 - 1))
      (w64 (cnt * 2 ^ 40 + c.next), modCluster s cl fun k => { k with loops := tset k.loops n { c with next := c.next + cnt } })

/-- The task of a request waiting at a cluster's loop unit. -/
def chunkWho (cl : Nat) (f : Flight) : Option Who :=
  match f.act with
  | .getchunkResult w _ => if clusterOf w.core == cl then some w else none
  | _ => none

/-- Whether a waiting request was made in this cycle and stands after core `c`, slot `i` in the order of R333. -/
def chunkAfter (s : State) (cl c i : Nat) (f : Flight) : Bool :=
  match chunkWho cl f with
  | none => false
  | some w => decide (s.cycleFlight ≤ f.id) && (decide (c < w.core) || (c == w.core && decide (i < w.slot)))

/-- One waiting request is served: its chunk is kept until it is written. -/
def serveChunk (cl : Nat) (s : State) (f : Flight) : State :=
  match f.act with
  | .getchunkResult w counter =>
    if (getCluster s cl).chunks.any fun x => x.1 == w then s
    else
      let (v, s1) := getChunk s cl (gtidRegion w.gtid) (counter % 16)
      modCluster s1 cl fun k => { k with chunks := k.chunks ++ [(w, v)] }
  | _ => s

/-- The requests that reached the loop unit before one of the current slot are served first, in their order (R333). -/
def serveEarlier (s : State) : State :=
  let cl := clusterOf s.cur.core
  let fs := s.flights.filter fun f => (chunkWho cl f).isSome && !chunkAfter s cl s.cur.core s.cur.slot f
  (sortBy (fun f => f.due) fs).foldl (serveChunk cl) s

/-- LOOPINIT: the unit's answer goes straight to rd. -/
def loopinitOp (rd ra rb : XField) : Op Unit := do
  operands [ra, rb] (.x rd) false
  let a ← rdX ra
  let b ← rdX rb
  change fun s =>
    let (st, s1) := loopInit (serveEarlier s) (clusterOf s.cur.core) (curSlot s).region a b
    let (s2, who) := parkAnswer rd s1
    later s2 (.barrierAnswer who (w64 st))

def execLoopinit (rd ra rb : XField) (s : State) : Host.Outcome State Fault Refusal := runOp (loopinitOp rd ra rb) s

/-- A request joins the unit's queue, which serves one per cycle in order of arrival: after what waits, but before requests
of the same cycle of higher core and slot numbers. -/
def chunkJoin (s : State) (who : Who) (counter : Nat) : State :=
  let cl := clusterOf who.core
  let behind := s.flights.filter (chunkAfter s cl who.core who.slot)
  match behind with
  | [] =>
    let due := (s.flights.filter fun f => (chunkWho cl f).isSome).foldl (fun d f => Nat.max d (f.due + 1)) (s.cycle + 6)
    atCycle s due (.getchunkResult who counter)
  | f :: r =>
    let due := r.foldl (fun d f => Nat.min d f.due) f.due
    let fs := s.flights.map fun f => if chunkAfter s cl who.core who.slot f then { f with due := f.due + 1 } else f
    atCycle { s with flights := fs } due (.getchunkResult who counter)

def getchunkOp (rd ra : XField) : Op Unit := do
  operands [ra] (.x rd) false
  let a ← rdX ra
  change fun s =>
    let who := curWho s
    let s1 := modCur s fun t => setPending
      { t with
        nextItem := t.nextItem + 1
        out := t.out ++ [⟨who.item, .load, [], [], .x rd.toNat, .none, 1, 0, BitVec.allOnes 512, false, none⟩] } (.x rd.toNat)
    chunkJoin s1 who a.toNat

/-- GETCHUNK: rd is pending until the unit's result. -/
def execGetchunk (rd ra : XField) (s : State) : Host.Outcome State Fault Refusal := runOp (getchunkOp rd ra) s

/-- The chunk of a request: the one already kept for it, or the counter's next. -/
def takeChunk (s : State) (who : Who) (counter : Nat) : Word × State :=
  let cl := clusterOf who.core
  match (getCluster s cl).chunks.find? fun x => x.1 == who with
  | some x => (x.2, modCluster s cl fun k => { k with chunks := k.chunks.filter fun x => x.1 != who })
  | none => getChunk s cl (gtidRegion who.gtid) (counter % 16)

/-- GETCHUNK_RESULT (R333): the request is served and the chunk written; a task that has ended loses it. -/
def getchunkStep (who : Who) (counter : Nat) (s : State) : State :=
  let (w, s1) := takeChunk s who counter
  match locate s1 who.core who.slot who.gtid with
  | none => s1
  | some a =>
    match (taskSlot s1 a).out.find? fun o => o.id == who.item with
    | none => s1
    | some o => modTask s1 a fun t => landLoad t o (BitVec.ofNat 512 w.toNat)

def execGetchunkResult (who : Who) (counter : Nat) (s : State) : Host.Outcome State Fault Refusal :=
  always (getchunkStep who counter) s

end Sys2Proof.Machine
end

