-- ==== Sys2Proof/Machine/Members.lean ====
section
/-! DEFINITION. The members of a gang and its breakdown (spec 09 R202, R204, R207), and what a task has at its cluster's
matrix engine (10 R211, R223). -/

namespace Sys2Proof.Machine

/-! ## What a task has at the engine -/

/-- A stopped or ended task's MMA leaves the engine's pending ones; an accepted one stays until its block boundary (R223). -/
def dropMma (s : State) (w : Who) : State :=
  modCluster s (clusterOf w.core) fun k => { k with
    mmaPending := k.mmaPending.filter fun q => !(q.who.gtid == w.gtid && q.who.core == w.core)
    mmaChosen := match k.mmaChosen with
      | some q => if q.who.gtid == w.gtid && q.who.core == w.core then none else some q
      | none => none }

/-- Whether the engine holds an accepted MMA of the task in a slot. -/
def mmaAccepted (s : State) (core : Nat) (g : Word) : Bool :=
  match (getCluster s (clusterOf core)).mmaRun with
  | some r => r.req.who.core == core && r.req.who.gtid == g
  | none => false

/-! ## Members -/

/-- The cores of a gang. -/
def gangCores (g : Gang) : List Nat := (List.range g.size).map fun m => g.base + m

/-- The slot of a member core. -/
def memberSlot (g : Gang) (core : Nat) : Nat := g.slots.getD (core - g.base) 0

def isLeader (g : Gang) (core : Nat) : Bool := core == g.base

/-- Whether a slot is the member slot of its core's gang. -/
def isMember (k : Core) (core i : Nat) : Bool :=
  match k.gang with
  | some g => memberSlot g core == i
  | none => false

/-- A member's task leaves the gang: a follower goes on after its GANGWAIT with a status. -/
def leaveGang (s : State) (g : Gang) (c status : Nat) : State :=
  let s1 := modCore s c fun k => { k with gang := none }
  if isLeader g c then s1
  else
    let m := c - g.base
    let (pc, sw) := g.conts.getD m (0, false)
    modSlot s1 c (memberSlot g c) fun t =>
      let t1 := putReg t (.x (g.waitRds.getD m 0)) (BitVec.ofNat 512 status)
      match t1.park with
      | .none => { t1 with pc := pc, park := if sw then .switchMark else .none }
      | .switchMark => { t1 with pc := pc }
      | _ => { t1 with pc := pc, nextPc := pc, nextSw := sw }

/-- A broken member that is parked (R207): an MMA not accepted is withdrawn and the task parks with the trap; one in another
park ends it first and takes the trap at its next bundle (log 18). -/
def breakMember (s : State) (c i : Nat) : State :=
  let t := getSlot s c i
  let later_ := modSlot s c i fun t => { t with trapNext := some ⟨14, 0, 0, 0⟩ }
  match t.park with
  | .none | .switchMark | .trapped _ | .fpEvent _ | .halted | .readBack _ => parkTrapped s c i ⟨14, 0, 0, 0⟩
  | .mma => if mmaAccepted s c t.gtid then later_ else parkTrapped (dropMma s ⟨c, i, t.gtid, 0⟩) c i ⟨14, 0, 0, 0⟩
  | .waitr _ | .fence _ _ | .answer _ _ | .barrier _ _ _ _ _ _ _ _ | .join _ _ | .gangWait _ | .gangForm _ _ _
  | .flush _ _ _ _ | .releaseDrain _ _ _ _ _ => later_

/-- Breakdown (R207): members not in `own` park with the gang-breakdown trap, and the lock ends. -/
def breakGang (s : State) (g : Gang) (own : List Nat) : State :=
  let s1 := ((gangCores g).filter fun c => !own.contains c).foldl (fun s c => breakMember s c (memberSlot g c)) s
  (gangCores g).foldl (fun s c => leaveGang s g c 4) s1

/-- The breakdown of the gang of a core, if it is in one and the slot is its member. -/
def breakIfMember (s : State) (core i : Nat) : State :=
  match (getCore s core).gang with
  | some g => if memberSlot g core == i then breakGang s g [core] else s
  | none => s

end Sys2Proof.Machine
end

