-- ==== Sys2Proof/Machine/Links.lean ====
section
/-! DEFINITION. The package network (spec 22 R381-R386): the connection table, the path and circuit of a packet, and what
holds packets back. -/

namespace Sys2Proof.Machine

def dieLive (s : State) (d : Nat) : Bool := decide (d < 8) && !(getDie s d).excluded

/-- The die one torus step away (R381): 0 X+, 1 X−, 2 Y. -/
def torusStep (d dir : Nat) : Nat :=
  match dir with
  | 0 => d / 4 * 4 + (d + 1) % 4
  | 1 => d / 4 * 4 + (d + 3) % 4
  | _ => (d + 4) % 8

/-- The direction of an endpoint after boot. -/
def bootDir (s : State) (d e : Nat) : Nat :=
  let dir := if e < 4 then 0 else if e < 8 then 1 else 2
  if dieLive s (torusStep d dir) then dir else 3

def getCircuit (s : State) (d e : Nat) : Circuit := tget (getDie s d).circuits e ⟨bootDir s d e, false, false, false⟩

def setCircuit (s : State) (d e : Nat) (c : Circuit) : State :=
  modDie s d fun k => { k with circuits := tset k.circuits e c }

/-- The endpoints of a die in one direction, in increasing number. -/
def endpointsTo (s : State) (d dir : Nat) : List Nat := (List.range 16).filter fun e => (getCircuit s d e).dir == dir

/-- The neighbours a die has a circuit to, live, in increasing die number. -/
def neighbours (s : State) (d : Nat) : List Nat :=
  (List.range 8).filter fun t => dieLive s t && t != d &&
    ([0, 1, 2] : List Nat).any fun dir => torusStep d dir == t && !(endpointsTo s d dir).isEmpty

/-! ## Paths (R382) -/

/-- n steps in a direction. -/
def stepsFrom (d dir : Nat) : Nat → List (Nat × Nat)
  | 0 => []
  | n + 1 => (d, dir) :: stepsFrom (torusStep d dir) dir n

/-- The hops in X, by the shorter way or the other: 0 to 3 steps round a ring of four. -/
def hopsX (d t : Nat) (shorter : Bool) : List (Nat × Nat) :=
  let n := (t % 4 + 4 - d % 4) % 4
  if n == 0 then []
  else if (decide (n ≤ 2)) == shorter then stepsFrom d 0 n else stepsFrom d 1 (4 - n)

def hopsY (d t : Nat) : List (Nat × Nat) := if d / 4 == t / 4 then [] else [(d, 2)]

/-- The four paths from die a to die b, each as its hops: a die and the direction it leaves by. -/
def pathList (a b : Nat) : List (List (Nat × Nat)) :=
  let corner := a / 4 * 4 + b % 4
  let far := (a + 4) % 8
  let yx := fun (sh : Bool) => if a / 4 == b / 4 then hopsX a b sh else (a, 2) :: hopsX far b sh
  [hopsX a b true ++ hopsY corner b, hopsX a b false ++ hopsY corner b, yx true, yx false]

/-- The first path whose every die is live. -/
def pathOf (s : State) (a b : Nat) : Option (List (Nat × Nat)) :=
  (pathList a b).find? fun p => p.all fun h => dieLive s h.1 && dieLive s (torusStep h.1 h.2)

/-- The virtual channel of each hop (R382): 0 or 2 by the path's kind, one higher from the dateline on. -/
def channels (base : Nat) : Bool → List (Nat × Nat) → List Nat
  | _, [] => []
  | up, h :: r =>
    let cross := (h.2 == 0 && h.1 % 4 == 3) || (h.2 == 1 && h.1 % 4 == 0)
    let u := up || cross
    (if u then base + 1 else base) :: channels base u r

/-- The number of the unit a packet comes from, for the choice of a circuit (R383). -/
def srcUnit (src : Nat) : Nat := if src < 65536 then src / 16 else src - 65536

/-- The number of the unit a packet goes to. -/
def dstUnit (p : Place) : Nat :=
  match p with
  | .core c => c
  | .ctrl d c => d * 8 + c
  | .port p => p
  | .host => 4095
  | .chip n => n

/-- The endpoint a packet leaves a die by. -/
def circuitOf (s : State) (d dir : Nat) (c : Chan) : Option Nat :=
  let es := endpointsTo s d dir
  if es.isEmpty then none else es[(srcUnit c.src + dstUnit c.dst) % es.length]?

/-- Whether a packet is held at an endpoint of its path: a circuit paused, spilling or being retrained (R384-R386). -/
def pathHeld (s : State) (c : Chan) : Bool :=
  match srcDie c.src, placeDie c.dst with
  | some a, some b =>
    if a == b then false
    else match pathOf s a b with
      | none => false
      | some p => p.any fun h =>
        match circuitOf s h.1 h.2 c with
        | some e =>
          let k := getCircuit s h.1 e
          k.paused || k.spilling || k.retraining
        | none => true
  | _, _ => false

/-! ## Circuits' events -/

/-- FLIT_RECEIVE (R383): a flit whose CRC fails is retried at link level and counted at the receiving die. -/
def flitReceiveStep (flight : Nat) (crcOk : Bool) (s : State) : State :=
  match s.flights.find? fun f => f.id == flight with
  | none => s
  | some f =>
    match f.chan with
    | none => s
    | some c =>
      match placeDie c.dst with
      | some d => if crcOk then s else countError s d 7
      | none => s

def execFlitReceive (flight : Nat) (crcOk : Bool) (s : State) : Host.Outcome State Fault Refusal :=
  always (flitReceiveStep flight crcOk) s

/-- OUTPUT_SPILL (R385): the packets of a stalled output are written in order to the die's spill region, and later ones
join them. -/
def outputSpillStep (die ep : Nat) (s : State) : State := setCircuit s die ep { getCircuit s die ep with spilling := true }

def execOutputSpill (die ep : Nat) (s : State) : Host.Outcome State Fault Refusal := always (outputSpillStep die ep) s

/-- SPILL_DRAIN (R385): the output moves again and drains, oldest first. -/
def spillDrainStep (die ep : Nat) (s : State) : State :=
  let c := getCircuit s die ep
  if c.paused || c.retraining then s else setCircuit s die ep { c with spilling := false }

def execSpillDrain (die ep : Nat) (s : State) : Host.Outcome State Fault Refusal := always (spillDrainStep die ep) s

/-! ## A new connection table (R386) -/

/-- The direction a table image gives an endpoint. -/
def tableDir (t : List Nat) (d e : Nat) : Nat := t.getD (16 * d + e) 3 % 4

/-- The endpoints of a die that a table points in one direction. -/
def tableTo (t : List Nat) (d dir : Nat) : List Nat := (List.range 16).filter fun e => tableDir t d e == dir

/-- The validity of a table image (R381), and its reserved bits. -/
def tableOk (s : State) (t : List Nat) : Bool :=
  t.all (fun b => decide (b < 4)) &&
    (List.range 8).all fun d =>
      (tableTo t d 0).length == (tableTo t (torusStep d 0) 1).length &&
      (tableTo t d 2).length == (tableTo t (torusStep d 2) 2).length &&
      (!dieLive s d || ([0, 1, 2] : List Nat).all fun dir => !dieLive s (torusStep d dir) || !(tableTo t d dir).isEmpty)

/-- The circuits of a table, as pairs of endpoints numbered die × 16 + endpoint, each once. -/
def tableCircuits (t : List Nat) : List (Nat × Nat) :=
  (List.range 8).flatMap fun d =>
    let x := torusStep d 0
    let y := torusStep d 2
    ((tableTo t d 0).zip (tableTo t x 1)).map (fun p => (16 * d + p.1, 16 * x + p.2)) ++
      (if d < y then ((tableTo t d 2).zip (tableTo t y 2)).map (fun p => (16 * d + p.1, 16 * y + p.2)) else [])

/-- The table in force, as an image. -/
def currentTable (s : State) : List Nat :=
  (List.range 128).map fun i => (getCircuit s (i / 16) (i % 16)).dir

/-- Both ends of the circuit an endpoint belongs to, as die × 16 + endpoint. -/
def circuitEnds (s : State) (d e : Nat) : List Nat :=
  match (tableCircuits (currentTable s)).find? fun p => p.1 == 16 * d + e || p.2 == 16 * d + e with
  | some p => [p.1, p.2]
  | none => [16 * d + e]

def setPaused (s : State) (d e : Nat) (b : Bool) : State :=
  (circuitEnds s d e).foldl (fun s i =>
    setCircuit s (i / 16) (i % 16) { getCircuit s (i / 16) (i % 16) with paused := b }) s

/-- CALIBRATION_PAUSE (R384): the circuit is paused for 4,000 cycles. -/
def calibrationPauseStep (die ep : Nat) (s : State) : State :=
  atCycle (setPaused s die ep true) (s.cycle + 4000) (.calibrationEnd die ep)

def execCalibrationPause (die ep : Nat) (s : State) : Host.Outcome State Fault Refusal :=
  always (calibrationPauseStep die ep) s

/-- CALIBRATION_END (R384). -/
def execCalibrationEnd (die ep : Nat) (s : State) : Host.Outcome State Fault Refusal :=
  always (fun s => setPaused s die ep false) s

/-- Whether the network between dies has drained: nothing on the way, no spill region in use (R386). -/
def networkEmpty (s : State) : Bool :=
  !(s.flights.any fun f => !f.stopped && crossDie f.chan) &&
    (List.range 8).all fun d => (List.range 16).all fun e => !(getCircuit s d e).spilling

/-- Sources go on (R386, step 4), and the request is answered OK. -/
def resumeInjection (s : State) (core : Nat) : State :=
  modCore { s with ctChange := none, flights := s.flights.map fun f => { f with stopped := false } } core fun k =>
    { k with ctBusy := false, ctResult := false }

/-- CONNECTION_TABLE_SWITCH (R386, steps 2 and 3): with the network empty the table is written, and each changed circuit is
retrained in turn, 40,000 cycles each. -/
def tableSwitchStep (core : Nat) (s : State) : State :=
  match s.ctChange with
  | none => s
  | some c =>
    if !networkEmpty s || c.left != 0 then s
    else
      let old := tableCircuits (currentTable s)
      let changed := (tableCircuits c.table).filter fun p => !old.contains p
      let ends := changed.flatMap fun p => [p.1, p.2]
      let s1 := (List.range 128).foldl (fun s i =>
        setCircuit s (i / 16) (i % 16)
          { getCircuit s (i / 16) (i % 16) with dir := tableDir c.table (i / 16) (i % 16), retraining := ends.contains i }) s
      if changed.isEmpty then resumeInjection s1 core
      else atCycle { s1 with ctChange := some { c with left := changed.length } } (s1.cycle + 40000) (.circuitRetrained core)

def execConnectionTableSwitch (core : Nat) (s : State) : Host.Outcome State Fault Refusal :=
  always (tableSwitchStep core) s

/-- CIRCUIT_RETRAINED (R386): the lowest retraining circuit is done; after the last, injection resumes. -/
def circuitRetrainedStep (core : Nat) (s : State) : State :=
  match s.ctChange with
  | none => s
  | some c =>
    let done := match (tableCircuits c.table).find? fun p => (getCircuit s (p.1 / 16) (p.1 % 16)).retraining with
      | some p => ([p.1, p.2] : List Nat).foldl (fun s i =>
          setCircuit s (i / 16) (i % 16) { getCircuit s (i / 16) (i % 16) with retraining := false }) s
      | none => s
    if c.left ≤ 1 then resumeInjection done core
    else atCycle { done with ctChange := some { c with left := c.left - 1 } } (done.cycle + 40000) (.circuitRetrained core)

def execCircuitRetrained (core : Nat) (s : State) : Host.Outcome State Fault Refusal := always (circuitRetrainedStep core) s

end Sys2Proof.Machine
end

