-- ==== Sys2Proof/Machine/MatrixShape.lean ====
section
/-! DEFINITION. The matrix engine's records, its shape checks and its arithmetic (spec 10 R212-R219, R225, 02 R53). -/

namespace Sys2Proof.Machine

/-! ## Formats (R213, R214). An instruction is coded 0 D, 1 S, 2 H, 3 BF, 4 E4, 5 E4E5, 6 E5E4, 7 E5, 8 F4, 9 E4F4, 10 I8. -/

def mxFF (code : Nat) : FF :=
  match code with
  | 0 => fp64
  | 1 => fp32
  | 2 => fp16
  | 3 => bf16
  | 4 => fe4m3
  | 5 => fe5m2
  | _ => fe2m1

/-- Width of an element in bits. -/
def mxBits (code : Nat) : Nat :=
  match code with
  | 0 => 64
  | 1 => 32
  | 2 => 16
  | 3 => 16
  | 6 => 4
  | 9 => 32
  | _ => 8

/-- Bytes of n elements. -/
def mxBytes (code n : Nat) : Nat := (n * mxBits code + 7) / 8

/-- Alignment of an element. -/
def mxAlign (code : Nat) : Nat := (mxBits code + 7) / 8

def mxA (i : Nat) : List Nat :=
  match i with
  | 0 => [0]
  | 1 => [1]
  | 2 => [2]
  | 3 => [3]
  | 6 => [5]
  | 7 => [5]
  | 8 => [6]
  | 10 => [7, 8]
  | _ => [4]

def mxB (i : Nat) : List Nat :=
  match i with
  | 0 => [0]
  | 1 => [1]
  | 2 => [2]
  | 3 => [3]
  | 5 => [5]
  | 7 => [5]
  | 8 => [6]
  | 9 => [6]
  | 10 => [7, 8]
  | _ => [4]

def mxOut (i : Nat) : List Nat :=
  match i with
  | 0 => [0, 1]
  | 1 => [1, 2, 3]
  | 10 => [9, 1]
  | _ => [1, 2, 3, 4, 5]

/-- The accumulator format. -/
def mxAcc (i : Nat) : Nat :=
  match i with
  | 0 => 0
  | 10 => 9
  | _ => 1

/-- The FP8 and FP4 pairs. -/
def mxNarrow (i : Nat) : Bool := decide (4 ≤ i) && decide (i ≤ 9)

/-- Panel rows and columns by B format (R214). -/
def mxPanel (code : Nat) : Nat × Nat :=
  match code with
  | 0 => (32, 32)
  | 1 => (32, 64)
  | 2 => (32, 128)
  | 3 => (32, 128)
  | 6 => (64, 256)
  | _ => (32, 256)

/-! ## Records (R212, R216) -/

/-- A field of a record: word, high and low bit. -/
def rfield (r w hi lo : Nat) : Nat := bits r (64 * w + hi) (64 * w + lo)

def rBase (r : Nat) : Nat := rfield r 0 63 0
def rStride (r : Nat) : Nat := rfield r 1 39 0
def rExt (r : Nat) : Nat := rfield r 2 44 32
def rK (r : Nat) : Nat := rfield r 2 16 0
def rSmode (r : Nat) : Nat := rfield r 3 9 8
def rFmt (r : Nat) : Nat := rfield r 3 7 4
def rKind (r : Nat) : Nat := rfield r 3 3 0
def rSbase (r : Nat) : Nat := rfield r 4 63 0
def rSstride (r : Nat) : Nat := rfield r 5 31 0
def rSlots (r : Nat) : Nat := rfield r 6 63 0

def rReserved (r : Nat) : Bool :=
  rfield r 1 63 40 != 0 || rfield r 2 63 45 != 0 || rfield r 2 31 17 != 0 || rfield r 3 63 10 != 0 ||
    rfield r 5 63 32 != 0 || rfield r 7 63 0 != 0

def oCbase (r : Nat) : Nat := rfield r 0 63 0
def oCstride (r : Nat) : Nat := rfield r 1 39 0
def oDbase (r : Nat) : Nat := rfield r 2 18 0
def oDpitch (r : Nat) : Nat := rfield r 3 31 0
def oProv (r : Nat) : Bool := rfield r 4 32 32 == 1
def oGran (r : Nat) : Bool := rfield r 4 31 31 == 1
def oTag (r : Nat) : Nat := rfield r 4 30 23
def oNc (r : Nat) : Nat := rfield r 4 22 18
def oCore0 (r : Nat) : Nat := rfield r 4 17 12
def oCyclic (r : Nat) : Bool := rfield r 4 11 11 == 1
def oAct (r : Nat) : Nat := rfield r 4 10 9
def oBiasen (r : Nat) : Bool := rfield r 4 8 8 == 1
def oScen (r : Nat) : Bool := rfield r 4 7 7 == 1
def oSat (r : Nat) : Bool := rfield r 4 6 6 == 1
def oFmt (r : Nat) : Nat := rfield r 4 5 2
def oCsrc (r : Nat) : Nat := rfield r 4 1 0
def oScale (r : Nat) : Nat := rfield r 5 31 0
def oChi (r : Nat) : Nat := rfield r 6 63 32
def oClo (r : Nat) : Nat := rfield r 6 31 0
def oBias (r : Nat) : Nat := rfield r 7 63 0

def oReserved (r : Nat) : Bool :=
  rfield r 1 63 40 != 0 || rfield r 2 63 19 != 0 || rfield r 3 63 32 != 0 || rfield r 4 63 33 != 0 || rfield r 5 63 32 != 0

/-- Whether an address lies in device space (04 R86). -/
def isDevice (a : Nat) : Bool := classify a == .device

/-- The number of slots a B record lists. -/
def listedSlots (r : Nat) : List Nat := (List.range 64).filter fun i => bit (rSlots r) i

/-! ## Shape checks (R217) -/

/-- The first failing part of a check: each with its field code. -/
def firstBad : List (Bool × Nat) → Option Nat
  | [] => none
  | (b, f) :: r => if b then some f else firstBad r

/-- Check 1 of A and B. -/
def formBad (isB : Bool) (r : Nat) : Option Nat :=
  firstBad [
    (!(rKind r == 1 || rKind r == 2 || (isB && rKind r == 3)), 0),
    (rKind r != 3 && rSlots r != 0, 9),
    (rReserved r, 10)]

def formBadOut (o : Nat) : Option Nat :=
  firstBad [
    (oCsrc o == 3, 0),
    (oAct o == 3, 14),
    (oCsrc o != 2 && (oCbase o != 0 || oCstride o != 0), 17),
    (oReserved o, 10),
    (decide (251 < oTag o), 18)]

/-- Check 2 of A and B. -/
def fmtBad (i : Nat) (admitted : List Nat) (r a : Nat) : Option Nat :=
  firstBad [
    (!admitted.contains (rFmt r), 1),
    (rSmode r == 3 || (rSmode r != 0 && !mxNarrow i) || rSmode r != rSmode a, 6)]

def isNaN32 (b : Nat) : Bool := isNaN (ffDecode fp32 b)

def fmtBadOut (i o : Nat) : Option Nat :=
  firstBad [
    (!(mxOut i).contains (oFmt o), 1),
    (oCsrc o != 0 && oFmt o != mxAcc i, 0),
    (oFmt o == 9 && (oScen o || oBiasen o || oAct o == 2), 14),
    (oAct o == 2 && (isNaN32 (oClo o) || isNaN32 (oChi o) || ltV (ffDecode fp32 (oChi o)) (ffDecode fp32 (oClo o))), 14)]

/-- Check 3 of A and B. -/
def extBad (lim : Nat) (r : Nat) : Option Nat :=
  let (pk, pn) := mxPanel (rFmt r)
  firstBad [
    (rExt r == 0 || decide (lim < rExt r), 2),
    (rK r == 0 || decide (65536 < rK r), 3),
    (rKind r == 3 && rK r % pk != 0, 3),
    (rKind r == 3 && (listedSlots r).length != rK r / pk * ceilDiv (rExt r) pn, 9)]

def extBadOut (s : State) (cl m blk o : Nat) : Option Nat :=
  firstBad [
    (oNc o == 0 || decide (16 < oNc o), 13),
    (decide (48 < oCore0 o + oNc o), 13),
    (!((List.range (oNc o)).all fun j => liveCore s (cl * 48 + oCore0 o + j)), 13),
    (decide (ceilDiv m 16 ≤ blk), 16)]

/-- Check 4 of A and B; the upper half of a scratchpad address is zero (R212). -/
def alignBad (r : Nat) : Option Nat :=
  firstBad [
    (rKind r == 1 && rBase r % 64 != 0, 4),
    (rKind r == 2 && (decide (2 ^ 32 ≤ rBase r) || rBase r % mxAlign (rFmt r) != 0), 4),
    (rKind r == 3 && rBase r != 0, 4)]

def alignBadOut (o : Nat) : Option Nat :=
  let sz := mxAlign (oFmt o)
  firstBad [
    (oDbase o % sz != 0, 11),
    (oCsrc o == 2 && (if isDevice (oCbase o) then oCbase o % 64 != 0 else decide (2 ^ 32 ≤ oCbase o) || oCbase o % sz != 0), 17)]

/-- Whether n bytes lie in one of the scratchpad classes. -/
def oneClass (a n : Nat) : Bool :=
  decide (a + n ≤ 0x80000) || (decide (0x1000000 ≤ a) && decide (a + n ≤ 0x2800000))

/-- The stride rule of KIND 1 and KIND 2. -/
def strideBad (dev : Bool) (base stride rows bytes : Nat) : Bool :=
  decide (stride < bytes) ||
    (if dev then stride % 64 != 0 else !((List.range rows).all fun i => oneClass (base + i * stride) bytes))

/-- Check 5 of A and B. -/
def stepBad (r rows n : Nat) : Option Nat :=
  firstBad [
    (rKind r == 3 && rStride r != 0, 5),
    (rKind r != 3 && strideBad (rKind r == 1) (rBase r) (rStride r) rows (mxBytes (rFmt r) n), 5)]

def stepBadOut (o m n : Nat) : Option Nat :=
  let sz := mxAlign (oFmt o)
  firstBad [
    (decide (oDpitch o < n * sz) || oDpitch o % sz != 0, 12),
    (decide (Config.mailboxBase < oDbase o + (ceilDiv m (oNc o) - 1) * oDpitch o + n * sz), 12),
    (oCsrc o == 2 && strideBad (isDevice (oCbase o)) (oCbase o) (oCstride o) m (n * sz), 17)]

/-- Bytes of a row of a scale plane (R215): along k for A, along n for B. -/
def planeBytes (smode n block : Nat) : Nat :=
  match smode with
  | 1 => ceilDiv n block
  | 2 => 4 * ceilDiv n 128
  | _ => 0

/-- Check 6 of A and B. -/
def scaleBad (r bytes : Nat) : Option Nat :=
  firstBad [
    ((rSbase r != 0) != (rSmode r != 0), 7),
    (rSmode r == 2 && rSbase r % 4 != 0, 7),
    (rSmode r != 0 && rKind r == 2 && decide (2 ^ 32 ≤ rSbase r), 7),
    (rSmode r != 0 && decide (rSstride r < bytes), 8)]

def biasBad (i o : Nat) : Option Nat :=
  firstBad [((oBias o != 0) != oBiasen o, 15), (oBias o % (if i == 0 then 8 else 4) != 0, 15)]

/-- Scale block length (R215). -/
def mxBlock (smode : Nat) : Nat := if smode == 2 then 128 else 32

/-- Check 7 of A and B. -/
def depthBadA (i a : Nat) : Option Nat := firstBad [(mxNarrow i && rK a % mxBlock (rSmode a) != 0, 3)]

def depthBadB (a b : Nat) : Option Nat := firstBad [(rK b != rK a, 3)]

/-- The first failing check in order, with its record and field. -/
def firstCheck : List (Nat × Nat × Option Nat) → Option Nat
  | [] => none
  | (c, r, some f) :: _ => some (c * 4096 + r * 256 + f)
  | (_, _, none) :: rest => firstCheck rest

/-- The shape fault value of the records, if any (R217). -/
def shapeFault (s : State) (cl i blk a b o : Nat) : Option Nat :=
  firstCheck [
    (1, 0, formBad false a), (1, 1, formBad true b), (1, 2, formBadOut o),
    (2, 0, fmtBad i (mxA i) a a), (2, 1, fmtBad i (mxB i) b a), (2, 2, fmtBadOut i o),
    (3, 0, extBad 4096 a), (3, 1, extBad 256 b), (3, 2, extBadOut s cl (rExt a) blk o),
    (4, 0, alignBad a), (4, 1, alignBad b), (4, 2, alignBadOut o),
    (5, 0, stepBad a (rExt a) (rK a)), (5, 1, stepBad b (rK b) (rExt b)), (5, 2, stepBadOut o (rExt a) (rExt b)),
    (6, 0, scaleBad a (planeBytes (rSmode a) (rK a) 32)), (6, 1, scaleBad b (planeBytes (rSmode b) (rExt b) 1)),
    (6, 2, biasBad i o),
    (7, 0, depthBadA i a), (7, 1, depthBadB a b)]

/-! ## Arithmetic (R218, R219) -/

/-- An accumulator: its encoding, flags so far, and the first numeric event as kind, stage and k step (R225). -/
structure MxAcc where
  bits : Nat
  flags : Flags
  ev : Option (Nat × Nat × Nat)
deriving DecidableEq, Repr

/-- The numeric kind of a value with its flags: 1 NaN, 2 infinity, 3 saturation. -/
def numKind (v : FV) (f : Flags) : Option Nat :=
  match v with
  | .nan _ => some 1
  | .inf _ => some 2
  | .fin _ _ _ => if f &&& fSAT != 0#6 then some 3 else none

/-- The accumulator after a step, with the event it may be. -/
def mxStep (F : FF) (a : MxAcc) (b : Nat) (f : Flags) (stage kb : Nat) : MxAcc :=
  { bits := b
    flags := a.flags ||| f
    ev := match a.ev with
      | some e => some e
      | none => (numKind (ffDecode F b) f).map fun k => (k, stage, kb) }

/-- A delivered step with the flags of its exact form. -/
def mxRound (F : FF) (a : MxAcc) (r : Ex × Flags) (stage kb : Nat) : MxAcc :=
  let (b, f) := deliver F .rne false r.1
  mxStep F a b (r.2 ||| f) stage kb

/-- Fused accumulation over k (D, S, H, BF). -/
def mxFused (F fa fb : FF) : List (Nat × Nat) → Nat → MxAcc → MxAcc
  | [], _, a => a
  | p :: r, k, a =>
    mxFused F fa fb r (k + 1)
      (mxRound F a (exFma .rne (ffDecode fa p.1) (ffDecode fb p.2) (ffDecode F a.bits)) 0 k)

/-- A signed or unsigned byte (INT8, UINT8). -/
def mxInt (code b : Nat) : Int := if code == 7 then toSigned 8 b else (b % 256 : Nat)

/-- Saturating integer accumulation over k (I8). -/
def mxIntSum (ca cb : Nat) : List (Nat × Nat) → Nat → MxAcc → MxAcc
  | [], _, a => a
  | p :: r, k, a =>
    let v := toSigned 32 a.bits + mxInt ca p.1 * mxInt cb p.2
    let c : Int := if v < -(2 ^ 31) then -(2 ^ 31) else if 2 ^ 31 ≤ v then 2 ^ 31 - 1 else v
    let f : Flags := if c == v then 0 else fSAT
    mxIntSum ca cb r (k + 1)
      { bits := ofInt 32 c, flags := a.flags ||| f
        ev := match a.ev with
          | some e => some e
          | none => if c == v then none else some (3, 0, k) }

/-- The exact sum of a block's products with its flags (02 R52). -/
def mxBlockSum (fa fb : FF) (ps : List (Nat × Nat)) : FV × Flags :=
  let terms := ps.map fun p => mulV (ffDecode fa p.1) (ffDecode fb p.2)
  let acc := (terms.map fun t => t.1).foldl accAdd accZero
  let posZero := terms.all fun t => isZeroV t.1 && !signV t.1
  let (v, f) := accValue .rne acc posZero
  (v, terms.foldl (fun f t => f ||| t.2) f)

/-- Exact products of a value with scales. -/
def mulAll : FV × Flags → List FV → FV × Flags
  | v, [] => v
  | v, x :: r => let p := mulV v.1 x; mulAll (p.1, v.2 ||| p.2) r

/-- One scale block of an FP8 or FP4 pair: p, then the addition (R218). -/
def mxBlockStep (fa fb : FF) (ps : List (Nat × Nat)) (scales : List FV) (kb : Nat) (a : MxAcc) : MxAcc :=
  let (v, f) := mulAll (mxBlockSum fa fb ps) scales
  let p := mxRound fp32 a (exOf v, f) 0 kb
  mxRound fp32 p (exAdd .rne (ffDecode fp32 a.bits) (ffDecode fp32 p.bits)) 0 kb

/-- Accumulation over scale blocks. -/
def mxBlocks (fa fb : FF) (bk : Nat) (ts : List FV) : List (FV × FV) → List (Nat × Nat) → Nat → MxAcc → MxAcc
  | [], _, _, a => a
  | sc :: r, ps, kb, a =>
    mxBlocks fa fb bk ts r (ps.drop bk) (kb + 1) (mxBlockStep fa fb (ps.take bk) (sc.1 :: sc.2 :: ts) kb a)

/-- Activation (R219 step 3) in a floating-point accumulator: ReLU or clamp. -/
def mxAct (F : FF) (o : Nat) (a : MxAcc) : MxAcc :=
  let v := ffDecode F a.bits
  let widen := fun (b : Nat) => (deliver F .rne false (exOf (ffDecode fp32 b))).1
  if oAct o == 1 then
    if isNaN v || (!ltV v (.fin false 0 0) && !(isZeroV v && signV v)) then a else { a with bits := 0 }
  else if oAct o == 2 then
    if ltV v (ffDecode fp32 (oClo o)) then mxStep F a (widen (oClo o)) 0 3 0
    else if ltV (ffDecode fp32 (oChi o)) v then mxStep F a (widen (oChi o)) 0 3 0
    else a
  else a

/-- The epilogue (R219): the output encoding with flags and the first event. -/
def mxEpilogue (i o bias : Nat) (a0 : MxAcc) : MxAcc :=
  if oFmt o == 9 then
    if oAct o == 1 && a0.bits / 2 ^ 31 % 2 == 1 then { a0 with bits := 0 } else a0
  else
    let F := if i == 0 then fp64 else fp32
    let a1 := if i == 10 then
        let (b, f) := deliver fp32 .rne false (exInt (toSigned 32 a0.bits))
        mxStep fp32 a0 b f 0 0
      else a0
    let a2 := if oScen o then mxRound F a1 (exMul (ffDecode F a1.bits) (ffDecode fp32 (oScale o))) 1 0 else a1
    let a3 := if oBiasen o then mxRound F a2 (exAdd .rne (ffDecode F a2.bits) (ffDecode F bias)) 2 0 else a2
    let a4 := mxAct F o a3
    let (b, f) := deliver (mxFF (oFmt o)) .rne (oSat o) (exOf (ffDecode F a4.bits))
    mxStep (mxFF (oFmt o)) a4 b f 4 0

/-- Element (m, n): products in k order, scales by block, the initial accumulator, the bias. -/
def mxElement (i a b o : Nat) (ts : List FV) (ps : List (Nat × Nat)) (sc : List (FV × FV)) (c bias : Nat) : MxAcc :=
  let fa := mxFF (rFmt a)
  let fb := mxFF (rFmt b)
  let z : MxAcc := ⟨c, 0, none⟩
  mxEpilogue i o bias
    (if i == 10 then mxIntSum (rFmt a) (rFmt b) ps 0 z
     else if mxNarrow i then mxBlocks fa fb (mxBlock (rSmode a)) ts sc ps 0 z
     else mxFused (mxFF (mxAcc i)) fa fb ps 0 z)

end Sys2Proof.Machine
end

