-- ==== Sys2Proof/Machine/Matrix.lean ====
section
/-! DEFINITION. The matrix engine (spec 10 R209-R227): issue, arbitration, acceptance, row blocks, delivery and stops. The
engine reads a block's operands in pieces of at most 64 bytes, one a turn (log 11). -/

namespace Sys2Proof.Machine

/-! ## Issue (R210, R211) -/

/-- MMA: the request becomes pending at the cluster's engine and the task parks. -/
def mmaOp (i : Nat) (m : Am) : Op Unit := do
  let s ← look
  operands [m.xa, m.xb, m.xd] .none
    (!isCompute s.cur.core || !s.cur.cIsNop || !mmaOk (mxNarrow i) m)
  let a ← rdChecked m.xa
  let b ← rdChecked m.xb
  let d ← rdChecked m.xd
  opEach (fun (r : Word) => trapIf (r.toNat % 64 != 0) (tMisalign r)) [a, b, d]
  opEach (fun (r : Word) => trapIf (decide (Config.mailboxBase < r.toNat + 64)) (tRange 0 r)) [a, b, d]
  change fun s =>
    let t := curSlot s
    let k := getCluster s (clusterOf s.cur.core)
    let scale := fun (j : Nat) => if m.ts.toNat == 0 then 0x3F800000 else unbox .s (getF t (m.fs.toNat + j))
    let q : MmaReq := ⟨curWho s, t.region, i, d.toNat, a.toNat, b.toNat, scale 0, scale 1, k.mmaOrder, copyWaits t, none⟩
    parkIn .mma (setCluster s (clusterOf s.cur.core) { k with mmaPending := k.mmaPending ++ [q], mmaOrder := k.mmaOrder + 1 })

/-- MMA.D (R210). -/
def execMmaD (a : Am) (s : State) : Host.Outcome State Fault Refusal := runOp (mmaOp 0 a) s

/-- MMA.S (R210). -/
def execMmaS (a : Am) (s : State) : Host.Outcome State Fault Refusal := runOp (mmaOp 1 a) s

/-- MMA.H (R210). -/
def execMmaH (a : Am) (s : State) : Host.Outcome State Fault Refusal := runOp (mmaOp 2 a) s

/-- MMA.BF (R210). -/
def execMmaBf (a : Am) (s : State) : Host.Outcome State Fault Refusal := runOp (mmaOp 3 a) s

/-- MMA.E4 (R210). -/
def execMmaE4 (a : Am) (s : State) : Host.Outcome State Fault Refusal := runOp (mmaOp 4 a) s

/-- MMA.E4E5 (R210). -/
def execMmaE4E5 (a : Am) (s : State) : Host.Outcome State Fault Refusal := runOp (mmaOp 5 a) s

/-- MMA.E5E4 (R210). -/
def execMmaE5E4 (a : Am) (s : State) : Host.Outcome State Fault Refusal := runOp (mmaOp 6 a) s

/-- MMA.E5 (R210). -/
def execMmaE5 (a : Am) (s : State) : Host.Outcome State Fault Refusal := runOp (mmaOp 7 a) s

/-- MMA.F4 (R210). -/
def execMmaF4 (a : Am) (s : State) : Host.Outcome State Fault Refusal := runOp (mmaOp 8 a) s

/-- MMA.E4F4 (R210). -/
def execMmaE4F4 (a : Am) (s : State) : Host.Outcome State Fault Refusal := runOp (mmaOp 9 a) s

/-- MMA.I8 (R210). -/
def execMmaI8 (a : Am) (s : State) : Host.Outcome State Fault Refusal := runOp (mmaOp 10 a) s

/-! ## Operand reads -/

/-- Why a block is not formed yet: a trap, with the state that read left, a line the host must give back first, or one more
piece of its operands has been read. -/
inductive MxStop where
  | trap (t : Trap) (s : State)
  | line (x : Nat)
  | more (bs : List Byte) (s : State)
deriving DecidableEq, Repr

/-- A computation over the pieces read so far: it stops with the first that is still to be read. -/
abbrev Mx (α : Type) := StateT (State × List (List Byte)) (Except MxStop) α

/-- The block stops with a trap. -/
def mxTrap {α : Type} (t : Trap) : Mx α := fun s => .error (.trap t s.1)

/-- One piece of an operand, at most 64 bytes: a turn of the engine of its own reads it, so that a racing write falls before
it or after it (10 R226). -/
def mxPiece (rd : State → Except MxStop (List Byte × State)) : Mx (List Byte) := fun s =>
  match s.2 with
  | b :: r => .ok (b, s.1, r)
  | [] =>
    match rd s.1 with
    | .ok (b, s1) => .error (.more b s1)
    | .error e => .error e

/-- The core and slot an engine acts for, its region and cluster. -/
structure MxFor where
  cl : Nat
  core : Nat
  slot : Nat
  region : Nat
deriving DecidableEq, Repr

/-- n bytes of device space within one 64-byte unit (R223, 04 R92, R96). -/
def mxDevUnit (f : MxFor) (va n : Nat) : Mx (List Byte) := mxPiece fun s =>
  match devCheck s (.matrix f.cl) f.core f.region .mma va n with
  | .error t => .error (if isLine t then .line t.value.toNat else .trap t s)
  | .ok (s1, l, acc) =>
    match (locPa l).bind fun pa => (snooped s1 pa n).head? with
    | some x => .error (.line x)
    | none =>
      if locBad s1 l n then .error (.trap (tUncorr (w64 va)) s1)
      else .ok (locRead s1 l f.core f.region va n, countUnits s1 acc va n)

/-- n bytes of device space, unit by unit. -/
def mxDev (f : MxFor) : Nat → Nat → Nat → Mx (List Byte)
  | 0, _, _ => pure []
  | k + 1, va, n =>
    if n == 0 then pure []
    else do
      let len := Nat.min n (64 - va % 64)
      let a ← mxDevUnit f va len
      let r ← mxDev f k (va + len) (n - len)
      pure (a ++ r)

/-- A piece of a scratchpad as the issuing core sees it. -/
def mxPadUnit (f : MxFor) (c a n : Nat) : Mx (List Byte) := mxPiece fun s =>
  if spBad s c a n then .error (.trap (tUncorr (w64 a)) s) else .ok (locRead s (.sp c a) f.core f.region a n, s)

/-- n bytes of a scratchpad, piece by piece. -/
def mxPadRun (f : MxFor) (c : Nat) : Nat → Nat → Nat → Mx (List Byte)
  | 0, _, _ => pure []
  | k + 1, a, n =>
    if n == 0 then pure []
    else do
      let len := Nat.min n (64 - a % 64)
      let h ← mxPadUnit f c a len
      let r ← mxPadRun f c k (a + len) (n - len)
      pure (h ++ r)

/-- n bytes of a scratchpad. -/
def mxPad (f : MxFor) (c a n : Nat) : Mx (List Byte) := mxPadRun f c (n / 64 + 2) a n

/-- n bytes where nothing answers: zero, and the first such address is recorded (07 R147). -/
def mxNone (f : MxFor) (a n : Nat) : Mx (List Byte) := mxPiece fun s =>
  .ok (List.replicate n 0#8, modSlot s f.core f.slot fun t =>
    if t.spbad.getLsbD 63 then t else { t with spbad := w64 (2 ^ 63 + a % 2 ^ 32) })

/-- n bytes of the cluster window, from each core whose part they lie in (07 R157). -/
def mxWindow (f : MxFor) : Nat → Nat → Nat → Mx (List Byte)
  | 0, _, _ => pure []
  | k + 1, a, n =>
    if n == 0 then pure []
    else do
      let len := Nat.min n (Config.spSize - a % Config.spSize)
      let h ← fun s =>
        if liveCore s.1 (windowCore f.core a) then mxPad f (windowCore f.core a) (windowAddr a) len s else mxNone f a len s
      let r ← mxWindow f k (a + len) (n - len)
      pure (h ++ r)

/-- n bytes at an address below 2^32: local, through the cluster window, or where nothing answers. -/
def mxLow (f : MxFor) (a n : Nat) : Mx (List Byte) :=
  match classify a with
  | .localSp => mxPad f f.core a n
  | .window => mxWindow f (n / Config.spSize + 2) a n
  | .progView | .hole => mxNone f a n
  | .device => mxDev f (n / 64 + 2) a n
  | .nonCanon => mxTrap (tXlate 0 0 (w64 a))

/-- n bytes at an operand address: device space for KIND 1 and 3, scratchpad for KIND 2 (R212). -/
def mxRead (f : MxFor) (dev : Bool) (a n : Nat) : Mx (List Byte) := if dev then mxDev f (n / 64 + 2) a n else mxLow f a n

/-- Element codes of a row. -/
def mxUnpack (code n : Nat) (bs : List Byte) : List Nat :=
  if code == 6 then (bs.flatMap fun b => [b.toNat % 16, b.toNat / 16]).take n
  else (List.range n).map fun j => leNat ((bs.drop (j * mxAlign code)).take (mxAlign code))

/-- Bytes of a row of output codes. -/
def mxPack (code : Nat) (l : List Nat) : List Byte := l.flatMap fun v => natLe (mxAlign code) v

/-- Runs a read for each element in order. -/
def mxEach {α β : Type} (f : α → Mx β) : List α → Mx (List β)
  | [] => pure []
  | a :: r => do
    let b ← f a
    let t ← mxEach f r
    pure (b :: t)

/-- A row slot as the engine reads it: none is NOTREADY, a poisoned unit an uncorrectable error (R223, 06 R145). -/
def mxSlotRow (f : MxFor) (slot off n : Nat) : Mx (List Byte) := fun s =>
  match tfind (getCluster s.1 f.cl).rows slot with
  | none => mxTrap (tHarp 0 (w64 (slot * 2 ^ 18))) s
  | some r =>
    if !r.valid then mxTrap (tHarp 0 (w64 (slot * 2 ^ 18))) s
    else if r.poison.any fun u => decide (64 * u < off + n) && decide (off < 64 * u + 64) then mxTrap (tUncorr 0) s
    else .ok (natLe n (r.row.toNat / 2 ^ (8 * off)), s)

/-- The bytes of row k of B (R214). -/
def mxRowB (f : MxFor) (b k : Nat) : Mx (List Byte) :=
  let n := rExt b
  let code := rFmt b
  if rKind b == 3 then do
    let (pk, pn) := mxPanel code
    let np := ceilDiv n pn
    let parts ← mxEach (fun p =>
      mxSlotRow f ((listedSlots b).getD (k / pk * np + p) 0) (mxBytes code (k % pk * pn)) (mxBytes code pn)) (List.range np)
    pure parts.flatten
  else mxRead f (rKind b == 1) (rBase b + k * rStride b) (mxBytes code n)

/-- The bytes of a row of a scale plane: row index, entries of the row (R215). -/
def mxScales (f : MxFor) (r row n : Nat) : Mx (List Byte) :=
  match rSmode r with
  | 1 => mxRead f (rKind r != 2) (rSbase r + row * rSstride r) n
  | 2 => mxRead f (rKind r != 2) (rSbase r + row * rSstride r) (4 * n)
  | _ => pure []

/-- The values of a row of n scales. -/
def scaleValues (r n : Nat) (bs : List Byte) : List FV :=
  match rSmode r with
  | 1 => bs.map fun x => e8m0Decode x.toNat
  | 2 => (mxUnpack 1 n bs).map (ffDecode fp32)
  | _ => List.replicate n (.fin false 1 0)

/-- The bytes a block reads of B, its scales and the bias. -/
structure MxBytesB where
  rows : List (List Byte)
  scales : List (List Byte)
  bias : List Byte
deriving DecidableEq, Repr

/-- The bytes a block reads of A, its scales and C for output row m. -/
structure MxBytesA where
  m : Nat
  row : List Byte
  scales : List Byte
  init : List Byte
deriving DecidableEq, Repr

/-- What a block needs of B, the bias and the tensor scales. -/
structure MxB where
  rows : List (List Nat)
  scales : List (List FV)
  bias : List Nat
  ts : List FV
deriving DecidableEq, Repr

/-- Scale blocks of the depth. -/
def mxDepth (a : Nat) : Nat := ceilDiv (rK a) (mxBlock (rSmode a))

/-- Scales in a row of B's plane. -/
def mxWidthB (b : Nat) : Nat := if rSmode b == 2 then ceilDiv (rExt b) 128 else rExt b

def biasCode (q : MmaReq) : Nat := if q.kind == 0 then 0 else 1

def mxLoadB (f : MxFor) (q : MmaReq) (b o : Nat) : Mx MxBytesB := do
  let bias ← if oBiasen o then mxRead f (isDevice (oBias o)) (oBias o) (mxBytes (biasCode q) (rExt b)) else pure []
  let rows ← mxEach (mxRowB f b) (List.range (rK b))
  let scales ← if mxNarrow q.kind then mxEach (fun kb => mxScales f b kb (mxWidthB b)) (List.range (mxDepth b)) else pure []
  pure ⟨rows, scales, bias⟩

/-- Those bytes as codes and values. -/
def decodeB (q : MmaReq) (b o : Nat) (w : MxBytesB) : MxB :=
  { rows := w.rows.map (mxUnpack (rFmt b) (rExt b))
    scales := w.scales.map (scaleValues b (mxWidthB b))
    bias := if oBiasen o then mxUnpack (biasCode q) (rExt b) w.bias else []
    ts := [ffDecode fp32 q.t0, ffDecode fp32 q.t1] }

/-- Destination of row m: index of the core and local row (R220). -/
def mxDest (m total o : Nat) : Nat × Nat :=
  if oCyclic o then (m % oNc o, m / oNc o)
  else
    let per := ceilDiv total (oNc o)
    (m / per, m % per)

/-- Core and local address of output row m. -/
def mxRowPlace (cl total o m : Nat) : Nat × Nat :=
  let d := mxDest m total o
  (cl * 48 + oCore0 o + d.1, oDbase o + d.2 * oDpitch o)

/-- The bytes of the initial accumulators of row m. -/
def mxRowC (f : MxFor) (total n o m : Nat) : Mx (List Byte) :=
  match oCsrc o with
  | 1 => mxPad f (mxRowPlace f.cl total o m).1 (mxRowPlace f.cl total o m).2 (mxBytes (oFmt o) n)
  | 2 => mxRead f (isDevice (oCbase o)) (oCbase o + m * oCstride o) (mxBytes (oFmt o) n)
  | _ => pure []

/-- What output row m needs of A, its scales and C. -/
structure MxA where
  m : Nat
  codes : List Nat
  scales : List FV
  init : List Nat
deriving DecidableEq, Repr

def mxLoadA (f : MxFor) (q : MmaReq) (a b o m : Nat) : Mx MxBytesA := do
  let row ← mxRead f (rKind a == 1) (rBase a + m * rStride a) (mxBytes (rFmt a) (rK a))
  let sa ← if mxNarrow q.kind then mxScales f a m (mxDepth a) else pure []
  let c ← mxRowC f (rExt a) (rExt b) o m
  pure ⟨m, row, sa, c⟩

/-- Those bytes as codes and values. -/
def decodeA (q : MmaReq) (a b o : Nat) (x : MxBytesA) : MxA :=
  { m := x.m
    codes := mxUnpack (rFmt a) (rK a) x.row
    scales := if mxNarrow q.kind then scaleValues a (mxDepth a) x.scales else []
    init := if oCsrc o == 1 || oCsrc o == 2 then mxUnpack (oFmt o) (rExt b) x.init else List.replicate (rExt b) 0 }

/-- The elements of an output row. -/
def mxRow (q : MmaReq) (a b o : Nat) (w : MxB) (x : MxA) : List MxAcc :=
  (List.range (rExt b)).map fun n =>
    let ps := x.codes.zip (w.rows.map fun r => r.getD n 0)
    let sc := x.scales.zip (w.scales.map fun r => r.getD (if rSmode b == 2 then n / 128 else n) (.fin false 1 0))
    mxElement q.kind a b o w.ts ps sc (x.init.getD n 0) (w.bias.getD n 0)

/-! ## The end of an acceptance (R222-R224) -/

/-- The slot of the task an engine acts for. -/
def mmaSlot (s : State) (w : Who) : Option (Nat × Nat) :=
  match locate s w.core w.slot w.gtid with
  | some (.live c i) => some (c, i)
  | some (.saved _) => none
  | none => none

/-- The engine becomes free. -/
def mmaFree (s : State) (cl : Nat) : State := modCluster s cl fun k => { k with mmaRun := none }

/-- Flags of completed blocks merge (02 R49); what the MMA has raised so far is kept until it retires. -/
def mmaMerge (s : State) (w : Who) (fl : Nat) : State :=
  match mmaSlot s w with
  | none => s
  | some (c, i) => modSlot s c i fun t => { t with fpflg := t.fpflg ||| w64 (fl % 64), mmaFlags := t.mmaFlags ||| fl % 64 }

/-- An accepted MMA ends in a trap: its completed flags merge and no FP-event message is sent (R223, R224); a gang of which
the task is a member breaks (09 R207). -/
def mmaTrap (s : State) (cl : Nat) (r : MmaRun) (t : Trap) : State :=
  let s1 := mmaMerge (mmaFree s cl) r.req.who r.flags
  match mmaSlot s1 r.req.who with
  | none => s1
  | some (c, i) =>
    breakIfMember (parkTrapped (modSlot s1 c i fun u => { u with mmaFlags := 0, trapNext := none }) c i t) c i

/-- The FP event of an MMA that retires with enabled flags `fl`: with what its pops of q1 raised, one event of the bundle
(02 R50, log 37). -/
def mmaEvent (t : Slot) (fl : Nat) : Option Trap :=
  match t.trapNext with
  | some ⟨8, v, l, d⟩ => some ⟨8, v ||| fl, if fl == 0 then l else 3, d⟩
  | some tr => some tr
  | none => if fl == 0 then none else some ⟨8, fl, 2, t.pc⟩

/-- An MMA retires (R222): BLK is 0, flags merge, the task goes on, and enabled flags raise an FP event (R224), for a gang's
member when the gang next issues. -/
def mmaRetire (s : State) (cl : Nat) (r : MmaRun) : State :=
  let s1 := mmaMerge (mmaFree s cl) r.req.who r.flags
  match mmaSlot s1 r.req.who with
  | none => s1
  | some (c, i) =>
    let s2 := modSlot s1 c i fun t =>
      { completePark t with mprog := 0, mmaFlags := 0, trapNext := mmaEvent t (enabledFlags t t.mmaFlags) }
    if isMember (getCore s2 c) c i then s2 else raisePending s2 c i

/-! ## Row blocks (R220, R221) -/

/-- A row of a block: its number, elements, destination core and address. -/
structure MxOutRow where
  m : Nat
  elems : List MxAcc
  core : Nat
  addr : Nat
deriving DecidableEq, Repr

/-- The first row write that R126 refuses: the engine acts for the issuing core (05 R126). -/
def mxRefused (s : State) (core n : Nat) (rows : List MxOutRow) : Option Trap :=
  rows.findSome? fun r =>
    if r.core != core then none
    else (windowRefusal s r.core r.addr n true).map fun x => tRange x.1 (w64 x.2)

/-- The first numeric event of a block, as MPVA and MPVB (R225). -/
def mxProv (a b : Nat) (rows : List MxOutRow) : Option (Word × Word) :=
  rows.findSome? fun r =>
    r.elems.zipIdx.findSome? fun e =>
      e.1.ev.map fun v =>
        (w64 (2 ^ 63 + v.1 * 2 ^ 60 + r.m * 2 ^ 32 + e.2),
         w64 (rFmt a * 2 ^ 44 + rFmt b * 2 ^ 40 + v.2.1 * 2 ^ 36 + v.2.2))

/-- The two words of an arrival (R221). -/
def arrivalWords (g : Word) (l st n m : Nat) : Word × Word :=
  (g, w64 (l * 2 ^ 32 + st * 2 ^ 18 + n * 2 ^ 13 + m))

/-- Arrivals of a block: per row, or per destination core with rows in it (R221). -/
def mxArrivals (g : Word) (total o : Nat) (rows : List MxOutRow) : List (Nat × Word × Word) :=
  let bad := fun (r : MxOutRow) => r.elems.any fun e => e.ev.isSome
  if oGran o then
    (rows.foldl (fun (l : List Nat) r => addNat l r.core) []).map fun c =>
      let own := rows.filter fun r => r.core == c
      match own with
      | [] => (c, arrivalWords g 0 0 0 0)
      | r :: _ => (c, arrivalWords g (mxDest r.m total o).2 (if own.any bad then 1 else 0) own.length r.m)
  else rows.map fun r => (r.core, arrivalWords g (mxDest r.m total o).2 (if bad r then 1 else 0) 1 r.m)

/-- Sends the row writes of a block, numbered from `n`. -/
def mxSendRows (s : State) (cl : Nat) (w : Who) (code : Nat) : List MxOutRow → Nat → State
  | [], _ => s
  | r :: rest, n =>
    let pkt : WritePkt := ⟨{ w with item := n }, .row, .sp r.core r.addr, none, w64 r.addr, mxPack code (r.elems.map fun e => e.bits)⟩
    mxSendRows (sendTo s (engineSrc cl) (.core r.core) (.remoteWrite pkt)) cl w code rest (n + 1)

/-- The rows of block `blk`. -/
def blockRows (total blk : Nat) : List Nat := (List.range (Nat.min 16 (total - 16 * blk))).map fun i => 16 * blk + i

/-- The rows of a block from the bytes read for it. -/
def computeRows (f : MxFor) (r : MmaRun) (w : MxBytesB) (xs : List MxBytesA) : List MxOutRow :=
  let wb := decodeB r.req r.recB r.recO w
  xs.map fun x =>
    let p := mxRowPlace f.cl (rExt r.recA) r.recO x.m
    ⟨x.m, mxRow r.req r.recA r.recB r.recO wb (decodeA r.req r.recA r.recB r.recO x), p.1, p.2⟩

/-- Every row of a block, computed once its operands are read. -/
def mxCompute (f : MxFor) (r : MmaRun) : Mx (List MxOutRow) := do
  let w ← mxLoadB f r.req r.recB r.recO
  let xs ← mxEach (mxLoadA f r.req r.recA r.recB r.recO) (blockRows (rExt r.recA) r.blk)
  pure (computeRows f r w xs)

/-! ### The second computation of a pair's MMA (19 R357) -/

/-- A block's CRC-64: its output bytes, then its arrivals' words. -/
def blockCrc (r : MmaRun) (rows : List MxOutRow) : BitVec 64 :=
  crcBytes (crcBytes 0 (rows.flatMap fun x => mxPack (oFmt r.recO) (x.elems.map fun e => e.bits)))
    (bytesOf ((mxArrivals r.req.who.gtid (rExt r.recA) r.recO rows).flatMap fun e => [e.2.1, e.2.2]))

/-- The MMA as the pair's other member issued it. -/
def twinRun (r : MmaRun) : Option MmaRun :=
  match r.req.twin, r.twin with
  | some t, some (a, b, o) =>
    some { r with
      req := { r.req with xd := t.xd, xa := t.xa, xb := t.xb, t0 := t.t0, t1 := t.t1 }
      recA := a
      recB := b
      recO := o }
  | _, _ => none

/-- What the computation for the other member says of a block (R357): the CRCs agree, as outside a pair, or differ, or a
piece of its own operands has been read, or a line must come back first. -/
inductive TwinSays where
  | agrees
  | differs
  | more (bs : List Byte) (s : State)
  | line (x : Nat)
deriving DecidableEq, Repr

def twinSays (f : MxFor) (r : MmaRun) (rows : List MxOutRow) (s : State) : TwinSays :=
  match twinRun r with
  | none => .agrees
  | some q =>
    match mxCompute f q (s, r.twinPieces) with
    | .ok (rows', _) => if blockCrc q rows' == blockCrc r rows then .agrees else .differs
    | .error (.more bs s1) => .more bs s1
    | .error (.line x) => .line x
    | .error (.trap _ _) => .differs

def setRun (s : State) (cl : Nat) (r : MmaRun) : State := modCluster s cl fun k => { k with mmaRun := some r }

/-- The computations of a block differ: it is computed once more, then the MMA traps. -/
def twinDiffers (s : State) (cl : Nat) (r : MmaRun) : State :=
  let s1 := countError s (dieOf r.req.who.core) 5
  if r.again then mmaTrap s1 cl r ⟨15, 1, 0, 0⟩
  else setRun s1 cl { r with again := true, line := none, pieces := [], twinPieces := [] }

/-- The rows of a block computed and checked: their writes leave (R220). -/
def mmaWrite (s : State) (cl : Nat) (r : MmaRun) (rows : List MxOutRow) : State :=
  let r1 : MmaRun := { r with
    line := none
    again := false
    pieces := []
    twinPieces := []
    writing := true
    waits := (List.range rows.length).map fun j => rowItem + j
    arrivals := mxArrivals r.req.who.gtid (rExt r.recA) r.recO rows
    blkFlags := (rows.foldl (fun f x => x.elems.foldl (fun f e => f ||| e.flags) f) 0#6).toNat
    prov := mxProv r.recA r.recB rows }
  mxSendRows (setRun s cl r1) cl r.req.who (oFmt r.recO) rows rowItem

/-- The engine waits for a line that a host caches (04 R107). -/
def mmaLine (s : State) (cl : Nat) (r : MmaRun) (x : Nat) : State := setRun (askLine s x) cl { r with line := some x }

/-- A turn of the engine on the block at BLK: it reads one more piece of its operands, or computes the rows, checks them and
writes them (R220). -/
def mmaBlock (s : State) (cl : Nat) (r0 : MmaRun) : State :=
  let r := { r0 with line := none, since := if r0.pieces.isEmpty then s.cycle else r0.since }
  match mmaSlot s r.req.who with
  | none => mmaFree s cl
  | some (c, i) =>
    let f : MxFor := ⟨cl, c, i, r.req.region⟩
    match mxCompute f r (s, r.pieces) with
    | .error (.more bs s1) => setRun s1 cl { r with pieces := r.pieces ++ [bs] }
    | .error (.trap t s1) => mmaTrap s1 cl r t
    | .error (.line x) => mmaLine s cl r x
    | .ok (rows, _) =>
      match mxRefused s c (mxBytes (oFmt r.recO) (rExt r.recB)) rows with
      | some t => mmaTrap s cl r t
      | none =>
        match twinSays f r rows s with
        | .agrees => mmaWrite s cl r rows
        | .differs => twinDiffers s cl r
        | .more bs s1 => setRun s1 cl { r with twinPieces := r.twinPieces ++ [bs] }
        | .line x => mmaLine s cl r x

/-- Whether a listed row slot still awaits a transfer (06 R144). -/
def slotsComing (s : State) (cl : Nat) (r : MmaRun) : Bool :=
  rKind r.recB == 3 && (listedSlots r.recB).any fun i =>
    match tfind (getCluster s cl).rows i with
    | some x => !x.coming.isEmpty
    | none => false

/-- The next block starts when the engine is neither idling nor writing nor waiting. -/
def mmaTry (s : State) (cl : Nat) : State :=
  match (getCluster s cl).mmaRun with
  | none => s
  | some r =>
    if r.writing || (getCluster s cl).mmaIdle || slotsComing s cl r then s
    else match r.line with
      | some x => if (snooped s (64 * x) 64).isEmpty then mmaBlock s cl r else s
      | none => mmaBlock s cl r

/-! ## Arbitration (R227) -/

/-- Whether a stop is asked of the task of a pending MMA: it is not accepted before the stop is taken (R223). -/
def mmaStops (s : State) (q : MmaReq) : Bool :=
  match mmaSlot s q.who with
  | some (c, i) => (getSlot s c i).stop.isSome
  | none => false

/-- The oldest pending MMA of each core, by core number. -/
def mmaHeads (pending : List MmaReq) : List MmaReq :=
  let cores := pending.foldl (fun (l : List Nat) q => addNat l q.who.core) []
  let heads := cores.filterMap fun c =>
    (pending.filter fun q => q.who.core == c).foldl (fun b q => match b with
      | none => some q
      | some x => some (if q.order < x.order then q else x)) none
  heads.foldr (fun q l => (l.filter fun x => decide (x.who.core < q.who.core)) ++ [q] ++
    (l.filter fun x => decide (q.who.core < x.who.core))) []

/-- The entry whose cumulative ticket range contains v. -/
def ticketPick {α : Type} (v : Nat) : List (α × Nat) → Option α
  | [] => none
  | (a, n) :: r => if v < n then some a else ticketPick (v - n) r

def mxTickets (s : State) (rid : Nat) : Nat :=
  match getRegion s rid with
  | some r => r.mxtix
  | none => 0

/-- The draw: the chosen request, and the cluster with its lottery state and the counts of draws not won. -/
def mmaDraw (s : State) (cl : Nat) : Option (MmaReq × State) :=
  let k := getCluster s cl
  let heads := mmaHeads (k.mmaPending.filter fun q => !mmaStops s q)
  let count := fun (q : MmaReq) => tget k.mmaStarve q.who.core 0
  match heads with
  | [] => none
  | first :: _ =>
    match heads.find? fun q => decide (4096 ≤ count q) with
    | some q => some (q, setCluster s cl { k with mmaStarve := tset k.mmaStarve q.who.core 0 })
    | none =>
      let tix := heads.map fun q => (q, mxTickets s q.region)
      let total := (tix.map fun e => e.2).foldl (· + ·) 0
      if total == 0 then
        some (first, setCluster s cl { k with
          mmaStarve := heads.map fun q => (q.who.core, if q.who.core == first.who.core then 0 else count q) })
      else
        let st := lotStep (k.mxlot.toNat % 2 ^ 32)
        let q := (ticketPick (st % total) tix).getD first
        some (q, setCluster s cl { k with
          mxlot := w64 st
          mmaStarve := heads.map fun x => (x.who.core, if x.who.core == q.who.core then 0 else count x + 1) })

/-- Whether a task's earlier loads, stores, STN and vector accesses are performed (R211). -/
def mmaReady (s : State) (q : MmaReq) : Bool :=
  !pairOpen s q.who.core q.who.slot && !(q.waits.any fun n => (liveItems s q.who.core q.who.slot q.who.gtid).contains n)

/-- Acceptance: the three records are read, MPROG and the shape checked, and the first block begins (R211, R217, R222). -/
def mmaAcceptReq (s : State) (cl : Nat) (q : MmaReq) : State :=
  let s0 := modCluster s cl fun k => { k with mmaPending := k.mmaPending.filter fun x => x.order != q.order, mmaChosen := none }
  match mmaSlot s0 q.who with
  | none => s0
  | some (c, i) =>
    let rec_ := fun (a : Nat) => leNat (spRead s0 c a 64)
    let blk := bits (getSlot s0 c i).mprog.toNat 8 0
    let r : MmaRun := ⟨q, rec_ q.xa, rec_ q.xb, rec_ q.xd, q.twin.map fun t => (rec_ t.xa, rec_ t.xb, rec_ t.xd), false, blk, 0, 0,
      none, [], [], false, s0.cycle, [], [], 0, none⟩
    match [q.xa, q.xb, q.xd].find? fun a => spBad s0 c a 64 with
    | some a => mmaTrap s0 cl r (tUncorr (w64 a))
    | none =>
      match shapeFault s0 cl q.kind blk r.recA r.recB r.recO with
      | some v => mmaTrap s0 cl r (tShape (w64 v))
      | none =>
        let s1 := if blk == 0 then modSlot s0 c i fun t => { t with mpva := 0, mpvb := 0, mmaFlags := 0 } else s0
        mmaTry (modCluster s1 cl fun k => { k with mmaRun := some r }) cl

/-- MMA_ACCEPT (R227): a free engine draws; the MMA drawn is accepted once its task's earlier accesses are performed. -/
def mmaAcceptStep (cl : Nat) (s : State) : State :=
  let k := getCluster s cl
  if k.mmaRun.isSome || k.mmaIdle then s
  else match k.mmaChosen with
    | some q => if mmaReady s q then mmaAcceptReq s cl q else s
    | none =>
      match mmaDraw s cl with
      | none => s
      | some (q, s1) =>
        if mmaReady s1 q then mmaAcceptReq s1 cl q
        else modCluster s1 cl fun k => { k with mmaChosen := some q }

def execMmaAccept (cluster : Nat) (s : State) : Host.Outcome State Fault Refusal := always (mmaAcceptStep cluster) s

/-! ## A block completes (R222, R223, R227, 22 R389) -/

/-- Sends a block's arrivals from the issuing core (R221). -/
def mxAnnounce (s : State) (core tag : Nat) (g : Word) (l : List (Nat × Word × Word)) : State :=
  l.foldl (fun s e => sendMsg s core (mkHdr 2 tag 0xFF e.1) [e.2.1, e.2.2] (hwWho core g) false) s

/-- The idle the governor's duty asks for after a block of b cycles (22 R389). -/
def dutyIdle (s : State) (b : Nat) : Nat := if 256 ≤ s.duty then 0 else ceilDiv (b * (256 - s.duty)) s.duty

/-- The engine idles for the duty of the block just completed. -/
def mmaRest (s : State) (cl since : Nat) : State :=
  let n := dutyIdle s (s.cycle - since)
  if n == 0 then s
  else atCycle (modCluster s cl fun k => { k with mmaIdle := true }) (s.cycle + n) (.dutyIdleEnd cl)

/-- What follows a completed block: retirement, a stop at the boundary (the MMA is pending again until the task is stopped,
and goes on if it is not: R223, 18 R340), or the next block. -/
def mmaNext (s : State) (cl : Nat) (r : MmaRun) : State :=
  if ceilDiv (rExt r.recA) 16 ≤ r.blk then mmaRetire s cl r
  else match mmaSlot s r.req.who with
    | none => mmaFree s cl
    | some (c, i) =>
      let s1 := modSlot s c i fun t => { t with mprog := w64 r.blk }
      if (getSlot s1 c i).stop.isSome ||
          decide (16 ≤ r.done) && (getCluster s1 cl).mmaPending.any fun q => q.who.core != r.req.who.core then
        modCluster (mmaMerge (mmaFree s1 cl) r.req.who r.flags) cl fun k =>
          { k with mmaPending := { r.req with waits := [] } :: k.mmaPending }
      else mmaTry s1 cl

/-- ROW_BLOCK_COMPLETE (R222): with every write acknowledged the arrivals leave and BLK advances. A block that waits for a
line starts when the line is back. -/
def rowBlockStep (cl : Nat) (s : State) : State :=
  match (getCluster s cl).mmaRun with
  | none => s
  | some r =>
    if !r.writing then mmaTry s cl
    else if !r.waits.isEmpty then s
    else
      let s1 := mxAnnounce s r.req.who.core (oTag r.recO) r.req.who.gtid r.arrivals
      let s2 := match mmaSlot s1 r.req.who, r.prov with
        | some (c, i), some p =>
          if oProv r.recO && !(getSlot s1 c i).mpva.getLsbD 63 then
            modSlot s1 c i fun t => { t with mpva := p.1, mpvb := p.2 }
          else s1
        | _, _ => s1
      let r1 := { r with blk := r.blk + 1, done := r.done + 1, flags := r.flags ||| r.blkFlags, writing := false, arrivals := [] }
      let s3 := mmaRest (modCluster s2 cl fun k => { k with mmaRun := some r1 }) cl r.since
      mmaNext s3 cl r1

def execRowBlockComplete (cluster : Nat) (s : State) : Host.Outcome State Fault Refusal := always (rowBlockStep cluster) s

/-- DUTY_IDLE_END (22 R389). -/
def dutyIdleEndStep (cl : Nat) (s : State) : State := mmaTry (modCluster s cl fun k => { k with mmaIdle := false }) cl

def execDutyIdleEnd (cluster : Nat) (s : State) : Host.Outcome State Fault Refusal := always (dutyIdleEndStep cluster) s

end Sys2Proof.Machine
end

