-- ==== Sys2Proof/Machine/Nets.lean ====
section
/-! DEFINITION. Interaction nets (spec 14 R269-R289): the NODE forms, the commit of TAIL, claims, and the node messages. -/

namespace Sys2Proof.Machine

/-! ## Node messages (R283) -/

/-- A node message leaves a core's node unit for the owner of a node or a claimer. -/
def nodeSend (s : State) (src dst : Nat) (e : Event) : State := sendTo s (coreSrc src) (.core dst) e

/-- The reference word of port p of a node. -/
def portRef (p gen idx : Nat) : Word := refWord p gen idx

/-- A redirect to the port a reference names (R270). -/
def redirectTo (w : Word) : Word := w64 (6 * 2 ^ 61 + wTag w * 2 ^ 58 + wGen w * 2 ^ 40 + wIdx w)

/-- The reference a redirect holds. -/
def redirectRef (w : Word) : Word := refWord (bits w.toNat 60 58) (wGen w) (wIdx w)

def isRef (w : Word) : Bool := decide (1 ≤ wTag w) && decide (wTag w ≤ 4)

/-- Bits of a port word that must be zero (R270). -/
def portBad (w : Word) : Bool :=
  match wTag w with
  | 0 => w != 0#64
  | 5 => false
  | 6 => bits w.toNat 57 56 != 0
  | 7 => true
  | _ => bits w.toNat 60 56 != 0

/-- Whether a node unit treats a node as unusable (R270). A FREE node's port 1 is a link of the free list (R287). -/
def unusable (ws : List Word) : Bool :=
  let h := ws.getD 0 0#64
  let ports := (ws.drop 1).take 4
  bits h.toNat 63 49 != 0 || (hState h != 0 && ports.any portBad) ||
    ((hState h == 1 || hState h == 2) && ports.any fun w => wTag w == 6)

/-- A header with its state and claimer replaced. -/
def withState (h : Word) (st claimer : Nat) : Word := w64 (putBits (putBits h.toNat 11 10 st) 23 12 claimer)

/-- R282: a principal reference written into port 1 of a LIVE node pushes the pair. -/
def pushPair (s : State) (owner rid idx gen : Nat) (w : Word) : State :=
  if wTag w == 1 then bagPush s owner rid (refWord 1 gen idx) w else s

/-- Adds to the counters of a core. -/
def countCore (s : State) (core : Nat) (f : Core → Core) : State := modCore s core f

/-- An entry of the asynchronous log about a node message (12 R249). -/
def nodeLog (s : State) (rid owner idx : Nat) (operand g : Word) (op cause detail : Nat) : State :=
  logAppend s rid ⟨w64 (nodeVa s rid idx), operand, g, 4, op, cause, detail, 0, owner⟩

/-- A node message of a core to a sealed one is answered with an error notice (19 R348). -/
def nodeNotice (s : State) (src lost rid : Nat) (g : Word) : State :=
  sendErrorNotice s (noticeFrom s lost src) ⟨src, ⟨src, 8, g, 0⟩, 4, lostReason s lost, lost, rid, 0, 0, 0⟩

/-- A node message to a sealed owner is answered with an error notice, and the region halts (R288). -/
def nodeLost (s : State) (src owner rid idx : Nat) (g : Word) : State :=
  let s1 := nodeNotice s src owner rid g
  match getRegion s1 rid with
  | some r => haltRegion s1 r owner none g 0 0 ⟨16, 6, 0, w64 (nodeVa s rid idx)⟩
  | none => s1

/-! ## Claims (R273-R275) -/

/-- The word of the lower index, and whether it is the first of the pair. -/
def lowFirst (a b : Word) : Bool := decide (wIdx a ≤ wIdx b)

/-- A free claim buffer of a core. -/
def freeBuf (k : Core) : Option Nat := (List.range 8).find? fun i => (tfind k.claimBufs i).isNone

/-- Whether a ready-queue entry may be taken by a core (16 R318, R420): its region is RUNNING and grants the core's die
and cluster, and its affinity is that die or any. -/
def entryFits (s : State) (core : Nat) (e : ReadyEntry) : Bool :=
  match getRegion s e.region with
  | none => false
  | some r =>
    regStatus s r == 2 && bit r.dies (dieOf core) && bit r.clusters (clusterOf core % 8) &&
      (match e.item with
       | .pair _ _ => true
       | .spawn _ _ _ _ aff _ _ => aff == 15 || aff == dieOf core)

def isPairEntry (e : ReadyEntry) : Bool :=
  match e.item with
  | .pair _ _ => true
  | .spawn _ _ _ _ _ _ _ => false

/-- The oldest pair a free buffer takes: from the bag, else from the die's ready queue. -/
def takePair (s : State) (core : Nat) : Option ((Nat × Word × Word) × State) :=
  match (getCore s core).bag with
  | p :: rest => some (p, modCore s core fun k => { k with bag := rest })
  | [] =>
    match takeFirst (fun e => isPairEntry e && entryFits s core e) (getDie s (dieOf core)).ready with
    | some (⟨rid, .pair a b⟩, rest) => some ((rid, a, b), modDie s (dieOf core) fun d => { d with ready := rest })
    | some (⟨_, .spawn _ _ _ _ _ _ _⟩, _) => none
    | none => none

/-- BAG_POP (R273, R274): a free buffer takes the oldest pair and claims its lower node. -/
def bagPopStep (core : Nat) (s : State) : State :=
  if !liveCore s core then s
  else match freeBuf (getCore s core) with
    | none => s
    | some i =>
      match takePair s core with
      | none => s
      | some ((rid, a, b), s1) =>
        if regionEnds s1 rid then s1
        else
          let (l, h) := if lowFirst a b then (a, b) else (b, a)
          let s2 := modCore s1 core fun k => { k with claimBufs := tset k.claimBufs i ⟨rid, a, b, 0, [], [], none, false⟩ }
          nodeSend s2 core (nodeOwner (wIdx l)) (.claim ⟨core, i, rid, 0, l, h⟩)

def execBagPop (core : Nat) (s : State) : Host.Outcome State Fault Refusal := always (bagPopStep core) s

/-- Claim(n, g, partner) at the owner: the node's words when it succeeds. -/
def claimNode (s : State) (k : ClaimPkt) : Option (List Word × State) :=
  let idx := wIdx k.word
  match nodeRead s k.region idx with
  | none => none
  | some ws =>
    let h := ws.getD 0 0#64
    if unusable ws || hState h != 1 || hGen h != wGen k.word ||
        ws.getD 1 0#64 != refWord 1 (wGen k.partner) (wIdx k.partner) then none
    else
      let h1 := withState h 2 k.claimer
      some (h1 :: ws.drop 1, nodeWrite s k.region idx 0 [h1])


/-- CLAIM (R274). -/
def claimStep (k : ClaimPkt) (s : State) : State :=
  let idx := wIdx k.word
  let owner := nodeOwner idx
  let fail := fun (s : State) => nodeSend s owner k.claimer (.claimReply k none)
  if !liveCore s owner then
    if (getCore s owner).sealed then fail (nodeLost s k.claimer owner k.region idx 0) else fail s
  else match rangeCheck s owner k.region .node (nodeVa s k.region idx) 64 with
  | some t => fail (nodeLog s k.region owner idx k.word 0 1 2 t.detail)
  | none => match claimNode s k with
    | none => fail (countNode s k.region idx)
    | some (ws, s1) => nodeSend (countNode s1 k.region idx) owner k.claimer (.claimReply k (some ws))

/-- A node message that reaches a node waits for the lines of it that the host may cache (04 R107). -/
def atNode (src rid idx : Nat) (more : List Nat) (e : Event) (f : State → State) (s : State) : State :=
  awaitLines (nodeLines s rid idx ++ more) (coreSrc src) (.core (nodeOwner idx)) e f s

def execClaim (k : ClaimPkt) (s : State) : Host.Outcome State Fault Refusal :=
  always (atNode k.claimer k.region (wIdx k.word) [] (.claim k) (claimStep k)) s

def setBuf (s : State) (core i : Nat) (b : ClaimBuf) : State :=
  modCore s core fun k => { k with claimBufs := tset k.claimBufs i b }

def freeBufAt (s : State) (core i : Nat) : State := modCore s core fun k => { k with claimBufs := tdel k.claimBufs i }

/-- The words of a node enter its place in the buffer. -/
def fillBuf (b : ClaimBuf) (lower : Bool) (ws : List Word) : ClaimBuf :=
  if lower == lowFirst b.first b.second then { b with nodeA := ws, got := b.got + 1 } else { b with nodeB := ws, got := b.got + 1 }

/-- The rule entry of a kind pair in the cluster's table (R272). -/
def ruleOf (s : State) (core ka kb : Nat) : Nat := mread (getCluster s (clusterOf core)).rules (4 * (ka * 256 + kb)) 4

/-- A fully claimed pair becomes a task (R275). -/
def queuePair (s : State) (core i : Nat) (b : ClaimBuf) : State :=
  let ka := hKind (b.nodeA.getD 0 0#64)
  let kb := hKind (b.nodeB.getD 0 0#64)
  let e := ruleOf s core ka kb
  let v := bit e 31
  let (x3, x4) := if v && bit e 30 then (b.second, b.first) else (b.first, b.second)
  let (g, s1) := createTask (modCore s core fun k => { k with ncclaim := k.ncclaim + 1 }) core b.region
    (if v then bits e 29 28 else 0) (.pair i) (w64 (if v then 4 * bits e 18 0 else 0)) x3 x4
    (if v then none else some (ka * 256 + kb))
  setBuf s1 core i { b with owner := some g }

/-- A claim for a region that has ended: the nodes it holds are released. -/
def endClaim (s : State) (k : ClaimPkt) (got : Bool) : State :=
  let core := k.claimer
  let rel := fun (s : State) (k : ClaimPkt) => nodeSend s core (nodeOwner (wIdx k.word)) (.release k)
  let s1 := freeBufAt s core k.buf
  let s2 := if got then rel s1 k else s1
  if k.which == 0 then s2 else rel s2 { k with which := 0, word := k.partner, partner := k.word }

/-- CLAIM_REPLY (R274, R275); a node granted to a claimer that has been sealed is released (R288). -/
def claimReplyStep (k : ClaimPkt) (node : Option (List Word)) (s : State) : State :=
  let core := k.claimer
  if !liveCore s core then
    let owner := nodeOwner (wIdx k.word)
    let s1 := if (getCore s core).sealed then nodeNotice s owner core k.region 0 else s
    if node.isSome then nodeSend s1 (controlOf core) owner (.release k) else s1
  else match tfind (getCore s core).claimBufs k.buf with
  | none => s
  | some b =>
    let failed := modCore (freeBufAt s core k.buf) core fun c => { c with ncfail := c.ncfail + 1 }
    if regionEnds s b.region then endClaim s k node.isSome
    else match node with
    | none =>
      if k.which == 0 then failed
      else
        let l := k.partner
        nodeSend failed core (nodeOwner (wIdx l)) (.release { k with which := 0, word := l, partner := k.word })
    | some ws =>
      let b1 := fillBuf b (k.which == 0) ws
      if k.which == 0 then
        nodeSend (setBuf s core k.buf b1) core (nodeOwner (wIdx k.partner))
          (.claim { k with which := 1, word := k.partner, partner := k.word })
      else queuePair s core k.buf b1

def execClaimReply (k : ClaimPkt) (node : Option (List Word)) (s : State) : Host.Outcome State Fault Refusal :=
  always (claimReplyStep k node) s

/-- RELEASE (R274, R282): a node claimed by the sender is LIVE again. -/
def releaseStep (k : ClaimPkt) (s : State) : State :=
  let idx := wIdx k.word
  let owner := nodeOwner idx
  if !liveCore s owner then (if (getCore s owner).sealed then nodeLost s k.claimer owner k.region idx 0 else s)
  else match nodeRead s k.region idx with
    | none => s
    | some ws =>
      let h := ws.getD 0 0#64
      if hState h != 2 || hClaimer h != k.claimer then s
      else pushPair (nodeWrite (countNode s k.region idx) k.region idx 0 [withState h 1 0]) owner k.region idx (hGen h) (ws.getD 1 0#64)

def execRelease (k : ClaimPkt) (s : State) : Host.Outcome State Fault Refusal := 
  always (atNode k.claimer k.region (wIdx k.word) [] (.release k) (releaseStep k)) s

/-! ## Tombstones (R281, R286) -/

/-- Frees a tombstone when each of its ports is settled (R286). -/
def settleTomb (s : State) (rid idx : Nat) : State :=
  match nodeRead s rid idx with
  | none => s
  | some ws =>
    let h := ws.getD 0 0#64
    if hState h != 3 || hOut h != 0 || (List.range 3).any fun i => bit (hExpect h) i && !bit (hInc h) i then s
    else
      let owner := nodeOwner idx
      let s1 := nodeWrite s rid idx 0 [mkNodeHdr 0 0 0 (hGen h) 0 0 (hArity h) (hKind h)]
      poolReturn (modCore s1 owner fun k => { k with ncfree := k.ncfree + 1 }) owner rid idx

/-- A claimed node becomes a tombstone. -/
def tombify (s : State) (rid idx : Nat) (ports : List Word) (out : Nat) : State :=
  match nodeRead s rid idx with
  | none => s
  | some ws =>
    let h := ws.getD 0 0#64
    let h1 := mkNodeHdr 0 0 out (hGen h) (hClaimer h) 3 (hArity h) (hKind h)
    settleTomb (nodeWrite (nodeWrite (countNode s rid idx) rid idx 2 (ports.take 3)) rid idx 0 [h1]) rid idx

/-- TOMB (R281): counted until it is done. -/
def tombStep (t : TombPkt) (s : State) : State :=
  let who : Who := ⟨t.src, t.slot, t.gtid, t.item⟩
  let owner := nodeOwner t.node
  if !liveCore s owner then
    endItem (if (getCore s owner).sealed then nodeLost s t.src owner t.region t.node t.gtid else s) who
  else endItem (tombify s t.region t.node t.ports t.out) who

def execTomb (t : TombPkt) (s : State) : Host.Outcome State Fault Refusal := 
  always (atNode t.src t.region t.node (freeLines s (nodeOwner t.node) t.region) (.tomb t) (tombStep t)) s

/-- Whether a node is a tombstone: an answer that overtook its TOMB waits for it. -/
def isTomb (s : State) (rid idx : Nat) : Bool :=
  match nodeRead s rid idx with
  | some ws => hState (ws.getD 0 0#64) == 3
  | none => false

/-- The header of a tombstone changed, and the node freed when that settles it. -/
def changeTomb (s : State) (rid idx : Nat) (f : Nat → Nat) : State :=
  match nodeRead s rid idx with
  | some ws => settleTomb (nodeWrite (countNode s rid idx) rid idx 0 [w64 (f (ws.getD 0 0#64).toNat)]) rid idx
  | none => s

/-- An answer reaches the origin of a LINK (R286): its count ends, OUT clears, and EXPECT is recorded. -/
def answered (s : State) (l : LinkPkt) (expect : Bool) (e : Event) : State :=
  match l.origin with
  | none => s
  | some o =>
    let owner := nodeOwner o.node
    let who : Who := ⟨l.src, l.slot, l.gtid, l.item⟩
    if !liveCore s owner then
      endItem (if (getCore s owner).sealed then nodeLost s l.last owner l.region o.node l.gtid else s) who
    else if !isTomb s l.region o.node then later s e
    else
      let k := o.port - 2
      endItem (changeTomb s l.region o.node fun h =>
        putBits (putBits h (40 + k) (40 + k) 0) (43 + k) (43 + k) (if expect then 1 else 0)) who

/-- An answer that reaches its origin's node. -/
def answerStep (l : LinkPkt) (expect : Bool) (e : Event) (s : State) : State :=
  match l.origin with
  | none => answered s l expect e
  | some o => atNode l.last l.region o.node (freeLines s (nodeOwner o.node) l.region) e (fun s => answered s l expect e) s

def execAck (l : LinkPkt) (s : State) : Host.Outcome State Fault Refusal := always (answerStep l false (.ack l)) s

def execSettle (l : LinkPkt) (expect : Bool) (s : State) : Host.Outcome State Fault Refusal :=
  always (answerStep l expect (.settle l expect)) s

/-- Sends a LINK's answer from a core to the owner of its origin; a LINK without origin has none. -/
def answerLink (s : State) (from_ : Nat) (l : LinkPkt) (e : Event) : State :=
  match l.origin with
  | some o => nodeSend s from_ (nodeOwner o.node) (match e with
      | .ack l => .ack { l with last := from_ }
      | .settle l x => .settle { l with last := from_ } x
      | e => e)
  | none => s

/-! ## LINK, DEFER, REDEFER (R284, R285) -/

/-- A LINK that a tombstone forwards: it carries no origin and counts nowhere. -/
def forwardLink (s : State) (owner rid : Nat) (target y : Word) : State :=
  nodeSend s owner (nodeOwner (wIdx target)) (.link ⟨owner, 0, 0, 8, rid, wIdx target, wGen target, wTag target, y, none, owner⟩)

/-- What a tombstone does with a LINK to port word `w` (R284). -/
def tombForward (s : State) (owner rid : Nat) (w y : Word) : State :=
  if wTag w == 6 then forwardLink s owner rid (redirectRef w) y
  else if wTag w == 5 then
    if wTag y == 5 then modCore s owner fun k => { k with ncdead := k.ncdead + 1 }
    else if isRef y then forwardLink s owner rid y w
    else s
  else s

/-- LINK or REDEFER (op 2 or 3) at the owner of the target (R284). -/
def linkStep (l : LinkPkt) (op : Nat) (s0 : State) : State :=
  let owner := nodeOwner l.node
  let s := if liveCore s0 owner && nodeInRange s0 owner l.region l.node then countNode s0 l.region l.node else s0
  let reject := fun (detail : Nat) =>
    answerLink (nodeLog s l.region owner l.node l.word l.gtid op 3 detail) owner l (.ack l)
  if !liveCore s owner then
    if (getCore s owner).sealed then
      endItem (nodeLost s l.last owner l.region l.node l.gtid) ⟨l.src, l.slot, l.gtid, l.item⟩
    else reject 2
  else match if nodeInRange s0 owner l.region l.node then nodeRead s0 l.region l.node else none with
    | none => reject 2
    | some ws =>
      let h := ws.getD 0 0#64
      let put := fun (s : State) => nodeWrite s l.region l.node l.port [l.word]
      if hState h == 0 then reject 0
      else if unusable ws then reject 2
      else if hGen h != l.gen then reject 1
      else match hState h with
        | 1 =>
          let s1 := modCore (put s) owner fun k => { k with nclink := k.nclink + 1 }
          let s2 := if l.port == 1 then pushPair s1 owner l.region l.node (hGen h) l.word else s1
          answerLink s2 owner l (.ack l)
        | 2 =>
          let s1 := modCore (put s) owner fun k => { k with ncdefer := k.ncdefer + 1 }
          nodeSend s1 owner (hClaimer h) (.defer (hClaimer h) { l with last := owner })
        | _ =>
          let s1 := tombForward (modCore s owner fun k => { k with ncdefer := k.ncdefer + 1 }) owner l.region
            (ws.getD l.port 0#64) l.word
          let s2 := answerLink s1 owner l (.settle l true)
          if 2 ≤ l.port then changeTomb s2 l.region l.node fun h => putBits h (44 + l.port) (44 + l.port) 1 else s2

def execLink (l : LinkPkt) (s : State) : Host.Outcome State Fault Refusal := 
  always (atNode l.last l.region l.node (freeLines s (nodeOwner l.node) l.region) (.link l) (linkStep l 2)) s

def execRedefer (l : LinkPkt) (s : State) : Host.Outcome State Fault Refusal := 
  always (atNode l.last l.region l.node (freeLines s (nodeOwner l.node) l.region) (.redefer l) (linkStep l 3)) s

/-- The claim buffer of a core that holds a node, uncommitted, with which node it is. -/
def bufHolding (s : State) (core rid idx gen : Nat) : Option (Nat × ClaimBuf × Bool) :=
  (getCore s core).claimBufs.findSome? fun e =>
    let b := e.2
    let is := fun (w : Word) (ws : List Word) => wIdx w == idx && wGen w == gen && !ws.isEmpty
    if setOwnerOf s b.region != setOwnerOf s rid || b.committed then none
    else if is b.first b.nodeA then some (e.1, b, true)
    else if is b.second b.nodeB then some (e.1, b, false)
    else none

/-- A q11 notice for the task that owns a buffer (R280). -/
def noticeQ11 (s : State) (core : Nat) (b : ClaimBuf) (first : Bool) (port : Nat) : State :=
  match b.owner.bind fun g => locate s core 8 g with
  | none => s
  | some a => modTask s a fun t =>
      let n := (if first == t.swapped then 8 else 0) + port
      let l := if t.q11.length < 16 then t.q11 else t.q11.drop 1
      { t with q11 := l ++ [w64 n] }

/-- DEFER at the claimer (R285). One sealed answers with an error notice, and the owner takes the LINK up again (R288). -/
def deferStep (claimer : Nat) (l : LinkPkt) (s0 : State) : State :=
  let s := if (getCore s0 claimer).sealed then nodeNotice s0 l.last claimer l.region l.gtid else s0
  match bufHolding s claimer l.region l.node l.gen with
  | some (i, b, first) =>
    let b1 := if first then { b with nodeA := b.nodeA.set l.port l.word } else { b with nodeB := b.nodeB.set l.port l.word }
    answerLink (noticeQ11 (setBuf s claimer i b1) claimer b1 first l.port) claimer l (.settle l false)
  | none => nodeSend s claimer (nodeOwner l.node) (.redefer { l with last := claimer })

def execDefer (claimer : Nat) (l : LinkPkt) (s : State) : Host.Outcome State Fault Refusal := always (deferStep claimer l) s

/-! ## The NODE forms (R276-R279) -/

/-- The task's claim buffer. -/
def curBuf (s : State) : Option ClaimBuf :=
  match (curSlot s).claimBuf with
  | some i => tfind (getCore s s.cur.core).claimBufs i
  | none => none

/-- The words of the node the task received in x3 (0) or x4 (1). -/
def bufNode (b : ClaimBuf) (swapped : Bool) (which : Nat) : List Word :=
  if (which == 0) == swapped then b.nodeB else b.nodeA

/-- The words the task reads of its claimed nodes. -/
def claimedNode (s : State) (which : Nat) : Option (List Word) :=
  (curBuf s).map fun b => bufNode b (curSlot s).swapped which

def nodeIll : Op Bool := do
  let s ← look
  pure (!isCompute s.cur.core)

/-- NPORT and NPAY (R278). -/
def readClaim (rd ra : XField) (pay : Bool) : Op Unit := do
  let ill ← nodeIll
  operands [ra] (.x rd) ill
  let v ← rdX ra
  let s ← look
  let n := v.toNat
  match claimedNode s (bits n 3 3) with
  | none => raise (tRule 1 v)
  | some ws => do
    trapIf (n / 16 != 0 || (if pay then bit n 2 || bits n 1 0 == 3 else decide (4 < bits n 2 0))) (tRule 2 v)
    wrX rd 4 (ws.getD (if pay then 5 + bits n 1 0 else bits n 2 0) 0#64)

/-- NPORT. -/
def execNport (rd ra : XField) (s : State) : Host.Outcome State Fault Refusal := runOp (readClaim rd ra false) s

/-- NPAY. -/
def execNpay (rd ra : XField) (s : State) : Host.Outcome State Fault Refusal := runOp (readClaim rd ra true) s

/-- Stages a node of a kind word under a handle. -/
def stageNode (h kw : Word) (t : Slot) : Slot :=
  { t with
    reserved := t.reserved.erase h
    staged := t.staged ++ [⟨wIdx h, wGen h, kw.toNat % 256, bits kw.toNat 9 8, List.replicate 4 0#64, [], List.replicate 3 0#64⟩] }

def nnewOp (rd ra rb : XField) : Op Unit := do
  let ill ← nodeIll
  operands (if rb.toNat == 0 then [ra] else [ra, rb]) (.x rd) ill
  let kw ← rdX ra
  let h ← if rb.toNat == 0 then pure 0#64 else rdX rb
  let s ← look
  trapIf (kw.toNat / 1024 != 0) (tRule 6 kw)
  trapIf (rb.toNat != 0 && !(curSlot s).reserved.contains h) (tRule 3 h)
  trapIf (decide (16 ≤ (curSlot s).staged.length)) (tRule 5 kw)
  if rb.toNat != 0 then do
    change fun s => modCur s (stageNode h kw)
    wrX rd 1 h
  else do
    stallIf (!poolHas s s.cur.core (curSlot s).region 1)
    awaitAll (takeLines s s.cur.core (curSlot s).region)
    match poolTake s s.cur.core (curSlot s).region with
    | none => stall
    | some (i, g, s1) => do
      change fun _ => modCur s1 (stageNode (refWord 1 g i) kw)
      wrX rd 1 (refWord 1 g i)

/-- NNEW. -/
def execNnew (rd ra rb : XField) (s : State) : Host.Outcome State Fault Refusal := runOp (nnewOp rd ra rb) s

/-- The staged node a reference names. -/
def stagedOf (t : Slot) (w : Word) : Option StagedNode :=
  t.staged.find? fun n => n.node == wIdx w && n.gen == wGen w && bits w.toNat 60 56 == 0

/-- A new-node port named by a word: the node and port, or ENDPOINT. -/
def stagedPort (t : Slot) (w : Word) : Option (StagedNode × Nat) :=
  match stagedOf t w with
  | some n => if isRef w && decide (wTag w ≤ n.arity + 1) then some (n, wTag w) else none
  | none => none

/-- A staged node with a change. -/
def modStaged (t : Slot) (idx : Nat) (f : StagedNode → StagedNode) : Slot :=
  { t with staged := t.staged.map fun n => if n.node == idx then f n else n }

def nsetOp (rd ra : XField) : Op Unit := do
  let ill ← nodeIll
  operands [rd, ra] .none ill
  let v ← rdX rd
  let w ← rdX ra
  let s ← look
  match stagedPort (curSlot s) w with
  | none => raise (tRule 3 w)
  | some (n, p) => do
    trapIf (n.wired.contains p) (tRule 4 w)
    trapIf (wTag v != 0 && wTag v != 5) (tRule 6 v)
    change fun s => modCur s fun t => modStaged t n.node fun n =>
      { n with ports := n.ports.set (p - 1) v, wired := n.wired ++ [p] }

/-- NSET. -/
def execNset (rd ra : XField) (s : State) : Host.Outcome State Fault Refusal := runOp (nsetOp rd ra) s

def nsetpOp (rd ra rb : XField) : Op Unit := do
  let ill ← nodeIll
  operands [rd, ra, rb] .none ill
  let v ← rdX rd
  let w ← rdX ra
  let i ← rdX rb
  let s ← look
  match stagedOf (curSlot s) w with
  | none => raise (tRule 3 w)
  | some n => do
    trapIf (wTag w != 1) (tRule 3 w)
    trapIf (decide (2 < i.toNat)) (tRule 2 i)
    change fun s => modCur s fun t => modStaged t n.node fun n => { n with pay := n.pay.set i.toNat v }

/-- NSETP. -/
def execNsetp (rd ra rb : XField) (s : State) : Host.Outcome State Fault Refusal := runOp (nsetpOp rd ra rb) s

/-- An endpoint word (R276), or the trap it raises. -/
def endpointOf (s : State) (w : Word) : Except Trap Endpoint :=
  if wTag w == 5 then .ok (.literal w)
  else if wTag w == 7 then
    match claimedNode s (bits w.toNat 3 3) with
    | none => .error (tRule 1 w)
    | some ws =>
      let p := bits w.toNat 2 0
      if bits w.toNat 60 4 != 0 || p < 2 || hArity (ws.getD 0 0#64) + 1 < p then .error (tRule 3 w)
      else .ok (.claimed (bits w.toNat 3 3) p)
  else match stagedPort (curSlot s) w with
    | some (n, p) => .ok (.fresh n.node p)
    | none => .error (tRule 3 w)

/-- Whether an endpoint is already set or wired (R279 TWICE). -/
def endpointUsed (t : Slot) (e : Endpoint) : Bool :=
  match e with
  | .literal _ => false
  | .fresh n p => t.staged.any fun x => x.node == n && x.wired.contains p
  | .claimed _ _ => t.wires.any fun w => w.1 == e || w.2 == e

def isLiteral (e : Endpoint) : Bool :=
  match e with
  | .literal _ => true
  | .fresh _ _ => false
  | .claimed _ _ => false

/-- Marks an endpoint's new-node port as wired. -/
def markWired (t : Slot) (e : Endpoint) : Slot :=
  match e with
  | .fresh n p => modStaged t n fun x => { x with wired := x.wired ++ [p] }
  | .claimed _ _ => t
  | .literal _ => t

/-- An endpoint within a word's meaning. -/
def needEndpoint (w : Word) : Op Endpoint := do
  let s ← look
  match endpointOf s w with
  | .ok e => pure e
  | .error t => raise t

def nlinkOp (ra rb : XField) : Op Unit := do
  let ill ← nodeIll
  operands [ra, rb] .none ill
  let a ← rdX ra
  let b ← rdX rb
  let ea ← needEndpoint a
  let eb ← needEndpoint b
  let s ← look
  let t := curSlot s
  trapIf (isLiteral ea && isLiteral eb) (tRule 6 a)
  trapIf (endpointUsed t ea) (tRule 4 a)
  trapIf (endpointUsed t eb || ea == eb) (tRule 4 b)
  trapIf (decide (32 ≤ t.wires.length)) (tRule 5 a)
  change fun s => modCur s fun t => markWired (markWired { t with wires := t.wires ++ [(ea, eb)] } ea) eb

/-- NLINK. -/
def execNlink (ra rb : XField) (s : State) : Host.Outcome State Fault Refusal := runOp (nlinkOp ra rb) s

def npushOp (ra rb : XField) : Op Unit := do
  let ill ← nodeIll
  operands [ra, rb] .none ill
  let a ← rdX ra
  let b ← rdX rb
  trapIf (!pairWordOk a) (tRule 6 a)
  trapIf (!pairWordOk b) (tRule 6 b)
  change fun s => bagPush s s.cur.core (curSlot s).region a b

/-- NPUSH. -/
def execNpush (ra rb : XField) (s : State) : Host.Outcome State Fault Refusal := runOp (npushOp ra rb) s

/-! ## The commit (R281) -/

/-- An end of a joined wire: a new-node port, a literal, or a claimed port with its far end outside the pair. -/
inductive WireEnd where
  | port (node p : Nat)
  | lit (w : Word)
  | far (which p : Nat) (e : Word)
deriving DecidableEq, Repr

/-- What a commit works on: the claimed nodes' words as the task received them, and their references. -/
structure Pairing where
  nodes : List (Word × List Word)
deriving DecidableEq, Repr

def farEnd (c : Pairing) (which p : Nat) : Word :=
  match c.nodes[which]? with
  | some n => n.2.getD p 0#64
  | none => 0#64

/-- The claimed port that a far end names, when it lies within the pair. -/
def innerEnd (c : Pairing) (e : Word) : Option (Nat × Nat) :=
  if !isRef e || wTag e == 1 then none
  else (c.nodes.findIdx? fun n => wIdx n.1 == wIdx e && wGen n.1 == wGen e).map fun i => (i, wTag e)

/-- The endpoint wired to a claimed port. -/
def wiredTo (ws : List (Endpoint × Endpoint)) (which p : Nat) : Option Endpoint :=
  ws.findSome? fun w =>
    if w.1 == .claimed which p then some w.2 else if w.2 == .claimed which p then some w.1 else none

/-- The number of the wire that names a claimed port. -/
def wireOf (ws : List (Endpoint × Endpoint)) (which p : Nat) : Nat :=
  ws.findIdx fun w => w.1 == .claimed which p || w.2 == .claimed which p

/-- Follows an endpoint through wires within the pair to its end, with the lowest number of the wires passed; none for a wire
that has no end. -/
def wireEnd (c : Pairing) (ws : List (Endpoint × Endpoint)) : Nat → Endpoint → Nat → Option (WireEnd × Nat)
  | 0, _, _ => none
  | f + 1, e, low =>
    match e with
    | .fresh n p => some (.port n p, low)
    | .literal w => some (.lit w, low)
    | .claimed i p =>
      let far := farEnd c i p
      match innerEnd c far with
      | none => some (.far i p far, low)
      | some (j, q) =>
        match wiredTo ws j q with
        | some e' => wireEnd c ws f e' (Nat.min low (wireOf ws j q))
        | none => none

/-- The joins of a commit: each wire's two ends; wires joined through the pair make one join, at the first of them. -/
def joins (c : Pairing) (ws : List (Endpoint × Endpoint)) : List (WireEnd × WireEnd) :=
  ws.zipIdx.filterMap fun w =>
    match wireEnd c ws 8 w.1.1 w.2, wireEnd c ws 8 w.1.2 w.2 with
    | some a, some b => if a.2 < w.2 || b.2 < w.2 then none else some (a.1, b.1)
    | _, _ => none

/-- What a commit writes and sends: new ports, tombstone ports, OUT marks, LINKs with their origin port, dead wires. -/
structure Commit where
  ports : List (Nat × Nat × Word)
  tombs : List (Nat × Nat × Word)
  outs : List (Nat × Nat)
  links : List (Word × Word × Nat × Nat)
  dead : Nat
deriving DecidableEq, Repr

/-- A reference to a staged node's port. -/
def freshRef (t : Slot) (n p : Nat) : Word :=
  match t.staged.find? fun x => x.node == n with
  | some x => refWord p x.gen n
  | none => 0#64

/-- One end's side of a join: `e` is the far end of claimed port (i, p), `y` what stands at the other end (R281). -/
def joinFar (i p : Nat) (e y : Word) (m : Commit) : Commit :=
  if isRef e then
    { m with
      links := m.links ++ [(e, y, i, p)]
      outs := m.outs ++ [(i, p)]
      tombs := m.tombs ++ [(i, p, if isRef y then redirectTo y else y)] }
  else { m with tombs := m.tombs ++ [(i, p, e)] }

/-- The word that stands at an end, as the other end sees it. -/
def endWord (t : Slot) (w : WireEnd) : Word :=
  match w with
  | .port n p => freshRef t n p
  | .lit w => w
  | .far _ _ e => e

/-- One end of a join given the word at the other end. -/
def joinSide (y : Word) (a : WireEnd) (m : Commit) : Commit :=
  match a with
  | .port n p => { m with ports := m.ports ++ [(n, p, y)] }
  | .lit _ => m
  | .far i p e => joinFar i p e y m

def joinOne (t : Slot) (m : Commit) (j : WireEnd × WireEnd) : Commit :=
  let a := endWord t j.1
  let b := endWord t j.2
  let m1 := joinSide a j.2 (joinSide b j.1 m)
  if wTag a == 5 && wTag b == 5 then { m1 with dead := m1.dead + 1 } else m1

def commitOf (t : Slot) (c : Pairing) : Commit := (joins c t.wires).foldl (joinOne t) ⟨[], [], [], [], 0⟩

/-- The pairing of the task in a slot. -/
def pairingOf (s : State) (core i : Nat) : Pairing :=
  let t := getSlot s core i
  match t.claimBuf.bind fun b => tfind (getCore s core).claimBufs b with
  | none => ⟨[]⟩
  | some b =>
    let l := [(b.first, b.nodeA), (b.second, b.nodeB)]
    ⟨if t.swapped then l.reverse else l⟩

/-- The first auxiliary port of a claimed node that no wire names though its far end is connected (R279 UNLINKED). -/
def unlinked (t : Slot) (c : Pairing) : Option Word :=
  ([0, 1] : List Nat).findSome? fun i =>
    match c.nodes[i]? with
    | none => none
    | some n =>
      ((List.range (hArity (n.2.getD 0 0#64))).find? fun k =>
        wTag (farEnd c i (k + 2)) != 0 && (wiredTo t.wires i (k + 2)).isNone).map fun k => w64 (7 * 2 ^ 61 + i * 8 + k + 2)

/-- A staged node written LIVE. -/
def writeStaged (rid : Nat) (ports : List (Nat × Nat × Word)) (s : State) (n : StagedNode) : State :=
  let ps := n.ports.zipIdx.map fun e =>
    match ports.find? fun x => x.1 == n.node && x.2.1 == e.2 + 1 with
    | some x => x.2.2
    | none => e.1
  nodeWrite (countNode s rid n.node) rid n.node 0 (mkNodeHdr 0 0 0 n.gen 0 1 n.arity n.kind :: (ps ++ n.pay))

/-- Pushes the pair of a new node whose port 1 is a principal reference (R282). -/
def pushStaged (core rid : Nat) (s : State) (n : StagedNode) : State :=
  match nodeRead s rid n.node with
  | some ws => pushPair s core rid n.node n.gen (ws.getD 1 0#64)
  | none => s

/-- The tombstone of claimed node i: at this core at once, elsewhere by a TOMB message, counted (R237). -/
def buryNode (core i : Nat) (rid : Nat) (c : Pairing) (m : Commit) (s : State) (w : Nat) : State :=
  match c.nodes[w]? with
  | none => s
  | some n =>
    let idx := wIdx n.1
    let ports := (List.range 3).map fun k =>
      match m.tombs.find? fun x => x.1 == w && x.2.1 == k + 2 with
      | some x => x.2.2
      | none => 0#64
    let out := ((m.outs.filter fun x => x.1 == w).map fun x => 2 ^ (x.2 - 2)).foldl (· + ·) 0
    if nodeOwner idx == core then tombify s rid idx ports out
    else
      let t := getSlot s core i
      let s1 := addOut s core i .node [.core (nodeOwner idx)] [] .none .none 0 false
      nodeSend s1 core (nodeOwner idx) (.tomb ⟨core, t.gtid, t.nextItem, i, rid, idx, ports, out⟩)

/-- A LINK of a commit, counted until it is answered. -/
def sendCommitLink (core i : Nat) (rid : Nat) (c : Pairing) (s : State) (l : Word × Word × Nat × Nat) : State :=
  let t := getSlot s core i
  let o : Option Origin := (c.nodes[l.2.2.1]?).map fun n => ⟨wIdx n.1, l.2.2.2⟩
  let owner := nodeOwner (wIdx l.1)
  let s1 := addOut s core i .node [.core owner] [] .none .none 0 false
  nodeSend s1 core owner
    (.link ⟨core, t.gtid, t.nextItem, i, rid, wIdx l.1, wGen l.1, wTag l.1, l.2.1, o, core⟩)

/-- The lines of nodes that the commit of a task reads and writes at its own core. -/
def commitLines (s : State) (core i : Nat) : List Nat :=
  if !anySnoop s then []
  else
    let t := getSlot s core i
    let own := (pairingOf s core i).nodes.map fun n => wIdx n.1
    (t.staged.map (fun n => n.node) ++ t.reserved.map wIdx ++ own.filter fun n => nodeOwner n == core).flatMap (nodeLines s t.region) ++
      freeLines s core t.region

/-- The commit of TAIL (R281): one indivisible step at the core. -/
def commitNodes (s : State) (core i : Nat) : State :=
  let t := getSlot s core i
  let c := pairingOf s core i
  let m := commitOf t c
  let s1 := t.staged.foldl (writeStaged t.region m.ports) s
  let s2 := t.reserved.foldl (fun s h => poolReturn s core t.region (wIdx h)) s1
  let s3 := ([0, 1] : List Nat).foldl (buryNode core i t.region c m) s2
  let s4 := m.links.foldl (sendCommitLink core i t.region c) s3
  let s5 := modCore s4 core fun k => { k with ncdead := k.ncdead + w64 m.dead }
  let s6 := match t.claimBuf with
    | some b => freeBufAt s5 core b
    | none => s5
  let s7 := t.staged.foldl (pushStaged core t.region) s6
  modSlot s7 core i fun t => { t with claimBuf := none, staged := [], wires := [], reserved := [] }

/-- The end of claims without a commit (R288): both nodes are released, staged nodes return to the pool, and the pair is
pushed back where its region goes on. -/
def dropNodes (s : State) (core i : Nat) (pushBack : Bool) : State :=
  let t := getSlot s core i
  let s1 := (t.staged.map fun n => n.node).foldl (fun s n => poolReturn s core t.region n) s
  let s2 := t.reserved.foldl (fun s h => poolReturn s core t.region (wIdx h)) s1
  let s3 := modSlot s2 core i fun t => { t with claimBuf := none, staged := [], wires := [], reserved := [] }
  match t.claimBuf.bind fun b => (tfind (getCore s3 core).claimBufs b).map fun x => (b, x) with
  | none => s3
  | some (n, b) =>
    let rel := fun (s : State) (w p : Word) => nodeSend s core (nodeOwner (wIdx w)) (.release ⟨core, n, b.region, 0, w, p⟩)
    let s4 := rel (rel (freeBufAt s3 core n) b.first b.second) b.second b.first
    if pushBack then bagPush s4 core b.region b.first b.second else s4

end Sys2Proof.Machine
end

