-- ==== Sys2Proof/Machine/Trace.lean ====
section
/-! DEFINITION. Trace records, BKPT and TRACE, and the replay log (spec 20 R363-R369). -/

namespace Sys2Proof.Machine

/-! ## The ring (R364, R365) -/

/-- A record is written at TRTAIL, or dropped when the ring is full or its VA does not translate. -/
def traceWrite (s : State) (d : Nat) (r : TraceRec) : State :=
  let k := getDie s d
  let n := k.trsize.toNat
  if n == 0 then s
  else
    let tail := k.trtail.toNat
    let next := (tail + 1) % n
    let drop := modDie s d fun k => { k with trdrop := k.trdrop + 1 }
    if next == k.trhead.toNat then drop
    else match vaPlaces s k.trRegion (k.trbase.toNat + 32 * tail) 32 with
      | none => drop
      | some ps => modDie (placesWrite s none ps (bytesOf [r.w0, r.w1, r.w2, r.w3])) d fun k => { k with trtail := w64 next }

/-- Word 2 of a record. -/
def traceKind (kind : Nat) (pc : Word) : Word := w64 (kind % 256 * 2 ^ 56 + pc.toNat % 2 ^ 21)

/-- The record of a FIFO entry of a task. -/
def traceOf (g : Word) (p : PendingTrace) : TraceRec := ⟨w64 p.cycle, g, traceKind p.kind p.pc, p.data⟩

/-- The oldest FIFO entry of every slot that would make this record leaves its FIFO. -/
def traceTaken (s : State) (d : Nat) (r : TraceRec) : State :=
  match s.cores.findSome? fun e =>
      if dieOf e.1 == d then
        ((List.range 8).find? fun i =>
          let t := coreSlot e.2 i
          match t.q12 with
          | p :: _ => t.held && traceOf t.gtid p == r
          | [] => false).map fun i => (e.1, i)
      else none with
  | some (c, i) => modSlot s c i fun t => { t with q12 := t.q12.drop 1 }
  | none => s

/-- TRACE_RECORD_WRITE (R365). -/
def execTraceRecordWrite (die : Nat) (r : TraceRec) (s : State) : Host.Outcome State Fault Refusal :=
  always (fun s => traceWrite (traceTaken s die r) die r) s

/-- The records left in a slot's FIFO are written (R366). -/
def flushTrace (s : State) (c i : Nat) : State :=
  let t := getSlot s c i
  let s1 := t.q12.foldl (fun s p => traceWrite s (dieOf c) (traceOf t.gtid p)) s
  modSlot s1 c i fun t => { t with q12 := [] }

/-- Pushes already made to q9, q10 and q12 are delivered (18 R339). -/
def deliverPushes (s : State) (c i : Nat) : State := flushPushes (flushTrace s c i) c i

/-- A number saturating at 2^32 − 1. -/
def sat32 (n : Nat) : Nat := Nat.min n (2 ^ 32 - 1)

/-- The task record at a task's end (R367). -/
def taskRecord (s : State) (c : Nat) (t : Slot) : State :=
  if !bit (getDie s (dieOf c)).trctl.toNat 1 || turfyOff s t.region then s
  else traceWrite s (dieOf c) ⟨w64 s.cycle, t.gtid, traceKind 3 t.firstPc,
    w64 (sat32 (t.dispatchedAt - t.enqueuedAt) * 2 ^ 32 + sat32 (s.cycle - t.dispatchedAt))⟩

/-! ## BKPT and TRACE (R363) -/

/-- BKPT. -/
def execBkpt (s : State) : Host.Outcome State Fault Refusal := runOp (raise tBkpt) s

/-- TRACE: a record of KIND 2 carrying x[ra]. -/
def execTrace (ra : XField) (s : State) : Host.Outcome State Fault Refusal :=
  runOp (do
    operands [ra] .none false
    let s ← look
    stallIf (traceOn s s.cur.core && decide (8 ≤ (curSlot s).q12.length))
    let v ← rdX ra
    let s ← look
    tracePush s.cycle 2 v) s

/-! ## Recording and replay (R368, R369) -/

/-- The effective REPLAY of a region on a die: 0 where the die's RPRGN is another, its RPSIZE is 0, or Turfy is off. -/
def replayMode (s : State) (d rid : Nat) : Nat :=
  let k := getDie s d
  match getRegion s rid with
  | none => 0
  | some r => if k.rprgn.toNat % 65536 == rid && k.rpsize != 0 && !turfyOff s rid then r.replay else 0

/-- Entry i of a die's replay log; where RPBASE names absent memory, none (01 R23, log 23). -/
def logEntry (s : State) (d i : Nat) : Option Nat :=
  let a := (getDie s d).rpbase.toNat + 8 * i
  if paPresent s a then some (mread s.mem a 8) else none

/-- Appends an entry to a die's replay log; a full log records no more, and an entry for absent memory is lost. -/
def replayAppend (s : State) (d : Nat) (e : Nat) : State :=
  let k := getDie s d
  if k.rpsize.toNat ≤ k.rpidx.toNat then s
  else
    let a := k.rpbase.toNat + 8 * k.rpidx.toNat
    modDie (if paPresent s a then { s with mem := mwrite s.mem a 8 e } else s) d fun k => { k with rpidx := k.rpidx + 1 }

/-- An acceptance is recorded under REPLAY 1. -/
def recordAccept (s : State) (core rid : Nat) (h : Word) : State :=
  if replayMode s (dieOf core) rid == 1 then
    replayAppend s (dieOf core) (bits h.toNat 63 32 * 2 ^ 32 + core % 4096 * 2 ^ 20)
  else s

/-- A seed entry (R368). -/
def seedEntry (core : Nat) (w : Word) : Nat := bits w.toNat 31 0 * 2 ^ 32 + core % 4096 * 2 ^ 20 + 2 ^ 16

/-- The live compute cores of a region's clusters on a die, and those clusters. -/
def replayCores (s : State) (r : Region) (d : Nat) : List Nat × List Nat :=
  let cls := (regionClusters s r).filter fun k => k / 8 == d
  ((cls.flatMap fun k => (List.range 48).map fun i => k * 48 + i).filter (liveCore s), cls)

/-- Under REPLAY 1, the log begins anew with the seeds of a starting region. -/
def recordSeeds (s : State) (r : Region) (d : Nat) : State :=
  let (cs, cls) := replayCores s r d
  let s0 := modDie s d fun k => { k with rpidx := 0 }
  let s1 := cs.foldl (fun s c => replayAppend s d (seedEntry c (getCore s c).rqlot)) s0
  cls.foldl (fun s k => replayAppend s d (seedEntry (3072 + k) (getCluster s k).mxlot)) s1

/-- Expected entries of a core. -/
def expected (s : State) (core : Nat) : List (Nat × Nat × Nat) := tget (getDie s (dieOf core)).rpNext core []

def setExpected (s : State) (core : Nat) (l : List (Nat × Nat × Nat)) : State :=
  modDie s (dieOf core) fun k => { k with rpNext := tset k.rpNext core l }

/-- The core's head entry is waited for from now on. -/
def awaitNext (s : State) (core : Nat) : State :=
  match expected s core with
  | [] => s
  | (i, k, _) :: r =>
    atCycle (setExpected s core ((i, k, s.cycle) :: r)) (s.cycle + 2000000) (.replayTimeout (dieOf core) core)

/-- One logged entry read back: a seed is loaded, an acceptance joins its core's expected entries. -/
def loadEntry (d : Nat) (s : State) (i : Nat) : State :=
  match logEntry s d i with
  | none => s
  | some e =>
    let c := bits e 31 20
    if bits e 19 16 == 1 then
      let seed := w64 (bits e 63 32)
      if isControl c then modCluster s (c - 3072) fun k => { k with mxlot := seed }
      else modCore s c fun k => { k with rqlot := seed }
    else setExpected s c (expected s c ++ [(i, bits e 63 32, s.cycle)])

/-- Under REPLAY 2 and 3, a die's log is read at region start, and each core of the region waits for its first entry. -/
def loadReplay (s : State) (r : Region) (d : Nat) : State :=
  let n := (getDie s d).rpsize.toNat
  let s1 := (List.range n).foldl (loadEntry d) (modDie s d fun k => { k with rpNext := [], rpHeld := [] })
  let s2 := modDie s1 d fun k => { k with rpidx := w64 n }
  let (cs, cls) := replayCores s r d
  (cs ++ cls.map fun k => 3072 + k).foldl awaitNext s2

/-- What region start does on each die of the region (R368, R369). -/
def startReplay (s : State) (r : Region) : State :=
  (regionDies s r).foldl (fun s d =>
    match replayMode s d r.id with
    | 0 => s
    | 1 => recordSeeds s r d
    | _ => loadReplay s r d) s

/-- The key of a message: SEQ, SCHIP and SCORE as they stand in its header. -/
def msgKey (h : Word) : Nat := bits h.toNat 63 32

/-- What forced replay makes of an arrival. -/
inductive Forced where
  | accept | hold | diverge (reason : Nat)
deriving DecidableEq, Repr

def forced (s : State) (core : Nat) (h : Word) : Forced :=
  match expected s core with
  | [] => .diverge 3
  | (_, k, _) :: _ =>
    if k == msgKey h then .accept
    else if k % 2 ^ 20 == msgKey h % 2 ^ 20 then .diverge 2
    else .hold

/-- The core's head entry has been met; the item that met it is held no more. -/
def metEntry (s : State) (core : Nat) : State :=
  awaitNext (modDie (setExpected s core ((expected s core).drop 1)) (dieOf core) fun k =>
    { k with rpHeld := k.rpHeld.filter fun i => i != s.firing }) core

/-- The arrival joins the messages its core's die holds back, at its place in arrival order. -/
def holdArrival (s : State) (core : Nat) : State :=
  modDie s (dieOf core) fun k =>
    { k with rpHeld := if k.rpHeld.contains s.firing then k.rpHeld else k.rpHeld ++ [s.firing] }

/-- Forcing ends on a die: what it held is released. -/
def releaseHeld (k : Die) : Die := { k with rpNext := [], rpHeld := [], rpFree := k.rpHeld }

/-- A divergence (R369): the KIND 4 record, the end of forcing, and under REPLAY 2 the halt of the region, which will
complete FAULTED with cause 6. The messages held back are released, to go on in arrival order. -/
def diverge (s : State) (core rid reason : Nat) (arrived : Option Word) : State :=
  let d := dieOf core
  let (ix, exp) := match expected s core with
    | (i, _, _) :: _ => (i, (logEntry s d i).getD 0)
    | [] => ((getDie s d).rpsize.toNat, 0)
  let got := match arrived with
    | some h => msgKey h * 2 ^ 32 + core % 4096 * 2 ^ 20
    | none => 0
  let g := (getCore s core).msgTask
  let s1 := traceWrite s d ⟨w64 exp, w64 got,
    w64 (4 * 2 ^ 56 + reason % 16 * 2 ^ 52 + core % 4096 * 2 ^ 32 + ix % 2 ^ 32), g⟩
  match getRegion s1 rid with
  | none => s1
  | some r =>
    let mode := r.replay
    let s2 := modRegion s1 rid fun r => { r with replay := 0 }
    let s3 := (regionDies s2 r).foldl (fun s e => modDie s e releaseHeld) s2
    if mode == 2 then
      haltRegion (modRegion s3 rid fun r => { r with killCause := some (r.killCause.getD (5, 6)) }) r core none g 0 0 ⟨16, 0, 0, 0⟩
    else s3

/-- REPLAY_TIMEOUT (R369): the expected message has not come within 2,000,000 cycles. -/
def replayTimeoutStep (die core : Nat) (s : State) : State :=
  match expected s core with
  | [] => s
  | (_, _, since) :: _ =>
    let rid := (getDie s die).rprgn.toNat % 65536
    if s.cycle < since + 2000000 || replayMode s die rid < 2 then s else diverge s core rid 1 none

def execReplayTimeout (die core : Nat) (s : State) : Host.Outcome State Fault Refusal :=
  always (replayTimeoutStep die core) s

end Sys2Proof.Machine
end

