-- ==== Sys2Proof/Machine/Tasks.lean ====
section
/-! DEFINITION. Tasks (spec 15 R291-R296, R307, R308, 16 R318, R319, R420): dispatch and the lottery, the ready queues and
stealing, SPAWN, TAIL and YIELD. -/

namespace Sys2Proof.Machine

/-! ## The lottery (R307, R308) -/

/-- The task of a class that a dispatch would take: its oldest of a RUNNING region. -/
def candidate (s : State) (k : Core) (c : Nat) : Option QTask := k.runq.find? fun q => q.cls == c && isRunning s q.region

/-- Tickets of a class: those of its candidate's region times the core's weight. -/
def tickets (s : State) (k : Core) (c : Nat) : Nat :=
  match candidate s k c with
  | none => 0
  | some q =>
    match getRegion s q.region with
    | some r => r.w.getD c 0 * bits k.rqwt.toNat (8 * c + 7) (8 * c)
    | none => 0

/-- The class whose cumulative range contains v. -/
def inRange (v : Nat) : List (Nat × Nat) → Option Nat
  | [] => none
  | (c, t) :: r => if v < t then some c else inRange (v - t) r

/-- The class chosen, and the lottery state after it. -/
def chooseClass (s : State) (k : Core) : Option (Nat × Word) :=
  let ne := (List.range 4).filter fun c => (candidate s k c).isSome
  match ne with
  | [] => none
  | low :: _ =>
    match ne.find? fun c => tget k.starve c 0 == 4096 with
    | some c => some (c, k.rqlot)
    | none =>
      let tix := ne.map fun c => (c, tickets s k c)
      let total := (tix.map Prod.snd).foldl (· + ·) 0
      if total == 0 then some (low, k.rqlot)
      else
        let n := lotStep (k.rqlot.toNat % 2 ^ 32)
        some ((inRange (n % total) tix).getD low, w64 n)

/-- The STARVE counters after class c is chosen. -/
def starveAfter (s : State) (k : Core) (c : Nat) : Tab Nat :=
  (List.range 4).map fun j =>
    (j, if j == c || (candidate s k j).isNone then 0 else tget k.starve j 0 + 1)

/-! ## Dispatch (R293) -/

/-- The lowest free slot of a core in a cycle: one that a TAIL frees is free from the next cycle on (R310). -/
def freeSlot (now : Nat) (k : Core) : Option Nat :=
  (List.range 8).find? fun i => !(coreSlot k i).held && k.tailed != some (now, i)

/-- A task of a core's own kind that may hold slots: compute and control cores, live. -/
def runsTasks (s : State) (c : Nat) : Bool := !isMgmt c && decide (c < 3136) && answering s c

/-- Whether a core dispatches now. -/
def canDispatch (s : State) (core : Nat) : Bool :=
  let k := getCore s core
  runsTasks s core && k.dispatchedAt != some s.cycle && (freeSlot s.cycle k).isSome &&
    k.runq.any fun q => isRunning s q.region

/-- The task's slot as it starts: a claimed pair brings its buffer, a message its payload. -/
def originSlot (s : State) (core : Nat) (t : Slot) (x3 : Word) : Slot :=
  match t.origin with
  | .pair b =>
    { t with
      claimBuf := some b
      swapped := match tfind (getCore s core).claimBufs b with
        | some c => c.first != x3
        | none => false }
  | .message m _ => { t with q6 := mboxPayload s core m }
  | .spawn => t
  | .region => t

/-- A queued task takes a slot. -/
def startTask (s : State) (core i : Nat) (q : QTask) : State :=
  match q.from_ with
  | .fresh pc x3 x4 =>
    let s1 := setSlot s core i (originSlot s core (freshSlot s.cycle q pc x3 x4) x3)
    match q.missingRule with
    | some v => parkTrapped s1 core i (tRule 0 (w64 v))
    | none => s1
  | .saved ctx =>
    later (setSlot s core i { Slot.empty with
      held := true, gtid := q.gtid, region := q.region, cls := q.cls, origin := q.origin, park := .readBack ctx })
      (.contextReadBack core i ctx)

/-- DISPATCH (R293, R308). -/
def dispatchStep (core : Nat) (s : State) : State :=
  let k := getCore s core
  if !canDispatch s core then s
  else match freeSlot s.cycle k, chooseClass s k with
    | some i, some (c, lot) =>
      match takeFirst (fun (q : QTask) => q.cls == c && isRunning s q.region) k.runq with
      | none => s
      | some (q, rest) =>
        let k1 := { k with runq := rest, rqlot := lot, starve := starveAfter s k c, dispatchedAt := some s.cycle }
        let k2 := { k1 with starve := (List.range 4).map fun j =>
          (j, if (candidate s k1 j).isNone then 0 else tget k1.starve j 0) }
        refillQueue (startTask (setCore s core k2) core i q) core
    | _, _ => s

def execDispatch (core : Nat) (s : State) : Host.Outcome State Fault Refusal := always (dispatchStep core) s

/-! ## Ready queues (16 R318, R319) -/

/-- Whether an entry stands for a task counted in OTC. -/
def entryCounts (e : ReadyEntry) : Bool :=
  match e.item with
  | .pair _ _ => false
  | .spawn _ _ _ _ _ _ _ => true

/-- An entry of an ended region is discarded, and OTC falls (R317). -/
def discardEntry (s : State) (e : ReadyEntry) : State := if entryCounts e then otcAdd s e.region (-1) else s

/-- Whether a core pulls from its die's ready queue now (15 R293). -/
def canPull (s : State) (core : Nat) : Bool :=
  let k := getCore s core
  liveCore s core && k.runq.isEmpty && k.runHold.isEmpty && (freeSlot s.cycle k).isSome &&
    (getDie s (dieOf core)).ready.any fun e => entryFits s core e && (!isPairEntry e || decide (k.bag.length < 768))

/-- The task of a pulled spawn, stamped with the cycle of its creation (20 R367); a region-start task gets its GTID on the
core it starts on (15 R292). -/
def spawnTask (s : State) (core rid : Nat) (g x3 : Word) (pcw cls born : Nat) (region : Bool) : State :=
  let (g1, s1) := if region then newGtid s core rid else (g, s)
  enqueue s1 core ⟨g1, rid, cls, if region then .region else .spawn, .fresh (w64 (4 * pcw)) x3 0, born, none⟩

/-- READY_QUEUE_PULL (R318): the oldest entry whose region grants the core and whose affinity fits. -/
def readyPullStep (core : Nat) (s : State) : State :=
  if !canPull s core then s
  else
    let k := getCore s core
    match takeFirst (fun e => entryFits s core e && (!isPairEntry e || decide (k.bag.length < 768)))
        (getDie s (dieOf core)).ready with
    | none => s
    | some (e, rest) =>
      let s1 := modDie s (dieOf core) fun d => { d with ready := rest }
      match e.item with
      | .pair a b => bagPush s1 core e.region a b
      | .spawn g x3 pcw cls _ born st => spawnTask s1 core e.region g x3 pcw cls born st

def execReadyQueuePull (core : Nat) (s : State) : Host.Outcome State Fault Refusal := always (readyPullStep core) s

/-- A die's ready queue holds 4,096 entries. -/
def readyRoom (s : State) (d : Nat) : Bool := decide ((getDie s d).ready.length < 4096)

/-- SPAWN_PLACE (15 R296, R318): the queue accepts the entry and its count ends; a full queue leaves it at its source. -/
def spawnPlaceStep (die : Nat) (who : Option Who) (e : ReadyEntry) (s : State) : State :=
  let ended := fun (s : State) =>
    match who with
    | some w => endItem s w
    | none => s
  if regionEnds s e.region then ended (discardEntry s e)
  else if readyRoom s die then ended (readyPush s die e)
  else match who with
    | some w => putBack s (coreSrc w.core) (.core (3136 + die)) (.spawnPlace die who e)
    | none => later s (.spawnPlace die who e)

def execSpawnPlace (die : Nat) (who : Option Who) (e : ReadyEntry) (s : State) : Host.Outcome State Fault Refusal :=
  always (spawnPlaceStep die who e) s

/-- A die with nothing to do: its ready queue and its live cores' bags are empty (R319). -/
def dieIdle (s : State) (d : Nat) : Bool :=
  (getDie s d).ready.isEmpty && s.cores.all fun e => dieOf e.1 != d || !liveCore s e.1 || e.2.bag.isEmpty

/-- The next neighbour in cyclic order from `n` on. -/
def nextNeighbour (ns : List Nat) (n : Nat) : Option Nat :=
  match ns.find? fun t => decide (n ≤ t) with
  | some t => some t
  | none => ns.head?

/-- STEAL_TIMER (R319). -/
def stealTimerStep (d : Nat) (s : State) : State :=
  if !dieLive s d || !dieIdle s d then s
  else match nextNeighbour (neighbours s d) (getDie s d).stealNext with
    | none => s
    | some v =>
      sendTo (modDie s d fun k => { k with stealNext := v + 1 }) (coreSrc (3136 + d)) (.core (3136 + v)) (.stealRequest d v)

def execStealTimer (die : Nat) (s : State) : Host.Outcome State Fault Refusal := always (stealTimerStep die) s

/-- Whether a thief may take an entry: a pair or an AFF-15 spawn of a RUNNING region whose dies include the thief. -/
def stealable (s : State) (thief : Nat) (e : ReadyEntry) : Bool :=
  match getRegion s e.region with
  | none => false
  | some r =>
    regStatus s r == 2 && bit r.dies thief &&
      (match e.item with
       | .pair _ _ => true
       | .spawn _ _ _ _ aff _ _ => aff == 15)

/-- The first n elements that satisfy p, and the rest. -/
def takeWhere {α : Type} (p : α → Bool) : Nat → List α → List α × List α
  | 0, l => ([], l)
  | _, [] => ([], [])
  | n + 1, a :: r =>
    if p a then
      let q := takeWhere p n r
      (a :: q.1, q.2)
    else
      let q := takeWhere p (n + 1) r
      (q.1, a :: q.2)

/-- STEAL_REQUEST (R319): half of the stealable entries, oldest first, at most 64. -/
def stealRequestStep (thief victim : Nat) (s : State) : State :=
  let l := (getDie s victim).ready
  let n := Nat.min ((l.filter (stealable s thief)).length / 2) 64
  let (es, rest) := takeWhere (stealable s thief) n l
  sendTo (modDie s victim fun d => { d with ready := rest }) (coreSrc (3136 + victim)) (.core (3136 + thief))
    (.stealAnswer thief es)

def execStealRequest (thief victim : Nat) (s : State) : Host.Outcome State Fault Refusal :=
  always (stealRequestStep thief victim) s

/-- One stolen entry enters the thief's ready queue. -/
def takeStolen (d : Nat) (s : State) (e : ReadyEntry) : State :=
  if regionEnds s e.region then discardEntry s e
  else if readyRoom s d then readyPush s d e
  else later s (.spawnPlace d none e)

/-- STEAL_ANSWER (R319): the entries in the order received; none counts a failed attempt. -/
def stealAnswerStep (thief : Nat) (es : List ReadyEntry) (s : State) : State :=
  if es.isEmpty then modDie s thief fun d => { d with tssteal := d.tssteal + 1 } else es.foldl (takeStolen thief) s

def execStealAnswer (thief : Nat) (es : List ReadyEntry) (s : State) : Host.Outcome State Fault Refusal :=
  always (stealAnswerStep thief es) s

/-! ## SPAWN (R296) -/

/-- A spawn word's reserved bits and affinities. -/
def spawnBad (w : Nat) : Bool :=
  bits w 63 28 != 0 || bits w 23 22 != 0 || bit w 19 || (decide (8 ≤ bits w 27 24) && bits w 27 24 != 15)

/-- Where a spawn goes: the die of its affinity, or its own die with any affinity. -/
def spawnDie (s : State) (core rid aff : Nat) : Nat × Nat :=
  let ok := match getRegion s rid with
    | some r => bit r.dies aff && dieLive s aff
    | none => false
  if aff < 8 && ok then (aff, aff) else (dieOf core, 15)

def spawnOp (rd ra rb : XField) : Op Unit := do
  let s ← look
  stallIf (oscFull s)
  operands [ra, rb] (.x rd) (spawnBad (peekX s ra).toNat)
  let w ← rdX ra
  let v ← rdX rb
  let s ← look
  let c := s.cur.core
  let rid := (curSlot s).region
  let (g, s1) := newGtid s c rid
  change fun _ =>
    let who := curWho s1
    let (d, aff) := spawnDie s1 c rid (bits w.toNat 27 24)
    let s2 := addOut (otcAdd s1 rid 1) c s.cur.slot .spawn [.core (3136 + d)] [] .none .none 0 false
    sendTo s2 (coreSrc c) (.core (3136 + d))
      (.spawnPlace d (some who) ⟨rid, .spawn g v (bits w.toNat 18 0) (bits w.toNat 21 20) aff s.cycle false⟩)
  wrX rd 1 g

/-- SPAWN. -/
def execSpawn (rd ra rb : XField) (s : State) : Host.Outcome State Fault Refusal := runOp (spawnOp rd ra rb) s

/-! ## The end of a task (R294) -/

/-- A checked pair that ends: the partner's slot is free again (19 R352). -/
def dropPair (s : State) (core : Nat) : State :=
  match (getCore s core).pair with
  | none => s
  | some p =>
    let s1 := modCore s core fun k => { k with pair := none }
    modCore (setSlot s1 p.partner p.partnerSlot Slot.empty) p.partner fun k => { k with pairedTo := none }

/-- Whether a task was started by a message on a SERIAL tag (15 R305). -/
def serialTask (k : Core) (o : TaskOrigin) : Bool :=
  match o with
  | .message _ tag => tagSerial (getTag k tag)
  | .pair _ => false
  | .spawn => false
  | .region => false

/-- What a message task gives back at its end. -/
def endOrigin (s : State) (core : Nat) (o : TaskOrigin) : State :=
  match o with
  | .message m tag => endMessage s core m tag
  | .pair _ => s
  | .spawn => s
  | .region => s

/-- The counted items of a task move to the retirement tracker (12 R238), and its AMOs with them, for which a release form
still inside the core waits (12 R244). -/
def toTracker (s : State) (core : Nat) (t : Slot) : State :=
  if oscOf t == 0 then s
  else modCore s core fun k => { k with
    tracker := k.tracker ++ [⟨t.gtid, t.region, 0, t.out.filter fun o => countedKind o.kind || o.kind == .amo⟩] }

def trackerFull (s : State) (core : Nat) : Bool := decide (4 ≤ (getCore s core).tracker.length)

/-- The rest of a task's end once its nodes are committed or released: records, tracker, mailbox slot, the slot, OTC. -/
def retireTask (s : State) (core i : Nat) : State :=
  let t := getSlot s core i
  let s1 := taskRecord (deliverPushes s core i) core t
  let s2 := dropMma (toTracker s1 core t) ⟨core, i, t.gtid, 0⟩
  let s3 := if inPair s2 core i then dropPair s2 core else s2
  otcAdd (endOrigin (setSlot s3 core i Slot.empty) core t.origin) t.region (-1)

def tailOp : Op Unit := do
  let s ← look
  let c := s.cur.core
  let i := s.cur.slot
  let t := curSlot s
  stallIf (decide (0 < oscOf t) && trackerFull s c)
  trapIf (getCore s c).gang.isSome tIllegal
  trapIf t.stagedHdr.isSome (tQueue 4)
  match unlinked t (pairingOf s c i) with
  | some w => raise (tRule 7 w)
  | none => pure ()
  awaitAll (commitLines s c i)
  let s1 := commitNodes s c i
  let n := oscOf (getSlot s1 c i)
  stallIf (decide (1024 < n) || (decide (0 < n) && trackerFull s1 c))
  change fun _ =>
    let s2 := modCore (retireTask s1 c i) c fun k => { k with tailed := some (s.cycle, i) }
    { s2 with cur := { s2.cur with freed := true } }

/-- TAIL. -/
def execTail (s : State) : Host.Outcome State Fault Refusal := runOp tailOp s

/-- YIELD (R295): the task stops at the end of its bundle as under TPREEMPT with REQUEUE; a TPREEMPT already asked of it is
answered by the same save (log 25). -/
def yieldOp : Op Unit := do
  let s ← look
  let k := getCore s s.cur.core
  trapIf (k.gang.isSome || serialTask k (curSlot s).origin) tIllegal
  change fun s => modCur s fun t => { t with stop := some false, stopRequeue := true, stopper := if t.stop.isSome then t.stopper else none }

/-- YIELD. -/
def execYield (s : State) : Host.Outcome State Fault Refusal := runOp yieldOp s

end Sys2Proof.Machine
end

