-- ==== Sys2Proof/Machine/Gangs.lean ====
section
/-! DEFINITION. Gangs (spec 09 R201-R208): forming, waiting and disbanding. -/

namespace Sys2Proof.Machine

/-! ## Members -/

/-- The lowest slot of a core whose task waits in GANGWAIT, with its rd, next bundle and switch mark. -/
def waitingSlot (k : Core) : Option (Nat × Nat × Word × Bool) :=
  (List.range 8).findSome? fun i =>
    let t := coreSlot k i
    match t.park with
    | .gangWait rd => if t.held && t.stop.isNone then some (i, rd, t.nextPc, t.nextSw) else none
    | _ => none

/-- Whether a core is free to join a gang. -/
def gangFree (k : Core) : Bool := k.gang.isNone && k.pair.isNone && k.pairedTo.isNone

/-- The followers' waiting slots when the condition of R202 holds. -/
def followers (s : State) (base size : Nat) : Option (List (Nat × Nat × Word × Bool)) :=
  ((List.range (size - 1)).map fun m => base + 1 + m).mapM fun c =>
    let k := getCore s c
    if liveCore s c && gangFree k then waitingSlot k else none

/-- The gang that a leader's slot forms with waiting followers. -/
def gangOf (base size slot : Nat) (fs : List (Nat × Nat × Word × Bool)) : Gang :=
  ⟨base, size, slot :: fs.map fun f => f.1, 0 :: fs.map fun f => f.2.1, (0, false) :: fs.map fun f => (f.2.2.1, f.2.2.2)⟩

/-- The gang forms: every member core is locked, the followers' waits end. -/
def formGang (s : State) (g : Gang) : State :=
  (gangCores g).foldl (fun s c =>
    let s1 := modCore s c fun k => { k with gang := some g }
    if isLeader g c then s1 else modSlot s1 c (memberSlot g c) fun t => { t with park := .none, nextSw := false }) s

/-! ## GANGFORM (R202) -/

/-- The gang size a spec names. -/
def gangSize (w : Word) : Option Nat :=
  match w.toNat with
  | 1 => some 2
  | 2 => some 4
  | 3 => some 8
  | _ => none

/-- The size when the spec is good, the core stands at the group's base and every member is live. -/
def gangShape (s : State) (core : Nat) (w : Word) : Option Nat :=
  match gangSize w with
  | none => none
  | some n =>
    if inCluster core % 8 % n != 0 then none
    else if ((List.range n).map fun m => core + m).all (liveCore s) then some n
    else none

/-- A status that is known at once. -/
def gangStatus (rd : XField) (v : Nat) (s : State) : State := writeLate s (.x rd.toNat) 1 (BitVec.ofNat 512 v)

def gangformOp (rd ra rb : XField) : Op Unit := do
  let s ← look
  let k := getCore s s.cur.core
  operands [ra, rb] (.x rd) (!isCompute s.cur.core || isMember k s.cur.core s.cur.slot)
  let w ← rdX ra
  let b ← rdX rb
  change fun s =>
    let c := s.cur.core
    if (getCore s c).gang.isSome then gangStatus rd 3 s
    else match gangShape s c w with
      | none => gangStatus rd 2 s
      | some n =>
        match followers s c n with
        | some fs => if gangFree (getCore s c) then gangStatus rd 0 (formGang s (gangOf c n s.cur.slot fs)) else gangStatus rd 1 s
        | none =>
          if b == 0#64 then gangStatus rd 1 s
          else
            let due := s.cycle + b.toNat
            atCycle (parkIn (.gangForm rd.toNat n due) s) (due + 1) (.gangformTimeout c)

/-- GANGFORM. -/
def execGangform (rd ra rb : XField) (s : State) : Host.Outcome State Fault Refusal := runOp (gangformOp rd ra rb) s

/-- A slot whose GANGFORM can form its gang now. -/
def formable (s : State) (core : Nat) : Option (Nat × Nat × Gang) :=
  let k := getCore s core
  if !liveCore s core || !gangFree k then none
  else (List.range 8).findSome? fun i =>
    let t := coreSlot k i
    match t.park with
    | .gangForm rd n _ =>
      if t.held && t.stop.isNone then (followers s core n).map fun fs => (i, rd, gangOf core n i fs) else none
    | _ => none

/-- GANG_FORMS (R202): all followers are waiting, the gang locks and the leader goes on with OK. -/
def gangFormsStep (core : Nat) (s : State) : State :=
  match formable s core with
  | none => s
  | some (i, rd, g) => modSlot (formGang s g) core i fun t => afterPark (putReg t (.x rd) 0)

def execGangForms (core : Nat) (s : State) : Host.Outcome State Fault Refusal := always (gangFormsStep core) s

/-- GANGFORM_TIMEOUT (R202): expired bounds of a core's GANGFORMs. -/
def gangformTimeoutStep (core : Nat) (s : State) : State :=
  (List.range 8).foldl (fun s i =>
    match (getSlot s core i).park with
    | .gangForm rd _ due =>
      if due < s.cycle then modSlot s core i fun t => afterPark (putReg t (.x rd) 1) else s
    | _ => s) s

def execGangformTimeout (core : Nat) (s : State) : Host.Outcome State Fault Refusal := always (gangformTimeoutStep core) s

/-! ## GANGWAIT and DISBAND (R203, R206) -/

/-- GANGWAIT: parks until a leader takes the task. -/
def execGangwait (rd : XField) (s : State) : Host.Outcome State Fault Refusal :=
  runOp (do
    operands [] (.x rd) (!isCompute s.cur.core || isMember (getCore s s.cur.core) s.cur.core s.cur.slot)
    change (parkIn (.gangWait rd.toNat))) s

/-- DISBAND: the leader ends its gang, each follower goes on after its GANGWAIT with OK. -/
def execDisband (rd : XField) (s : State) : Host.Outcome State Fault Refusal :=
  runOp (do
    let c := s.cur.core
    let g := if isMember (getCore s c) c s.cur.slot then (getCore s c).gang else none
    operands [] (.x rd) (!isCompute c || (match g with
      | some g => !isLeader g c
      | none => false))
    match g with
    | none => change (gangStatus rd 5)
    | some g => change fun s => gangStatus rd 0 ((gangCores g).foldl (fun s c => leaveGang s g c 0) s)) s

end Sys2Proof.Machine
end

