-- ==== Sys2Proof/Machine/Harp.lean ====
section
/-! DEFINITION. The Harp row path (spec 06 R134-R145): ROWACT, ROWUSE, ROWCLOSE, ROWSTAT and the banks' events. -/

namespace Sys2Proof.Machine

/-! ## Checks (R138, R140, R141) -/

/-- The Harp hazard trap (R138). -/
def hazard (detail reason sub slot h : Nat) : Trap :=
  tHarp detail (w64 (reason % 16 * 2 ^ 28 + sub % 16 * 2 ^ 24 + slot % 64 * 2 ^ 18 + h % 4096))

/-- The handle's entry in the cluster's table (R135). -/
def handleOf (s : State) (h : Nat) : Option Handle :=
  if 4095 < h then none
  else match (getCluster s (clusterOf s.cur.core)).sets.find? fun e => e.2.region == setOwnerOf s (curSlot s).region with
    | some e => tfind e.2.harp h
    | none => none

/-- RANGE 0: the handle names an entry in use. -/
def needHandle (h slot : Nat) : Op Handle := do
  let s ← look
  match handleOf s h with
  | none => raise (hazard 3 0 0 slot h)
  | some e => pure e

/-- Whether a row lies in the issuer's die and footprint. -/
def inFootprint (s : State) (e : Handle) : Bool := paCluster e.pa == clusterOf s.cur.core

/-- RANGE 1. -/
def needFootprint (e : Handle) (h slot : Nat) : Op Unit := do
  let s ← look
  trapIf (!inFootprint s e) (hazard 3 1 0 slot h)

/-- Whether a bank is opening or open for another handle or another core. -/
def bankOfOther (s : State) (b : Bank) (h : Nat) : Bool := bankBusy b && (b.handle != h || b.core != s.cur.core)

/-- The guard under which an in-place range is used (04 R96). -/
def rangeGuard (s : State) (va : Nat) : Option Word :=
  match (rangesOf s (clusterOf s.cur.core) (curSlot s).region).find? fun e => decide (e.base ≤ va) && decide (va < e.base + e.len) with
  | some e => if e.ty == 1 then some e.param else none
  | none => none

/-! ## ROWACT (R140) -/

/-- Translation of one page of the row, absent memory included (04 R91). -/
def rowPage (s : State) (va : Nat) : Except Trap (State × Leaf) :=
  match translate s (.core s.cur.core) (curSlot s).region va with
  | .error t => .error t
  | .ok (s1, lf) => if paPresent s1 (leafPa lf va) then .ok (s1, lf) else .error (tXlate 5 0 (w64 va))

/-- The activation counts as an access to the 64 units of one page of its row (04 R100, log 16). -/
def countRow (s : State) (lf : Leaf) (va : Nat) : State :=
  countUnits s (accPage s (dieOf s.cur.core) (curSlot s).region lf) va 4096

/-- Translation of the row's pages: the leaf key of the first, and where each page is read (04 R102). -/
def rowTranslate (h : Nat) (e : Handle) : Op (Nat × List Loc) := fun s =>
  match rowPage s e.va with
  | .error t => .error (if isLine t then stopOf t else .trap (hazard 3 3 t.detail 0 h))
  | .ok (s1, l1) =>
    match rowPage s1 (e.va + 4096) with
    | .error t => .error (if isLine t then stopOf t else .trap (hazard 3 3 t.detail 0 h))
    | .ok (s2, l2) =>
      if leafPa l1 e.va == e.pa && leafPa l2 (e.va + 4096) == e.pa + 4096 then
        .ok ((pteKey l1.word, [leafLoc s2 l1 e.va, leafLoc s2 l2 (e.va + 4096)]),
          countRow (countRow s2 l1 e.va) l2 (e.va + 4096))
      else .error (.trap (hazard 3 4 0 0 h))

/-- The cycle at which an activation accepted now starts (R136, R140). -/
def actStart (now : Nat) (b : Bank) : Nat :=
  match b.st with
  | .precharge => if b.refreshDue then b.until_ + 700 else b.until_
  | .refresh => b.until_
  | .idle => now
  | .opening => now
  | .open_ => now

/-- The cycle at which the refresh that an activation waits for ends; 0 with none (R136). -/
def refreshEnds (b : Bank) : Nat :=
  match b.st with
  | .precharge => if b.refreshDue then b.until_ + 700 else 0
  | .refresh => b.until_
  | .idle => 0
  | .opening => 0
  | .open_ => 0

def rowactOp (ra : XField) : Op Unit := do
  operands [ra] .none false
  let hv ← rdX ra
  let h := hv.toNat
  let e ← needHandle h 0
  needFootprint e h 0
  let s ← look
  match rangeCheck s s.cur.core (curSlot s).region .rowact e.va 8192 with
  | some t => raise (hazard 3 2 t.detail 0 h)
  | none => do
    let (key, locs) ← rowTranslate h e
    let cl := clusterOf s.cur.core
    let n := paBank e.pa
    trapIf (bankBusy (getBank s cl n)) (hazard 2 0 0 0 h)
    awaitLine e.pa 8192
    change fun s =>
      let b := getBank s cl n
      let ready := actStart s.cycle b + 36
      let s1 := setBank s cl n { b with
        st := .opening
        handle := h
        core := s.cur.core
        region := (curSlot s).region
        key := key
        ready := ready
        until_ := refreshEnds b
        refreshDue := false
        lost := none
        closeAsked := none
        readEnd := 0
        rowPa := e.pa
        row := none
        va := e.va
        locs := locs
        errs := []
        hold := rangeGuard s e.va }
      atCycle s1 ready (.bankReady cl n)

/-- ROWACT. -/
def execRowact (ra : XField) (s : State) : Host.Outcome State Fault Refusal := runOp (rowactOp ra) s

/-! ## ROWUSE (R141) -/

/-- Whether an accepted, unretired MMA lists a slot as a B source (R138). -/
def slotRead (s : State) (cl slot : Nat) : Bool :=
  match (getCluster s cl).mmaRun with
  | some r => rKind r.recB == 3 && bit (rSlots r.recB) slot
  | none => false

/-- A row slot no row was poured into. -/
def emptySlot : RowSlot := ⟨false, 0, [], []⟩

def getRowSlot (s : State) (cl i : Nat) : RowSlot := tget (getCluster s cl).rows i emptySlot

def setRowSlot (s : State) (cl i : Nat) (r : RowSlot) : State :=
  modCluster s cl fun k => { k with rows := tset k.rows i r }

/-- The units of a row that have an uncorrectable error (R145). -/
def rowErrors (s : State) (pa : Nat) : List Nat := (List.range 128).filter fun u => physBad s (pa + 64 * u) 64

def rowuseOp (ra rb : XField) : Op Unit := do
  operands [ra, rb] .none false
  let hv ← rdX ra
  let sv ← rdX rb
  let h := hv.toNat
  let slot := sv.toNat
  let e ← needHandle h slot
  needFootprint e h slot
  let s ← look
  let cl := clusterOf s.cur.core
  let n := paBank e.pa
  let ch := bankChannel n
  stallIf (decide (s.cycle < tget (getCluster s cl).chanUsed ch 0))
  trapIf (decide (63 < slot) || slot / 4 != ch) (hazard 3 5 0 slot h)
  let b := getBank s cl n
  trapIf (match b.lost with
    | some l => l.1 == h && l.2.1 == s.cur.core
    | none => false) (hazard 1 0 0 slot h)
  trapIf (bankOfOther s b h) (hazard 2 0 0 slot h)
  trapIf (b.st != .open_) (hazard 0 0 0 slot h)
  trapIf (slotRead s cl slot) (hazard 4 0 0 slot h)
  change fun s =>
    let r := getRowSlot s cl slot
    let s1 := setRowSlot s cl slot { r with valid := false, coming := r.coming ++ [(s.nextFlight, b.row.getD 0, b.errs)] }
    let s2 := setBank s1 cl n { b with readEnd := s.cycle + 4 }
    let s3 := modCluster s2 cl fun k => { k with chanUsed := tset k.chanUsed ch (s.cycle + 16) }
    atCycle s3 (s.cycle + 20) (.rowTransfer cl slot (s.nextFlight * 64 + n))

/-- ROWUSE. -/
def execRowuse (ra rb : XField) (s : State) : Host.Outcome State Fault Refusal := runOp (rowuseOp ra rb) s

/-- The row is in its slot; a unit with an uncorrectable error poisons that unit of the slot, and such an error or a
correctable one that the channel found (`found`) closes the row (R145). -/
def rowArrives (found : Bool) (cl slot tag : Nat) (s : State) : State :=
  let r := getRowSlot s cl slot
  match r.coming.find? fun e => e.1 == tag / 64 with
  | none => s
  | some e =>
    let n := tag % 64
    let b := getBank s cl n
    let rest := r.coming.filter fun x => x.1 != e.1
    let s1 := setRowSlot s cl slot ⟨rest.isEmpty, e.2.1, e.2.2, rest⟩
    let s2 := if found && e.2.2.isEmpty then countError s1 (cl / 8) 2 else s1
    let s3 := if (e.2.2.isEmpty && !found) || b.st != .open_ then s2 else closeBank s2 cl n true
    mmaTry (moveBytes s3 b.region 8192) cl

/-- ROW_TRANSFER (R141, R145). The tag is the transfer's number times 64 plus the bank; whether the channel finds a
correctable error in it is chance (log 14). -/
def rowTransferStep (cl slot tag : Nat) (s : State) : State := rowArrives (Config.channelError (tag / 64)) cl slot tag s

def execRowTransfer (cluster slot tag : Nat) (s : State) : Host.Outcome State Fault Refusal :=
  always (rowTransferStep cluster slot tag) s

/-! ## ROWCLOSE (R142) -/

def rowcloseOp (ra : XField) : Op Unit := do
  operands [ra] .none false
  let hv ← rdX ra
  let h := hv.toNat
  let e ← needHandle h 0
  needFootprint e h 0
  let s ← look
  let cl := clusterOf s.cur.core
  let n := paBank e.pa
  let b := getBank s cl n
  trapIf (bankOfOther s b h) (hazard 2 0 0 0 h)
  change fun s =>
    if bankBusy b then askClose s cl n false
    else match b.lost with
      | some l => if l.1 == h && l.2.1 == s.cur.core then setBank s cl n { b with lost := none } else s
      | none => s

/-- ROWCLOSE. -/
def execRowclose (ra : XField) (s : State) : Host.Outcome State Fault Refusal := runOp (rowcloseOp ra) s

/-! ## ROWSTAT (R143) -/

/-- The status word of a handle's bank. -/
def rowStatus (s : State) (h : Nat) (e : Handle) : Word :=
  if !inFootprint s e then w64 (6 * 2 ^ 61)
  else
    let n := paBank e.pa
    let b := getBank s (clusterOf s.cur.core) n
    let own := b.handle == h && b.core == s.cur.core
    let pack := fun (st mine cyc : Nat) => w64 (st * 2 ^ 61 + mine * 2 ^ 60 + bankChannel n * 2 ^ 32 + cyc % 2 ^ 32)
    match b.lost with
    | some l => if l.1 == h && l.2.1 == s.cur.core then pack 4 0 l.2.2 else
        match b.st with
        | .idle => pack 0 0 0
        | .refresh => pack 1 0 b.until_
        | .opening => pack 2 (if own then 1 else 0) b.ready
        | .open_ => pack 3 (if own then 1 else 0) b.ready
        | .precharge => pack 5 0 b.until_
    | none =>
        match b.st with
        | .idle => pack 0 0 0
        | .refresh => pack 1 0 b.until_
        | .opening => pack 2 (if own then 1 else 0) b.ready
        | .open_ => pack 3 (if own then 1 else 0) b.ready
        | .precharge => pack 5 0 b.until_

/-- The task of the bundle, with the x register an answer is for in place of an item's number. -/
def regWho (s : State) (rd : XField) : Who := { curWho s with item := rd.toNat }

def rowstatOp (rd ra : XField) : Op Unit := do
  operands [ra] (.x rd) false
  let hv ← rdX ra
  let e ← needHandle hv.toNat 0
  change fun s =>
    if rd.toNat == 0 then s
    else later (modCur s fun t => setPending t (.x rd.toNat)) (.rowstatStatus (regWho s rd) (rowStatus s hv.toNat e))

/-- ROWSTAT. -/
def execRowstat (rd ra : XField) (s : State) : Host.Outcome State Fault Refusal := runOp (rowstatOp rd ra) s

/-- ROWSTAT_STATUS: the status arrives in the register the answer names. -/
def rowstatStatusStep (who : Who) (w : Word) (s : State) : State := deliverReg s who (.x who.item) (BitVec.ofNat 512 w.toNat)

def execRowstatStatus (who : Who) (w : Word) (s : State) : Host.Outcome State Fault Refusal :=
  always (rowstatStatusStep who w) s

/-! ## Bank events (R136, R137) -/

/-- The number of a list of bytes as bits of a row. -/
def rowOf (bs : List Byte) : BitVec 65536 := BitVec.ofNat 65536 (leNat bs)

/-- The bytes of a bank's row, each page from where its translation has it read (04 R102, R103). -/
def rowBytes (s : State) (b : Bank) : List Byte :=
  (b.locs.zipIdx).flatMap fun l => locRead s l.1 b.core b.region (b.va + 4096 * l.2) 4096

/-- BANK_READY: the row is open, decrypted with the key of its activation (R144), and will close by itself. -/
def bankReadyStep (cl n : Nat) (s : State) : State :=
  let b := getBank s cl n
  if b.st == .opening && b.ready == s.cycle then
    atCycle (setBank s cl n { b with st := .open_, until_ := 0, row := some (rowOf (rowBytes s b)), errs := rowErrors s b.rowPa })
      (s.cycle + 7000) (.autoClose cl n)
  else s

def execBankReady (cluster bank : Nat) (s : State) : Host.Outcome State Fault Refusal := always (bankReadyStep cluster bank) s

/-- A refresh of 700 cycles begins. -/
def startRefresh (s : State) (cl n : Nat) : State :=
  let b := getBank s cl n
  atCycle (setBank s cl n { b with st := .refresh, until_ := s.cycle + 700, refreshDue := false }) (s.cycle + 700)
    (.refreshEnd cl n)

/-- PRECHARGE_END: to REFRESH when one waits, else to IDLE. -/
def prechargeEndStep (cl n : Nat) (s : State) : State :=
  let b := getBank s cl n
  if b.st == .precharge && b.until_ == s.cycle then
    if b.refreshDue then startRefresh s cl n else setBank s cl n { b with st := .idle, until_ := 0 }
  else s

def execPrechargeEnd (cluster bank : Nat) (s : State) : Host.Outcome State Fault Refusal :=
  always (prechargeEndStep cluster bank) s

/-- REFRESH_WINDOW (R137): refresh starts in an IDLE bank and is postponed otherwise. -/
def refreshWindowStep (cl n : Nat) (s : State) : State :=
  let b := getBank s cl n
  match b.st with
  | .idle => startRefresh s cl n
  | .refresh => s
  | .opening => setBank s cl n { b with refreshDue := true }
  | .open_ => setBank s cl n { b with refreshDue := true }
  | .precharge => setBank s cl n { b with refreshDue := true }

def execRefreshWindow (cluster bank : Nat) (s : State) : Host.Outcome State Fault Refusal :=
  always (refreshWindowStep cluster bank) s

/-- REFRESH_END. -/
def refreshEndStep (cl n : Nat) (s : State) : State :=
  let b := getBank s cl n
  if b.st == .refresh && b.until_ == s.cycle then setBank s cl n { b with st := .idle, until_ := 0 } else s

def execRefreshEnd (cluster bank : Nat) (s : State) : Host.Outcome State Fault Refusal := always (refreshEndStep cluster bank) s

/-- AUTO_CLOSE (R145). -/
def autoCloseStep (cl n : Nat) (s : State) : State :=
  let b := getBank s cl n
  if b.st == .open_ && b.ready + 7000 == s.cycle then closeBank s cl n true else s

def execAutoClose (cluster bank : Nat) (s : State) : Host.Outcome State Fault Refusal := always (autoCloseStep cluster bank) s

/-- DEFERRED_CLOSE (R142, R145); at the ready cycle the row opens first. -/
def deferredCloseStep (cl n : Nat) (s0 : State) : State :=
  let s := bankReadyStep cl n s0
  let b := getBank s cl n
  match b.closeAsked with
  | some keep => if b.st == .open_ && decide (b.readEnd ≤ s.cycle) then closeBank s cl n keep else s
  | none => s

def execDeferredClose (cluster bank : Nat) (s : State) : Host.Outcome State Fault Refusal :=
  always (deferredCloseStep cluster bank) s

end Sys2Proof.Machine
end

