-- ==== Sys2Proof/Machine/Sponge.lean ====
section
/-! DEFINITION. SHAKE256 (FIPS 202), by which the spec forms measurements and memory keys (21 R377, R378). -/

namespace Sys2Proof.Machine

/-- Rotation offsets of lane x + 5y. -/
def laneShift : List Nat :=
  [0, 1, 62, 28, 27, 36, 44, 6, 55, 20, 3, 10, 43, 25, 39, 41, 45, 15, 21, 8, 18, 2, 61, 56, 14]

/-- The round constants. -/
def roundConst : List Word :=
  [0x1#64, 0x8082#64, 0x800000000000808A#64, 0x8000000080008000#64, 0x808B#64, 0x80000001#64,
   0x8000000080008081#64, 0x8000000000008009#64, 0x8A#64, 0x88#64, 0x80008009#64, 0x8000000A#64] ++
  [0x8000808B#64, 0x800000000000008B#64, 0x8000000000008089#64, 0x8000000000008003#64, 0x8000000000008002#64,
   0x8000000000000080#64, 0x800A#64, 0x800000008000000A#64, 0x8000000080008081#64, 0x8000000000008080#64,
   0x80000001#64, 0x8000000080008008#64]

def lane (a : List Word) (x y : Nat) : Word := a.getD (x % 5 + 5 * (y % 5)) 0#64

/-- Column parities and their effect. -/
def thetaStep (a : List Word) : List Word :=
  let c := (List.range 5).map fun x => (List.range 5).foldl (fun v y => v ^^^ lane a x y) 0#64
  let d := (List.range 5).map fun x => c.getD ((x + 4) % 5) 0#64 ^^^ (c.getD ((x + 1) % 5) 0#64).rotateLeft 1
  a.zipIdx.map fun e => e.1 ^^^ d.getD (e.2 % 5) 0#64

/-- Rotation and transposition: lane (X, Y) of the result comes from the lane (X + 3Y, X) before. -/
def rhoPiStep (a : List Word) : List Word :=
  (List.range 25).map fun i =>
    let x := (i % 5 + 3 * (i / 5)) % 5
    let y := i % 5
    (lane a x y).rotateLeft (laneShift.getD (x + 5 * y) 0)

def chiStep (a : List Word) : List Word :=
  (List.range 25).map fun i =>
    lane a (i % 5) (i / 5) ^^^ (~~~(lane a (i % 5 + 1) (i / 5)) &&& lane a (i % 5 + 2) (i / 5))

def keccakRound (a : List Word) (c : Word) : List Word :=
  match chiStep (rhoPiStep (thetaStep a)) with
  | h :: r => (h ^^^ c) :: r
  | [] => []

def keccak (a : List Word) : List Word := roundConst.foldl keccakRound a

/-- One block of 136 bytes absorbed. -/
def absorb (a : List Word) (block : List Byte) : List Word :=
  keccak (a.zipIdx.map fun e => e.1 ^^^ w64 (leNat ((block.drop (8 * e.2)).take 8)))

/-- The padded message in blocks. -/
def absorbAll : Nat → List Word → List Byte → List Word
  | 0, a, _ => a
  | n + 1, a, m => absorbAll n (absorb a (m.take 136)) (m.drop 136)

/-- The padding: 1111 after the message, then zeros, then the last bit of the block. -/
def shakePad (m : List Byte) : List Byte :=
  let n := 136 - m.length % 136
  m ++ (if n == 1 then [0x9F#8] else [0x1F#8] ++ List.replicate (n - 2) 0#8 ++ [0x80#8])

/-- The first 64 bytes of SHAKE256. -/
def shake256 (m : List Byte) : List Byte :=
  let p := shakePad m
  (absorbAll (p.length / 136) (List.replicate 25 0#64) p).take 8 |>.flatMap fun w => natLe 8 w.toNat

end Sys2Proof.Machine
end

