-- ==== Sys2Proof/Machine/Scaleout.lean ====
section
/-! DEFINITION. Scale-out ports (spec 22 R387, R388): frames, go-back-N, failing over, and chips that no port reaches. -/

namespace Sys2Proof.Machine

def getPort (s : State) (p : Nat) : Port := tget s.ports p Port.reset

def setPort (s : State) (p : Nat) (k : Port) : State := { s with ports := tset s.ports p k }

/-- Numbers of frames: 24 bits. -/
def fseqMod : Nat := 2 ^ 24

/-- The lowest-numbered up port whose far end is a chip (R387). -/
def portFor (s : State) (chip : Nat) : Option Nat :=
  (List.range 12).find? fun p => (getPort s p).up && (getPort s p).far == chip

/-- Whether a port's window takes another frame. -/
def portRoom (s : State) (p : Nat) : Bool := decide ((getPort s p).unacked.length < 1024)

def emit (s : State) (x : Sent) : State := { s with outbox := s.outbox ++ [x] }

/-- A frame leaves a port, and its timers start. -/
def sendFrame (s : State) (p : Nat) (ms : List Msg) : State :=
  let k := getPort s p
  let n := k.nextSeq
  let idle := k.unacked.isEmpty
  let k1 := { k with
    nextSeq := (n + 1) % fseqMod
    unacked := k.unacked ++ [(n, ms)]
    oldestAt := if idle then s.cycle else k.oldestAt
    lastAckAt := if idle then s.cycle else k.lastAckAt }
  let s1 := ms.foldl (fun s m => emit s (.chip k.far m)) (emit (setPort s p k1) (.frame p n))
  if idle then
    atCycle (atCycle s1 (s.cycle + 20000) (.retransmitTimeout p)) (s.cycle + 200000) (.portDown p)
  else s1

/-- The frames not yet acknowledged leave again, oldest first. -/
def resend (s : State) (p : Nat) : State :=
  (getPort s p).unacked.foldl (fun s f =>
    f.2.foldl (fun s m => emit s (.chip (getPort s p).far m)) (emit s (.frame p f.1))) s

/-- Frames before `aseq` are acknowledged: the number is that of the frame expected next. -/
def takeAck (s : State) (p aseq : Nat) : State :=
  let k := getPort s p
  let rest := k.unacked.filter fun f =>
    let d := (aseq + fseqMod - f.1) % fseqMod
    d == 0 || decide (1024 < d)
  if rest.length == k.unacked.length then s
  else
    let s1 := setPort s p { k with unacked := rest, oldestAt := s.cycle, lastAckAt := s.cycle }
    if rest.isEmpty then s1
    else atCycle (atCycle s1 (s.cycle + 20000) (.retransmitTimeout p)) (s.cycle + 200000) (.portDown p)

/-- The source of messages of another chip's core. -/
def farSrc (h : Word) : Nat := 131072 + hdrSchip h * 4096 + hdrScore h

/-- A message out of a frame: a repeat by its source core and SEQ is dropped (R388). -/
def deliverFar (s : State) (m : Msg) : State :=
  let key := (1 + hdrSchip m.hdr * 4096 + hdrScore m.hdr) * 4096 + hdrDcore m.hdr
  let exp := tget s.soSeq key 0
  if 2048 ≤ (hdrSeq m.hdr + 4096 - exp) % 4096 then s
  else
    let s1 := { s with soSeq := tset s.soSeq key ((hdrSeq m.hdr + 1) % 4096) }
    sendTo s1 (farSrc m.hdr) (msgPlace s1 m.hdr) (.messageArrive { m with counted := false })

/-- FRAME_RECEIVE (R387, R388): a frame of another EtherType is dropped and counted, one for another chip dropped (log 9), the
next one expected is delivered, any other is answered with a NAK. -/
def frameReceiveStep (f : FramePkt) (s : State) : State :=
  let k := getPort s f.port
  if !k.up then s
  else if f.ethertype != 0x9A17 then setPort s f.port { k with dropped := k.dropped + 1 }
  else if f.dstChip != s.chipId then s
  else
    let s1 := takeAck s f.port f.aseq
    let s2 := if f.nak then resend s1 f.port else s1
    if f.ackOnly then s2
    else if f.fseq == k.expect then
      let n := (k.expect + 1) % fseqMod
      let s3 := setPort s2 f.port { getPort s2 f.port with expect := n }
      emit (f.msgs.foldl deliverFar s3) (.frameAck f.port n false)
    else emit s2 (.frameAck f.port k.expect true)

def execFrameReceive (f : FramePkt) (s : State) : Host.Outcome State Fault Refusal := always (frameReceiveStep f) s

/-- RETRANSMIT_TIMEOUT (R388). -/
def retransmitStep (p : Nat) (s : State) : State :=
  let k := getPort s p
  if !k.up || k.unacked.isEmpty || decide (s.cycle < k.oldestAt + 20000) then s
  else
    let s1 := resend (setPort s p { k with oldestAt := s.cycle }) p
    atCycle s1 (s.cycle + 20000) (.retransmitTimeout p)

def execRetransmitTimeout (port : Nat) (s : State) : Host.Outcome State Fault Refusal := always (retransmitStep port) s

/-- A message waits for a port to its chip, ahead of every other that does. -/
def waitAhead (chip : Nat) (m : Msg) (s : State) : State :=
  takeNumber { s with flights :=
    ⟨s.nextFlight, some ⟨coreSrc (hdrScore m.hdr), .chip chip⟩, s.cycle, false, false, .messageArrive m⟩ :: s.flights }

/-- The unacknowledged frames of a port that went down leave, ahead of new traffic, by the next port that reaches their chip,
or their messages wait for one (R388). -/
def failOver (chip : Nat) (s : State) (frames : List (List Msg)) : State :=
  match portFor s chip with
  | some p => frames.foldl (fun s ms => sendFrame s p ms) s
  | none => frames.flatten.foldr (waitAhead chip) s

/-- PORT_DOWN (R388): a port unacknowledged for 200,000 cycles is down. -/
def portDownStep (p : Nat) (s : State) : State :=
  let k := getPort s p
  if !k.up || k.unacked.isEmpty || decide (s.cycle < k.lastAckAt + 200000) then s
  else
    let s1 := setPort s p { k with up := false, unacked := [] }
    failOver k.far s1 (k.unacked.map Prod.snd)

def execPortDown (port : Nat) (s : State) : Host.Outcome State Fault Refusal := always (portDownStep port) s

/-- PORT_TRAINING (R387): the port comes up and learns the chip at its far end, which is reached again; frames it still held
leave again. -/
def portTrainingStep (p chip : Nat) (s : State) : State :=
  if 12 ≤ p then s
  else
    let k := getPort s p
    let s1 := setPort s p { Port.reset with up := true, far := chip, dropped := k.dropped }
    failOver k.far { s1 with flights := s1.flights.filter fun f => f.act != .chipUnreachable chip } (k.unacked.map Prod.snd)

def execPortTraining (port chip : Nat) (s : State) : Host.Outcome State Fault Refusal :=
  always (portTrainingStep port chip) s

/-- Whether an item is a message waiting for a chip. -/
def waitsFor (chip : Nat) (f : Flight) : Bool :=
  match f.chan with
  | some c => c.dst == .chip chip
  | none => false

/-- CHIP_UNREACHABLE (R388): a chip that still no port reaches: the messages waiting for it are refused CHIP (15 R299). -/
def chipUnreachableStep (chip : Nat) (s : State) : State :=
  if (portFor s chip).isSome then s
  else
    let s1 := { s with flights := s.flights.filter fun f => !waitsFor chip f }
    (s.flights.filter (waitsFor chip)).foldl (fun s f =>
      match f.act with
      | .messageArrive m => sendTo s (farSrc m.hdr) (.core (hdrScore m.hdr)) (.bounce m 2)
      | _ => s) s1

def execChipUnreachable (chip : Nat) (s : State) : Host.Outcome State Fault Refusal := always (chipUnreachableStep chip) s

/-- A message for another chip: by a port with room; one that no port reaches waits, at most 2,000,000 cycles. -/
def toChip (s : State) (m : Msg) : State :=
  let chip := hdrDchip m.hdr
  let src := coreSrc (hdrScore m.hdr)
  match portFor s chip with
  | some p => if portRoom s p then sendFrame s p [m] else putBack s src (.chip chip) (.messageArrive m)
  | none =>
    let s1 := putBack s src (.chip chip) (.messageArrive m)
    if s.flights.any fun f => f.act == .chipUnreachable chip then s1
    else atCycle s1 (s.cycle + 2000000) (.chipUnreachable chip)

end Sys2Proof.Machine
end

