-- ==== Sys2Proof/Machine/Messages.lean ====
section
/-! DEFINITION. Messages (spec 15 R297-R306, R419, 16 R314, 19 R349, 21 R372, R373): acceptance, refusal and bounces, the
host's receive area, statuses, error notices, and the TAG forms. -/

namespace Sys2Proof.Machine

/-! ## The host's receive area (21 R373) -/

/-- Whether the receive ring refuses an entry: it is off or full. -/
def ringFull (s : State) : Bool :=
  let n := s.host.hrsize.toNat
  n == 0 || (s.host.hrtail.toNat + 1) % n == s.host.hrhead.toNat % n

/-- The physical address by which the package names a byte of host memory (04 R87). -/
def hostPa (a : Nat) : Nat := 2 ^ 49 + a

/-- An entry is written and HRTAIL advances; the interrupt is raised when none is outstanding. -/
def hostReceive (s : State) (m : Msg) : State :=
  let h := s.host
  let d := natLe 8 m.hdr.toNat ++ bytesOf (m.pay.take (hdrNpay m.hdr))
  let a := h.hrbase.toNat + 64 * h.hrtail.toNat
  let s1 := emit (emit (physWrite s (hostPa a) 0 d) (.hostData a d)) (.host m)
  let s2 := { s1 with host := { h with hrtail := w64 ((h.hrtail.toNat + 1) % h.hrsize.toNat) } }
  if h.intOut then s2
  else emit { s2 with host := { s2.host with intOut := true, interrupts := h.interrupts + 1 } } .interrupt

/-! ## Outcomes (15 R298, R301) -/

/-- The status word of an ACK message. -/
def statusWord (s : State) (h : Word) (result : Nat) : Word :=
  let chip := if ownChip s h then s.chipId else hdrDchip h
  w64 (hdrSeq h * 2 ^ 52 + result % 16 * 2 ^ 20 + chip % 256 * 2 ^ 12 + hdrDcore h)

/-- A message of this chip's core ends: its count, its place in the send buffer, its status; the outcome of another
chip's message leaves for that chip. -/
def msgEnded (s : State) (m : Msg) (result : Nat) : State :=
  if hdrSchip m.hdr != s.chipId then emit s (.chipStatus (hdrSchip m.hdr) m result)
  else if !m.counted then s
  else
    let s1 := modCore (endItem s m.who) m.who.core fun k => { k with msgsFlying := k.msgsFlying - 1 }
    if hdrAck m.hdr then later s1 (.messageStatus m.who (statusWord s m.hdr result)) else s1

/-- MESSAGE_STATUS (R301): the slot's q7 receives the word, wherever the task is; a message that another chip answers ends
with it. -/
def messageStatusStep (w : Who) (v : Word) (s0 : State) : State :=
  let s := if (itemOf s0 w).isSome then endSent s0 w else s0
  match locate s w.core w.slot w.gtid with
  | some a => modTask s a fun t => { t with q7 := t.q7 ++ [v], ackFlying := t.ackFlying - 1 }
  | none => s

def execMessageStatus (who : Who) (w : Word) (s : State) : Host.Outcome State Fault Refusal :=
  always (messageStatusStep who w) s

/-- A refused message goes back whole to its sender (R300). -/
def refuse (s : State) (m : Msg) (reason : Nat) : State :=
  if hdrSchip m.hdr != s.chipId then emit s (.chipStatus (hdrSchip m.hdr) m reason)
  else later s (.bounce m reason)

/-- An error notice in place of a core that does not answer; an ACK message's RESULT is 7 (R301). -/
def notAnswered (s : State) (m : Msg) (core : Nat) : State :=
  if hdrSchip m.hdr != s.chipId then
    emit (lostNotice s (foreignCore (hdrSchip m.hdr) (hdrScore m.hdr)) m.who 1 core) (.chipStatus (hdrSchip m.hdr) m 7)
  else msgEnded (lostNotice s (hdrScore m.hdr) m.who 1 core) m 7

/-! ## Acceptance (R299) -/

/-- Slots of a core's mailbox, bounces apart, that hold messages of the tag's region. -/
def quotaUsed (k : Core) (tag : Nat) : Nat :=
  (k.mbox.filter fun e => decide (e.1 < 240) && tagRegion k e.2.tag == tagRegion k tag).length

/-- The refusal reasons of a live compute or control core, in order. -/
def refusal (s : State) (core tag : Nat) : Option Nat :=
  let k := getCore s core
  let e := getTag k tag
  let quota := match getRegion s (tagRegion k tag) with
    | some r => r.mboxq
    | none => 240
  if !tagV e then some 3
  else if quota ≤ quotaUsed k tag then some 4
  else if tagMaxq e != 0 && decide (tagMaxq e ≤ tagWaiting e) then some 5
  else if (freeMbox k 0 240).isNone then some 6
  else none

/-- What forced replay makes of an arrival of a region at a core (20 R369). -/
def replayVerdict (s : State) (core rid : Nat) (h : Word) : Forced :=
  if 2 ≤ replayMode s (dieOf core) rid then forced s core h else .accept

/-- The acceptance is recorded, or meets the core's expected entry. -/
def replayMet (s : State) (core rid : Nat) (h : Word) : State :=
  match replayMode s (dieOf core) rid with
  | 0 => s
  | 1 => recordAccept s core rid h
  | _ => metEntry s core

/-- The message is accepted into the lowest free slot. -/
def acceptMessage (s : State) (core tag : Nat) (m : Msg) : State :=
  match freeMbox (getCore s core) 0 240 with
  | some i =>
    let rid := itemRegion s core tag m
    msgEnded (placeMessage (replayMet s core rid m.hdr) core i tag m) m 0
  | none => s

/-- An item that forced replay holds back stays in flight (20 R369). -/
def heldBack (s : State) (core src : Nat) (e : Event) : State := putBack (holdArrival s core) src (.core core) e

/-- The source an arrival travelled under. -/
def msgSrc (s : State) (m : Msg) : Nat :=
  if hdrSchip m.hdr == s.chipId then coreSrc (hdrScore m.hdr) else farSrc m.hdr

/-- An arrival at a live compute or control core; one that ends forced replay is the last of the messages then released. -/
def arriveAt (s : State) (core : Nat) (m : Msg) : State :=
  let tag := hdrTag m.hdr
  match refusal s core tag with
  | some r => refuse s m r
  | none =>
    let rid := itemRegion s core tag m
    match replayVerdict s core rid m.hdr with
    | .accept => acceptMessage s core tag m
    | .hold => heldBack s core (msgSrc s m) (.messageArrive m)
    | .diverge n => diverge (heldBack s core (msgSrc s m) (.messageArrive m)) core rid n (some m.hdr)

/-- An arrival at a die management core: its firmware takes START and KILL (16 R314). -/
def arriveMgmt (s : State) (m : Msg) : State :=
  match hdrTag m.hdr with
  | 0 => later (msgEnded s m 0) (.start m)
  | 1 => later (msgEnded s m 0) (.kill m)
  | _ => refuse s m 3

/-- An arrival at the host. -/
def arriveHost (s : State) (m : Msg) : State :=
  if ringFull s then refuse s m 6 else msgEnded (hostReceive s m) m 0

/-- MESSAGE_ARRIVE (R299). -/
def messageArriveStep (m : Msg) (s : State) : State :=
  let c := hdrDcore m.hdr
  if 3144 ≤ c && c != 4095 then refuse s m 1
  else if !ownChip s m.hdr then toChip s m
  else if c == 4095 then arriveHost s m
  else if !answering s c then notAnswered s m c
  else if isMgmt c then arriveMgmt s m
  else arriveAt s c m

def execMessageArrive (m : Msg) (s : State) : Host.Outcome State Fault Refusal := always (messageArriveStep m) s

/-- The header of a bounce (R300): the reason stands for the source. -/
def bounceHdr (h : Word) (reason : Nat) : Word := w64 (putBits h.toNat 43 32 (reason % 16))

/-- A bounce of an ordinary message at a live core, in its order under forced replay. -/
def bounceAt (s : State) (core : Nat) (m : Msg) (reason : Nat) : State :=
  let rid := itemRegion s core 0xFF m
  let h := bounceHdr m.hdr reason
  let take := fun (s : State) => placeBounce (replayMet (msgEnded s m reason) core rid h) core m reason
  if isMgmt core || !tagV (getTag (getCore s core) 0xFF) then msgEnded s m reason
  else match replayVerdict s core rid h with
    | .accept => take s
    | .hold => heldBack s core (coreSrc core) (.bounce m reason)
    | .diverge n => diverge (heldBack s core (coreSrc core) (.bounce m reason)) core rid n (some h)

/-- BOUNCE (R300): to the host's receive area, to a bounce slot, or to firmware that discards it. -/
def bounceStep (m : Msg) (reason : Nat) (s : State) : State :=
  let c := hdrScore m.hdr
  if c == 4095 then (if ringFull s then s else hostReceive s { m with hdr := bounceHdr m.hdr reason })
  else if !answering s c then msgEnded s m reason
  else bounceAt s c m reason

def execBounce (m : Msg) (reason : Nat) (s : State) : Host.Outcome State Fault Refusal := always (bounceStep m reason) s

/-! ## Error notices (19 R349) -/

/-- Whether what concerns a task's region is hidden from the host (21 R379). -/
def hiddenFromHost (s : State) (rid : Nat) : Bool :=
  match getRegion s rid with
  | some r => r.conf
  | none => false

/-- The notice as a message of the core that sent it. -/
def noticeMsg (s : State) (n : NoticePkt) : Msg :=
  let h := mkHdr 2 0xFE (if 8192 ≤ n.dst then foreignKey n.dst / 4096 else 0xFF) n.dst
  ⟨w64 (n.seq % 4096 * 2 ^ 52 + s.chipId % 256 * 2 ^ 44 + n.sender % 4096 * 2 ^ 32 + h.toNat), noticeWords n,
    hwWho n.sender n.who.gtid, false⟩

/-- A lost load or AMO ends with 0 and its task will park (R349). -/
def noticeEffect (s : State) (n : NoticePkt) : State := if n.kind == 2 || n.kind == 3 then failLoad s n.who else s

/-- ERROR_NOTICE: its effect on the task, and its message on tag 0xFE. -/
def errorNoticeStep (n : NoticePkt) (s : State) : State :=
  let s2 := noticeEffect s n
  let m := noticeMsg s2 n
  if 8192 ≤ n.dst then emit (soEnds s2 n.dst) (.chip (foreignKey n.dst / 4096) m)
  else if n.dst == 4095 then
    arriveHost s2 (if hiddenFromHost s n.region then { m with pay := [0, 0] } else m)
  else if !answering s2 n.dst || isMgmt n.dst then s2
  else arriveAt s2 n.dst m

def execErrorNotice (n : NoticePkt) (s : State) : Host.Outcome State Fault Refusal := always (errorNoticeStep n) s

/-! ## The TAG forms (15 R306) -/

/-- Whether a tag's entry is one of the task's region. -/
def ownTag (s : State) (tag : Nat) : Bool :=
  setOwnerOf s (tagRegion (getCore s s.cur.core) tag) == setOwnerOf s (curSlot s).region

/-- The tag numbers that raise ILLEGAL in a TAG form (R306). -/
def tagBad (s : State) (n : Nat) (change clear : Bool) : Bool :=
  decide (255 < n) ||
    (change && (!tagV (getTag (getCore s s.cur.core) n) || (decide (n < 0xFC) && !ownTag s n))) ||
    (clear && decide (0xFC ≤ n))

/-- The operands of a TAG form, its traps taken (R306, 18 R335), and its tag number. -/
def tagNumber (ra : XField) (d : Dst) (change clear : Bool) : Op Nat := do
  let s ← look
  operands [ra] d (tagBad s (peekX s ra).toNat change clear)
  let v ← rdX ra
  pure v.toNat

/-- TAGEN: waiting messages start. -/
def execTagen (ra : XField) (s : State) : Host.Outcome State Fault Refusal :=
  runOp (do
    let n ← tagNumber ra .none true false
    change fun s => startWaiting (putTag s s.cur.core n 30 30 1) s.cur.core n) s

/-- TAGDIS. -/
def execTagdis (ra : XField) (s : State) : Host.Outcome State Fault Refusal :=
  runOp (do
    let n ← tagNumber ra .none true false
    change fun s => putTag s s.cur.core n 30 30 0) s

/-- The lowest tag of the task's region with PEND. -/
def lowestPending (s : State) : Word :=
  match (List.range 256).find? fun n =>
      let e := getTag (getCore s s.cur.core) n
      tagV e && tagPend e && ownTag s n with
  | some n => w64 n
  | none => BitVec.allOnes 64

/-- TAGPEND. -/
def execTagpend (rd : XField) (s : State) : Host.Outcome State Fault Refusal :=
  runOp (do
    operands [] (.x rd) false
    let s ← look
    wrX rd 1 (lowestPending s)) s

/-- TAGCLR: the tag's waiting messages are discarded. -/
def execTagclr (rd ra : XField) (s : State) : Host.Outcome State Fault Refusal :=
  runOp (do
    let n ← tagNumber ra (.x rd) true true
    let s ← look
    let cnt := (tagQueue (getCore s s.cur.core) n).length
    change fun s => clearTag s s.cur.core n
    wrX rd 1 (w64 cnt)) s

/-- TAGTEST. -/
def execTagtest (rd ra : XField) (s : State) : Host.Outcome State Fault Refusal :=
  runOp (do
    let n ← tagNumber ra (.x rd) false false
    let s ← look
    wrX rd 1 (w64 (getTag (getCore s s.cur.core) n))) s

end Sys2Proof.Machine
end

