-- ==== Sys2Proof/Machine/Saving.lean ====
section
/-! DEFINITION. Saving, reading back and killing tasks (spec 18 R337-R342, 15 R293, 14 R288, 12 R238). -/

namespace Sys2Proof.Machine

/-! ## VALID of a context (18 R338) -/

/-- VALID of a context's image becomes 0. -/
def freeCtx (s : State) (rid i : Nat) : State :=
  match getRegion s rid with
  | none => s
  | some r =>
    match vaPlaces s r.ctxOwner (imageVa r i + 16) 8 with
    | none => s
    | some ps =>
      let w := leNat (placesRead s ps (some r.key))
      placesWrite s (some r.key) ps (natLe 8 (putBits w 63 63 0))

/-- The saved task of a context. -/
def savedAt (s : State) (rid ctx : Nat) : Option (Nat × SavedTask) :=
  match s.saved.findIdx? fun v => v.region == rid && v.ctx == ctx with
  | some n => (s.saved[n]?).map fun v => (n, v)
  | none => none

def dropSaved (s : State) (n : Nat) : State := { s with saved := s.saved.eraseIdx n }

/-! ## Saving (R338-R340) -/

/-- Why a task stopped, as its context records it. -/
def stopCause (t : Slot) : Nat :=
  match t.park with
  | .trapped tr => tr.cause
  | .fpEvent _ => 8
  | _ => 17

/-- Whether it stops in a switch-mark park, or before the one its FP event or trap stands before. -/
def stopSwPark (t : Slot) : Bool :=
  match t.park with
  | .switchMark => true
  | .fpEvent _ => t.nextSw
  | .trapped _ => t.nextSw
  | .halted => t.nextSw
  | _ => false

/-- The phase a stopped BARARW has arrived in (17 R329). -/
def stopPhase (t : Slot) : Option Nat :=
  match t.park with
  | .barrier _ _ _ _ w _ _ true => w
  | _ => t.barPhase

/-- The task as it is saved: every fixed-latency result written, its park ended. -/
def savedForm (now : Nat) (t : Slot) : Slot :=
  let t1 := landLate t (now + 64)
  { t1 with
    park := .none
    nextPc := 0
    nextSw := false
    swPark := stopSwPark t
    barPhase := stopPhase t
    stop := none
    stopRequeue := false
    stopper := none
    heldWords := none
    q9 := []
    q10 := if t.q10.length == 2 then [] else t.q10
    q12 := [] }

/-- A stopped waiter leaves its barrier's waiter set (17 R329). -/
def leaveBarrier (s : State) (c i : Nat) : State :=
  let t := getSlot s c i
  match t.park with
  | .barrier _ id owner addr _ _ _ _ => barCancel s ⟨c, i, t.gtid, id⟩ owner addr
  | _ => s

/-- What a stop ends besides the bundle: the trace leaves, a barrier's wait and a matrix instruction not accepted are
withdrawn, and the task's pair ends. -/
def withdrawTask (s : State) (c i : Nat) : State :=
  let t := getSlot s c i
  let s1 := dropMma (leaveBarrier (deliverPushes s c i) c i) ⟨c, i, t.gtid, 0⟩
  if inPair s1 c i then dropPair s1 c else s1

/-- A task that a halt of its region stops where no context is free stays in its slot until a TSYS form acts on it (12
R250). -/
def haltInSlot (s : State) (c i : Nat) : State :=
  let f := savedForm s.cycle (getSlot s c i)
  setSlot (withdrawTask s c i) c i { f with park := .halted, nextSw := f.swPark, swPark := false }

/-- A task of a slot is saved into the lowest free context and its slot freed; none without a free context. -/
def saveTask (s : State) (c i cause : Nat) (requeue : Bool) : Option State :=
  let t := getSlot s c i
  match getRegion s t.region with
  | none => none
  | some r =>
    match freeContext s r with
    | none => none
    | some n =>
      let s2 := withdrawTask s c i
      let f := savedForm s.cycle t
      let s3 := ctxWrite s2 r n (imageWords f true c cause) (queueWords f)
      let s4 := setSlot { s3 with saved := s3.saved ++ [⟨n, t.region, cause, c, requeue, f⟩] } c i Slot.empty
      some (if requeue then enqueue s4 c ⟨t.gtid, t.region, t.cls, t.origin, .saved n, s.cycle, none⟩ else s4)

/-- CONTEXT_READ_BACK (15 R293, R340): the task stands in its slot as its context gives it, and VALID is 0 again. -/
def contextReadBackStep (core slot ctx : Nat) (s : State) : State :=
  let t0 := getSlot s core slot
  match savedAt s t0.region ctx with
  | none => s
  | some (n, v) =>
    if t0.park != .readBack ctx || v.rest.gtid != t0.gtid then s
    else
      let t := savedSlot s v
      let s1 := freeCtx (dropSaved s n) t0.region ctx
      setSlot s1 core slot { t with
        held := true
        notBefore := s.cycle
        park := if t.swPark then .switchMark else .none
        stop := t0.stop
        stopRequeue := t0.stopRequeue
        stopper := t0.stopper }

def execContextReadBack (core slot ctx : Nat) (s : State) : Host.Outcome State Fault Refusal :=
  always (contextReadBackStep core slot ctx) s

/-! ## Killing (R342) -/

/-- Whether a killed task's pair is pushed back into its core's bag (14 R288): its region and its core go on. -/
def goesOn (s : State) (core rid : Nat) : Bool :=
  liveCore s core && (match getRegion s rid with
    | some r => !r.dying
    | none => false)

/-- The task of a slot ends as TAIL ends one, without a node commit. -/
def killSlot (s : State) (c i : Nat) : State :=
  let t := getSlot s c i
  retireTask (leaveBarrier (dropNodes s c i (goesOn s c t.region)) c i) c i

/-- Whether a kill of a task must wait for the retirement tracker (12 R238). -/
def killWaits (s : State) (c : Nat) (t : Slot) : Bool := decide (0 < oscOf t) && trackerFull s c

/-- Ends a task that holds no slot, standing for the moment in a place beside the slots of core c. -/
def killAside (s : State) (c : Nat) (t : Slot) : State :=
  modCore (killSlot (setSlot s c 8 t) c 8) c fun k => { k with slots := tdel k.slots 8 }

/-- The run queues without a task. -/
def withoutTask (s : State) (g : Word) : State :=
  { s with cores := s.cores.map fun e =>
      (e.1, { e.2 with
        runq := e.2.runq.filter fun q => q.gtid != g
        runHold := e.2.runHold.filter fun q => q.gtid != g
        slots := e.2.slots.map fun x =>
          (x.1, match x.2.park with
            | .readBack _ => if x.2.gtid == g then Slot.empty else x.2
            | _ => x.2) }) }

/-- A class that has become empty starts over in the lottery (15 R308). -/
def restStarve (s : State) (core : Nat) : State :=
  modCore s core fun k => { k with starve := (List.range 4).map fun j =>
    (j, if (candidate s k j).isNone then 0 else tget k.starve j 0) }

/-- A task leaves every run queue; work that waited for room enters it (15 R291, R305). -/
def unqueue (s : State) (g : Word) : State :=
  (s.cores.filter fun e => (e.2.runq ++ e.2.runHold).any fun q => q.gtid == g).foldl
    (fun s e => refillQueue (restStarve s e.1) e.1) (withoutTask s g)

/-- A saved task ends; its context is free again. -/
def killSaved (s : State) (n : Nat) (v : SavedTask) : State :=
  let t := savedSlot s v
  killAside (freeCtx (dropSaved (unqueue s t.gtid) n) v.region v.ctx) v.core t

/-- A task that never ran ends in the run queue. -/
def killQueued (s : State) (core : Nat) (q : QTask) : State :=
  match q.from_ with
  | .fresh pc x3 x4 =>
    killAside (unqueue s q.gtid) core (originSlot s core (freshSlot s.cycle q pc x3 x4) x3)
  | .saved ctx =>
    match savedAt s q.region ctx with
    | some (n, v) => killSaved s n v
    | none => unqueue s q.gtid

end Sys2Proof.Machine
end

