-- ==== Sys2Proof/Machine/Pairs.lean ====
section
/-! DEFINITION. Checked pairs (spec 19 R352-R358): fingerprints, PAIRON and PAIROFF, the close of an interval, the exchange,
and the return to a checkpoint. -/

namespace Sys2Proof.Machine

/-! ## Fingerprints (R354) -/

def fedBytes (x : Fed) : List Byte :=
  match x with
  | .data bs => bs
  | .coming _ => []

/-- CRC-64 over what a member's interval was fed with. -/
def fingerprint (l : List Fed) : BitVec 64 := crcBytes 0 (l.flatMap fedBytes)

/-- The bytes of a register's value. -/
def regBytes (t : Slot) (d : RegId) : List Byte :=
  match d with
  | .x n => natLe 8 (getX t n).toNat
  | .f n => natLe 8 (getF t n).toNat
  | .v n => natLe 64 (getV t n).toNat
  | .p n => [if getP t n then 1#8 else 0#8]
  | .none => []

/-- A pending register that has its value by now feeds it in its place. -/
def fedNow (t : Slot) (x : Fed) : Fed :=
  match x with
  | .data _ => x
  | .coming d => if isPending t d then x else .data (regBytes t d)

/-! ## The pair of a core -/

def setPair (s : State) (core : Nat) (p : Pair) : State := modCore s core fun k => { k with pair := some p }

/-- A new interval begins from these checkpoints. -/
def freshInterval (p : Pair) : Pair :=
  { p with
    undo := []
    gate := []
    fedSelf := []
    fedPartner := []
    bundles := 0
    serial := false
    agreed := false
    retried := false
    closing := false
    exchange := none }

/-- Whether the open interval has nothing in it. -/
def intervalEmpty (p : Pair) : Bool := p.bundles == 0 && p.undo.isEmpty && p.gate.isEmpty

/-- The neighbour to the west (0) or east (1) in the cluster's row; none at its edge. -/
def pairNeighbour (core side : Nat) : Option Nat :=
  let x := inCluster core % 8
  if side == 0 then (if x == 0 then none else some (core - 1)) else if x == 7 then none else some (core + 1)

/-- The partner's copy of the task: its registers. It stands for no task of its own. -/
def partnerSlotOf (t : Slot) : Slot := { t with gtid := 0, out := [], park := .none, claimBuf := none }

/-- PAIRON's status and effect (R352): the partner's slot is taken; it receives the registers once the bundle has ended. -/
def pairUp (s : State) (side : Nat) : Nat × State :=
  let c := s.cur.core
  match pairNeighbour c side with
  | none => (2, s)
  | some n =>
    let k := getCore s c
    let m := getCore s n
    if !liveCore s n then (2, s)
    else if !gangFree k || !gangFree m then (1, s)
    else match freeSlot s.cycle m with
      | none => (1, s)
      | some j =>
        let t := curSlot s
        let p : Pair := freshInterval ⟨n, s.cur.slot, j, t, t, [], [], [], [], [], 0, false, false, false, false, none⟩
        let s1 := setPair (setSlot s n j (partnerSlotOf t)) c p
        (0, modCore s1 n fun k => { k with pairedTo := some c })

/-- The partner's copy of the registers as PAIRON's bundle left them, its status and its A-word's results among them. -/
def pairCopy (s : State) (core i : Nat) : State :=
  match (getCore s core).pair with
  | some p => if p.slot == i then setSlot s p.partner p.partnerSlot (partnerSlotOf (getSlot s core i)) else s
  | none => s

/-- A pair form's status, written when its bundle has issued. -/
def pairStatus (rd : XField) (v : Nat) (s : State) : State := writeLate s (.x rd.toNat) 1 (BitVec.ofNat 512 v)

/-- PAIRON. -/
def execPairon (rd ra : XField) (s : State) : Host.Outcome State Fault Refusal :=
  runOp (do
    let c := s.cur.core
    operands [ra] (.x rd) (!isCompute c || isMember (getCore s c) c s.cur.slot || decide (1 < (peekX s ra).toNat))
    let v ← rdX ra
    change fun s =>
      let (st, s1) := pairUp s v.toNat
      pairStatus rd st s1) s

/-- PAIROFF: the pair ends. -/
def execPairoff (rd : XField) (s : State) : Host.Outcome State Fault Refusal :=
  runOp (do
    let c := s.cur.core
    operands [] (.x rd) (!isCompute c || isMember (getCore s c) c s.cur.slot)
    change fun s =>
      if inPair s c s.cur.slot then pairStatus rd 0 (dropPair s c) else pairStatus rd 3 s) s

/-! ## Registers that the members share: results that arrive once for both (R353) -/

/-- The partner's own result for a register, where it differs in kind from what arrived: its divider's. -/
def twinResult (tw : List (RegId × Word)) (d : RegId) : Option Word := (tw.find? fun e => e.1 == d).map fun e => e.2

/-- A register whose result has arrived at the issuing core takes its value, or the member's own. -/
def syncReg (tw : List (RegId × Word)) (t : Slot) (u : Slot) (d : RegId) : Slot :=
  if isPending u d && !isPending t d then
    match d with
    | .x n => clearPending (putReg u d (BitVec.ofNat 512 ((twinResult tw d).getD (getX t n)).toNat)) d
    | .f n => clearPending (putReg u d (BitVec.ofNat 512 ((twinResult tw d).getD (getF t n)).toNat)) d
    | .v n => clearPending (putReg u d (getV t n)) d
    | .p _ => u
    | .none => u
  else u

/-- A slot with every arrived result. -/
def syncSlot (tw : List (RegId × Word)) (t u : Slot) : Slot :=
  (u.pendX.map RegId.x ++ u.pendF.map RegId.f ++ u.pendV.map RegId.v).foldl (syncReg tw t) u

/-- The partner, both checkpoints and the fingerprints take every result that has arrived since the last bundle. -/
def syncPair (s : State) (core : Nat) : State :=
  match (getCore s core).pair with
  | none => s
  | some p =>
    let t := getSlot s core p.slot
    let u := syncSlot p.twin t (getSlot s p.partner p.partnerSlot)
    setSlot (setPair s core { p with
      ckSelf := syncSlot [] t p.ckSelf
      ckPartner := syncSlot p.twin t p.ckPartner
      fedSelf := p.fedSelf.map (fedNow t)
      fedPartner := p.fedPartner.map (fedNow u)
      twin := p.twin.filter fun e => isPending t e.1 }) p.partner p.partnerSlot u

/-! ## Closing (R354) -/

/-- Whether a stop asked of the pair's task waits for the open interval to close (R358). -/
def stopCloses (p : Pair) (t : Slot) : Bool := t.stop.isSome && !intervalEmpty p

/-- Whether the interval may close now: a trigger has come, no fixed-latency result is in flight and no bit is pending. -/
def canClose (s : State) (core : Nat) : Bool :=
  match (getCore s core).pair with
  | none => false
  | some p =>
    let t := getSlot s core p.slot
    (p.closing || stopCloses p t) && p.exchange.isNone && t.late.isEmpty && settled t

/-- INTERVAL_CLOSE: the fingerprints are exchanged in 8 cycles, during which the pair does not issue. -/
def intervalCloseStep (core : Nat) (s0 : State) : State :=
  let s := syncPair s0 core
  if !canClose s core then s0
  else match (getCore s core).pair with
    | none => s0
    | some p => atCycle (setPair s core { p with exchange := some (s.cycle + 8) }) (s.cycle + 8) (.fingerprintExchange core)

def execIntervalClose (core : Nat) (s : State) : Host.Outcome State Fault Refusal := always (intervalCloseStep core) s

/-- A gated message takes its SEQ as it leaves (15 R297). -/
def renumberMsg (s : State) (core : Nat) (m : Msg) : State × Msg :=
  let (n, s1) := nextSeq s core m.hdr
  (s1, { m with hdr := w64 (n * 2 ^ 52 + bits m.hdr.toNat 51 0) })

/-- A gated item leaves under its number, or waits behind what its core holds back for its destination (12 R244). -/
def leaveGate (core : Nat) (g : Word) (s : State) (f : Flight) : State :=
  match f.chan with
  | none => launchAs s f.id none f.due f.timed f.act
  | some ch =>
    match f.act with
    | .messageArrive m =>
      let (s1, m') := renumberMsg s core m
      if heldFor s core ch.dst then keepInside s1 core ⟨f.id, ch.src, ch.dst, g, [], .messageArrive m'⟩
      else launchAs s1 f.id f.chan f.due f.timed (.messageArrive m')
    | e =>
      if (getCore s core).heldRel.any fun h => h.src == ch.src && h.dst == ch.dst then
        keepInside s core ⟨f.id, ch.src, ch.dst, g, [], e⟩
      else sendAs s f.id ch.src ch.dst e

/-- The gate's items leave in order. -/
def openGate (s : State) (core : Nat) (g : Word) (fs : List Flight) : State := fs.foldl (leaveGate core g) s

/-- The old values of the undo log, newest entry first, return to the issuing core's scratchpad. -/
def applyUndo (s : State) (core : Nat) (us : List (Nat × Word)) : State :=
  modCore s core fun k => { k with sp := us.reverse.foldl (fun m e => mwrite m e.1 8 e.2.toNat) k.sp }

/-- The issuing slot at its checkpoint: items acknowledged since stay ended, and what was asked of the task stands. -/
def restoredSlot (ck now : Slot) : Slot :=
  { ck with
    out := ck.out.filter fun o => now.out.any fun q => q.id == o.id
    nextItem := now.nextItem
    stop := now.stop
    stopRequeue := now.stopRequeue
    stopper := now.stopper
    trapNext := now.trapNext }

/-- Messages of an interval that is given up leave their send buffers (R356). -/
def freeBuffers (s : State) (core : Nat) (fs : List Flight) : State :=
  let n := (fs.filter fun f =>
    match f.act with
    | .messageArrive m => m.counted
    | _ => false).length
  modCore s core fun k => { k with msgsFlying := k.msgsFlying - n }

/-- Both members return to the checkpoint of the open interval: the undo log is applied, the gate discarded (R356). -/
def restorePair (s0 : State) (core : Nat) : State :=
  let s := syncPair s0 core
  match (getCore s core).pair with
  | none => s
  | some p =>
    let t := getSlot s core p.slot
    let lost := t.out.filter fun o => !(p.ckSelf.out.any fun q => q.id == o.id)
    let s1 := roscAdd s t.region (-((lost.filter fun o => countedKind o.kind).length : Int))
    let s2 := { s1 with copies := s1.copies.filter fun e =>
      !(e.2.who.gtid == t.gtid && e.2.who.core == core && lost.any fun o => o.id == e.2.who.item) }
    let s3 := dropMma (applyUndo s2 core p.undo) ⟨core, p.slot, t.gtid, 0⟩
    let s4 := setSlot (setSlot (freeBuffers s3 core p.gate) core p.slot (restoredSlot p.ckSelf t)) p.partner p.partnerSlot p.ckPartner
    setPair s4 core (freshInterval p)

/-- A second disagreement (R356): the task is saved with CAUSE 15, or killed without a free context, the control core
receives the PAIR notice, and both cores are sealed. -/
def pairFails (s : State) (core : Nat) (p : Pair) : State :=
  let s1 := restorePair s core
  let t := getSlot s1 core p.slot
  let note := fun (s : State) (d : Nat) => sendNotice s core p.slot t.gtid t.pc ⟨15, d, 0, 0⟩
  let s2 := match saveTask s1 core p.slot 15 false with
    | some s2 => note s2 0
    | none =>
      let s2 := note s1 3
      modRegion (if killWaits s2 core t then modSlot s2 core p.slot fun t => { t with park := .halted, stop := some true }
        else killSlot s2 core p.slot) t.region fun r =>
        { r with killCause := if r.killCause.isSome then r.killCause else some (7, 7) }
  atCycle (atCycle s2 s2.cycle (.coreSeal core)) s2.cycle (.coreSeal p.partner)

/-- FINGERPRINT_EXCHANGE (R354, R356): on agreement the gate opens and a new interval begins; on the first disagreement the
interval runs again. -/
def fingerprintStep (core : Nat) (s : State) : State :=
  match (getCore s core).pair with
  | none => s
  | some p =>
    if p.exchange.isNone then s
    else if fingerprint p.fedSelf == fingerprint p.fedPartner then
      openGate (setPair s core { freshInterval p with agreed := p.serial }) core (getSlot s core p.slot).gtid p.gate
    else
      let s1 := countError s (dieOf core) 5
      if p.retried then pairFails s1 core p
      else
        let s2 := restorePair s1 core
        match (getCore s2 core).pair with
        | some q => setPair s2 core { q with retried := true }
        | none => s2

def execFingerprintExchange (core : Nat) (s : State) : Host.Outcome State Fault Refusal :=
  always (fingerprintStep core) s

end Sys2Proof.Machine
end

