-- ==== Sys2Proof/Machine/Sealing.lean ====
section
/-! DEFINITION. Sealing a core and scrubbing (spec 19 R348-R351). -/

namespace Sys2Proof.Machine

/-! ## The sealed core's traffic and state (R348) -/

/-- A final STATUS and CAUSE, where no earlier fault has fixed them (16 R315). -/
def fixCause (s : State) (rid st cause : Nat) : State :=
  modRegion s rid fun r => { r with killCause := if r.killCause.isSome then r.killCause else some (st, cause) }

/-- The sender of an accepted message learns that the core is lost; a bounce has no other sender. -/
def senderNotice (core : Nat) (s : State) (i : Nat) : State :=
  let h := mboxHdr s core i
  let dst := if hdrSchip h == s.chipId then hdrScore h else foreignCore (hdrSchip h) (hdrScore h)
  if 240 ≤ i then s else lostNotice s dst (hwWho dst 0) 1 core

/-- Messages accepted and not yet started are answered with error notices (R348, step 2). -/
def dropWaiting (s : State) (core : Nat) : State :=
  let k := getCore s core
  let slots := k.tagWait.flatMap fun e => e.2
  let s1 := slots.foldl (senderNotice core) s
  modCore s1 core fun k => { k with mbox := [], tagWait := [], tags := [], heldBounces := [] }

/-- Waiters parked at the core resume with GONE (17 R325, R330). -/
def goneWaiters (s : State) (core : Nat) : State :=
  let s1 := ((getCore s core).names.flatMap fun e => e.2.waiters).foldl (fun s x =>
    barAnswer s core x.who (barWord 7 0 0 false)) s
  modCore s1 core fun k => { k with names := [] }

/-- A claimed node is released to its owner, which pushes its pair (14 R288). -/
def releaseNode (s : State) (core i : Nat) (b : ClaimBuf) (which : Nat) (w p : Word) : State :=
  nodeSend s (controlOf core) (nodeOwner (wIdx w)) (.release ⟨core, i, b.region, which, w, p⟩)

/-- The claims of a core's node unit are released; the pairs of its bag go to the die's ready queue. -/
def dropClaims (s : State) (core : Nat) : State :=
  let k := getCore s core
  let s1 := k.claimBufs.foldl (fun s e =>
    let b := e.2
    let (l, h) := if lowFirst b.first b.second then (b.first, b.second) else (b.second, b.first)
    let s1 := if 1 ≤ b.got then releaseNode s core e.1 b 0 l h else s
    if 2 ≤ b.got then releaseNode s1 core e.1 b 1 h l else s1) s
  let s2 := k.bag.foldl (fun s e => later s (.spawnPlace (dieOf core) none ⟨e.1, .pair e.2.1 e.2.2⟩)) s1
  modCore s2 core fun k => { k with bag := [], claimBufs := [] }

/-! ## Its tasks (R350) -/

/-- Whether a task's effects have stayed inside it, so that it may start again: a spawn or region-start task. -/
def restartable (t : Slot) : Bool :=
  !t.everCounted && !t.everOutside &&
    (match t.origin with
     | .spawn => true
     | .region => true
     | .pair _ => false
     | .message _ _ => false)

/-- The task starts again from its start state, with its GTID, through its die's ready queue. -/
def restart (s : State) (core : Nat) (t : Slot) : State :=
  later s (.spawnPlace (dieOf core) none
    ⟨t.region, .spawn t.gtid t.arg (t.firstPc.toNat / 4) t.cls (dieOf core) t.enqueuedAt false⟩)

/-- A killed message task's sender receives an error notice. -/
def killedNotice (s : State) (core : Nat) (t : Slot) : State :=
  match t.origin with
  | .message m _ => senderNotice core s m
  | .pair _ => s
  | .spawn => s
  | .region => s

/-- The task's slot is emptied without its end being counted. -/
def vacate (s : State) (core i : Nat) : State :=
  let s1 := dropMma (leaveBarrier (deliverPushes s core i) core i) ⟨core, i, (getSlot s core i).gtid, 0⟩
  setSlot s1 core i Slot.empty

/-- One task of a sealed core; a kill that finds the retirement tracker full waits (12 R238). -/
def sealTask (core : Nat) (s : State) (i : Nat) : State :=
  let t := getSlot s core i
  if !t.held then s
  else match t.park with
    | .readBack _ => setSlot s core i Slot.empty
    | _ =>
      if restartable t then restart (vacate s core i) core t
      else
        let s1 := killedNotice s core t
        let s2 := modSlot s1 core i fun t => { t with claimBuf := none, staged := [], reserved := [], heldWords := none }
        let s3 := if killWaits s2 core t then modSlot s2 core i fun t => { t with park := .halted, stop := some true }
          else killSlot s2 core i
        match t.origin with
        | .pair _ => s3
        | .message _ _ => s3
        | .spawn => fixCause s3 t.region 7 7
        | .region => fixCause s3 t.region 7 7

/-- A task that waited in the sealed core's run queue; a saved one stays saved. -/
def sealQueued (core : Nat) (s : State) (q : QTask) : State :=
  match q.from_ with
  | .saved _ => s
  | .fresh pc x3 x4 => sealTask core (setSlot s core 8 (originSlot s core (freshSlot s.cycle q pc x3 x4) x3)) 8

/-- The pair of a sealed core ends (R358): the open interval is rolled back; the task of a sealed partner parks with trap
PAIR, detail 2. -/
def sealPair (s : State) (core : Nat) : State :=
  match (getCore s core).pair, (getCore s core).pairedTo with
  | some _, _ => dropPair (restorePair s core) core
  | none, some o =>
    match (getCore s o).pair with
    | some p => parkTrapped (dropPair (restorePair s o) o) o p.slot ⟨15, 2, 0, 0⟩
    | none => s
  | none, none => s

/-- The gang of a sealed core breaks down, the sealed member as one that trapped (09 R208). -/
def sealGang (s : State) (core : Nat) : State :=
  match (getCore s core).gang with
  | some g => breakGang s g [core]
  | none => s

/-- The die's core table is rebuilt (16 R321). -/
def rebuildTable (s : State) (d : Nat) : State :=
  let l := liveCores s d
  modDie s d fun k => { k with table := l, live := l.length, gen := (k.gen + 1) % 65536 }

/-- CORE_SEAL (R348, R350): the steps in their order. -/
def coreSealStep (core : Nat) (s : State) : State :=
  if 3136 ≤ core || (getDie s (dieOf core)).excluded then s
  else
    let s0 := sealPair (sealGang (countError s (dieOf core) 6) core) core
    let s1 := modCore s0 core fun k => { k with sealed := true }
    let s2 := settleGuards (goneWaiters (dropWaiting s1 core) core) core
    let s3 := redirectAtoms (adoptHomes (dropRows s2 (clusterOf core) fun b => b.core == core) (dieOf core) core) core
    let s4 := rebuildTable s3 (dieOf core)
    let queued := (getCore s4 core).runq ++ (getCore s4 core).runHold
    let s5 := queued.foldl (sealQueued core) (modCore s4 core fun k => { k with runq := [], runHold := [] })
    let s6 := (List.range 8).foldl (sealTask core) s5
    modCore (dropClaims s6 core) core fun k => { k with
      sp := []
      slots := k.slots.filter fun e => e.2.held && e.2.stop == some true
      poison := []
      lineOwner := [] }

def execCoreSeal (core : Nat) (s : State) : Host.Outcome State Fault Refusal := always (coreSealStep core) s

/-! ## Scrubbing (R351) -/

/-- SRAM_SCRUB: an error found in a scratchpad line is corrected and counted, or poisons the line; the control core learns
of a line some region owns. -/
def sramScrubStep (core addr : Nat) (bad : Bool) (s : State) : State :=
  let line := addr / 64
  if !bad then countError s (dieOf core) 0
  else
    let s1 := modCore (countError s (dieOf core) 1) core fun k => { k with poison := addNat k.poison line }
    let owner := tget (getCore s core).lineOwner line 0
    if owner == 0 then s1
    else sendErrorNotice s1 core ⟨controlOf core, noWho core, 8, 4, core, owner, w64 (64 * line), 0, 0⟩

def execSramScrub (core addr : Nat) (bad : Bool) (s : State) : Host.Outcome State Fault Refusal :=
  always (sramScrubStep core addr bad) s

/-- DRAM_SCRUB: an error found in a DRAM unit is corrected and counted, or poisons the unit and closes the bank's row. -/
def dramScrubStep (pa : Nat) (bad : Bool) (s : State) : State :=
  if !inDram s pa then s
  else if !bad then countError s (paDie pa) 2
  else
    let s1 := countError { s with dramPoison := addNat s.dramPoison (pa / 64) } (paDie pa) 3
    let cl := paCluster pa
    if bankBusy (getBank s1 cl (paBank pa)) then askClose s1 cl (paBank pa) true else s1

def execDramScrub (pa : Nat) (bad : Bool) (s : State) : Host.Outcome State Fault Refusal := always (dramScrubStep pa bad) s

end Sys2Proof.Machine
end

