-- ==== Sys2Proof/Machine/Stops.lean ====
section
/-! DEFINITION. The TSYS forms and the stopping of tasks (spec 18 R337, R341, R342, R346, 15 R295). -/

namespace Sys2Proof.Machine

/-! ## Targets (R341) -/

/-- Where a form's target is. -/
inductive Target where
  | slot (core i : Nat)
  | queued (core : Nat) (q : QTask)
  | saved (n : Nat) (v : SavedTask)
deriving DecidableEq, Repr

/-- Whether a core lies in the scope of a control or die management core. -/
def inTsysScope (by_ c : Nat) : Bool :=
  if isMgmt by_ then dieOf c == dieOf by_ && !isMgmt c else !isMgmt c && clusterOf c == clusterOf by_

/-- The target of a GTID in scope; a saved task is one wherever it stands in a run queue (R342). -/
def findTarget (s : State) (by_ : Nat) (g : Word) : Option Target :=
  let cs := s.cores.filter fun e => inTsysScope by_ e.1
  match cs.findSome? fun e => (slotOf e.2 g).map fun i => Target.slot e.1 i with
  | some t => some t
  | none =>
    match s.saved.findIdx? fun v => v.rest.gtid == g && inTsysScope by_ v.core with
    | some n => (s.saved[n]?).map fun v => .saved n v
    | none =>
      (cs.findSome? fun e => ((e.2.runq ++ e.2.runHold).find? fun q => q.gtid == g).map fun q => Target.queued e.1 q).map fun t =>
        match s.saved.findIdx? fun v => v.rest.gtid == g with
        | some n => match s.saved[n]? with
          | some v => .saved n v
          | none => t
        | none => t

/-- A slot's task is stopped: trapped, parked after an FP event, or stopped by a halt where it stands (R342, R250). -/
def isStopped (t : Slot) : Bool :=
  match t.park with
  | .trapped _ => true
  | .fpEvent _ => true
  | .halted => true
  | _ => false

/-- Whether a saved task stands in a run queue. -/
def isQueued (s : State) (g : Word) : Bool :=
  s.cores.any fun e => (e.2.runq ++ e.2.runHold).any (fun q => q.gtid == g) || (List.range 8).any fun i =>
    let t := coreSlot e.2 i
    t.held && t.gtid == g && (match t.park with
      | .readBack _ => true
      | _ => false)

/-- Size of the bundle at a pc of a core (03 R57). -/
def bundleSize (s : State) (core : Nat) (pc : Word) : Nat :=
  if bit (mread (getCluster s (clusterOf core)).prog pc.toNat 4) 31 then 4 else 8

/-- The status of a form goes to its issuer, which parks until then. -/
def tsysAnswer (rd : XField) (st : Nat) (s : State) : State :=
  let (s1, who) := parkAnswer rd s
  later s1 (.barrierAnswer who (w64 st))

/-- Operand checks of every form: on a compute core it is illegal. -/
def tsysOperands (rd : XField) (srcs : List XField) : Op Unit := do
  let s ← look
  operands srcs (.x rd) (isCompute s.cur.core)

/-- The local buffer of TCTXRD and TCTXWR. -/
def tsysBuffer (rb : XField) : Op Nat := do
  let a ← rdChecked rb
  trapIf (a.toNat % 64 != 0) (tMisalign a)
  trapIf (decide (Config.mailboxBase < a.toNat + 3328)) (tRange 0 a)
  pure a.toNat

/-- A form waits behind one that names the same task and has not taken effect (R341). -/
def stallBehind (g : Word) : Op Unit := do
  let s ← look
  stallIf (match findTarget s s.cur.core g with
    | some (.slot c i) => (getSlot s c i).stop.isSome
    | some (.saved _ _) => false
    | some (.queued _ _) => false
    | none => false)

/-! ## TCTXRD and TCTXWR -/

/-- The image and queue block of a stopped target. -/
def contextOf (s : State) (t : Target) : Option (List Word × List Word) :=
  match t with
  | .slot c i =>
    let k := getSlot s c i
    let f := { landLate k (s.cycle + 64) with swPark := stopSwPark k }
    if isStopped k then some (imageWords f false c (stopCause k), queueWords f) else none
  | .saved _ v =>
    match getRegion s v.region with
    | some r => ctxRead s r v.ctx
    | none => none
  | .queued _ _ => none

def tctxrdOp (rd ra rb : XField) : Op Unit := do
  tsysOperands rd [ra, rb]
  let g ← rdX ra
  let a ← tsysBuffer rb
  stallBehind g
  change fun s =>
    match findTarget s s.cur.core g with
    | none => tsysAnswer rd 1 s
    | some t =>
      match contextOf s t with
      | none => tsysAnswer rd 2 s
      | some (im, q) =>
        let c := s.cur.core
        tsysAnswer rd 0 (spWrite s c a (localIndex s (clusterOf c) (curSlot s).region) (bytesOf (im ++ q)))

/-- TCTXRD. -/
def execTctxrd (rd ra rb : XField) (s : State) : Host.Outcome State Fault Refusal := runOp (tctxrdOp rd ra rb) s

/-- A reserved bit set anywhere in the buffer, a PC beyond the program store among them. -/
def bufferBad (im q : List Word) : Bool := reservedSet imageMask im || reservedSet queueMask q

/-- FPCTL as a write leaves it: the codes 0b101 to 0b111 leave RM unchanged (02 R47). -/
def fpctlAfter (old : Word) (v : Nat) : Word :=
  w64 ((if 5 ≤ v % 8 then old.toNat % 8 else v % 8) + bits v 3 3 * 8)

/-- The fields TCTXWR writes, over the task as it stands. -/
def writtenSlot (t : Slot) (im : List Word) : Slot :=
  let n := slotFromWords t im []
  { t with
    pc := n.pc
    p := n.p ||| 1#8
    fpflg := n.fpflg
    fpen := n.fpen
    fpctl := fpctlAfter t.fpctl n.fpctl.toNat
    spbad := n.spbad
    mprog := n.mprog
    mpva := n.mpva
    mpvb := n.mpvb
    bphit := n.bphit
    l2psel := n.l2psel
    x := n.x
    xRes := []
    f := n.f
    v := n.v
    barPhase := if n.pc == t.pc then t.barPhase else none }

def tctxwrOp (rd ra rb : XField) : Op Unit := do
  let s ← look
  tsysOperands rd [ra, rb]
  let g ← rdX ra
  let a ← tsysBuffer rb
  trapIf (spBad s s.cur.core a (Config.ctxImage + Config.ctxQueue)) (tUncorr (w64 a))
  stallBehind g
  change fun s =>
    let im := wordsOf 352 (spRead s s.cur.core a Config.ctxImage)
    let q := wordsOf 64 (spRead s s.cur.core (a + Config.ctxImage) Config.ctxQueue)
    if bufferBad im q then tsysAnswer rd 5 s
    else match findTarget s s.cur.core g with
      | none => tsysAnswer rd 1 s
      | some (.slot c i) =>
        if isStopped (getSlot s c i) then
          tsysAnswer rd 0 (modSlot s c i fun t => writtenSlot (landLate t (s.cycle + 64)) im)
        else tsysAnswer rd 2 s
      | some (.saved n v) => tsysAnswer rd 0 (putSaved s n v (writtenSlot (savedSlot s v) im))
      | some (.queued _ _) => tsysAnswer rd 2 s

/-- TCTXWR. -/
def execTctxwr (rd ra rb : XField) (s : State) : Host.Outcome State Fault Refusal := runOp (tctxwrOp rd ra rb) s

/-! ## TRESUME -/

/-- The CORE of a mode is 0xFFF or a live compute core of a cluster granted to the region. -/
def resumeCoreOk (s : State) (rid c : Nat) : Bool :=
  c == 0xFFF || (liveCore s c && (match getRegion s rid with
    | some r => (regionClusters s r).contains (clusterOf c)
    | none => false))

/-- Whether a task may resume only on the core it left (R337): it holds a claim buffer, or counted items, loads or AMOs are
outstanding. -/
def tiedToCore (t : Slot) : Bool :=
  t.claimBuf.isSome || !t.out.isEmpty

/-- The pc past the bundle at it. -/
def skipPc (s : State) (core : Nat) (pc : Word) : Word := pc + w64 (bundleSize s core pc)

/-- A stopped task in a slot goes on there. -/
def resumeSlot (s : State) (c i : Nat) (skip : Bool) : State :=
  modSlot s c i fun t => { afterPark t with
    pc := if skip then skipPc s c t.pc else t.pc
    barPhase := if skip then none else t.barPhase
    notBefore := s.cycle }

/-- A saved task joins the tail of its class. -/
def resumeSaved (s : State) (n : Nat) (v : SavedTask) (core : Nat) (skip : Bool) : State :=
  let t := savedSlot s v
  let s1 := if skip then putSaved s n v { t with pc := skipPc s v.core t.pc, barPhase := none } else s
  let s2 := { s1 with saved := s1.saved.modify n fun v => { v with queued := true } }
  enqueue s2 core ⟨t.gtid, t.region, t.cls, t.origin, .saved v.ctx, s.cycle, none⟩

/-- TRESUME's status and effect on a found target. -/
def resumeTarget (s : State) (t : Target) (skip : Bool) (core : Nat) : Nat × State :=
  match t with
  | .slot c i =>
    if !isStopped (getSlot s c i) || core != 0xFFF then (2, s) else (0, resumeSlot s c i skip)
  | .queued _ _ => (2, s)
  | .saved n v =>
    let to_ := if core == 0xFFF then v.core else core
    if isQueued s v.rest.gtid then (2, s)
    else if (to_ != v.core && tiedToCore (savedSlot s v)) || !answering s to_ then (3, s)
    else (0, resumeSaved s n v to_ skip)

def tresumeOp (rd ra rb : XField) : Op Unit := do
  tsysOperands rd [ra, rb]
  let g ← rdX ra
  let m ← rdX rb
  stallBehind g
  change fun s =>
    let core := bits m.toNat 27 16
    if m.toNat / 2 ^ 28 != 0 || bits m.toNat 15 1 != 0 || !resumeCoreOk s (gtidRegion g) core then tsysAnswer rd 5 s
    else match findTarget s s.cur.core g with
      | none => tsysAnswer rd 1 s
      | some t =>
        let (st, s1) := resumeTarget s t (bit m.toNat 0) core
        tsysAnswer rd st s1

/-- TRESUME. -/
def execTresume (rd ra rb : XField) (s : State) : Host.Outcome State Fault Refusal := runOp (tresumeOp rd ra rb) s

/-! ## TKILL and TPREEMPT -/

/-- A stop is asked of a slot's task; its form parks until it has taken effect. -/
def askTaskStop (rd : XField) (c i : Nat) (kill requeue : Bool) (s : State) : State :=
  let (s1, who) := parkAnswer rd s
  modSlot s1 c i fun t => { t with stop := some kill, stopRequeue := requeue, stopper := some who }

/-- Whether a saved task stopped on a trap. -/
def savedTrapped (v : SavedTask) : Bool := v.cause != 17 && v.cause != 8

def tkillOp (rd ra : XField) : Op Unit := do
  let s ← look
  tsysOperands rd [ra]
  let g ← rdX ra
  stallBehind g
  stallIf (match findTarget s s.cur.core g with
    | some (.saved _ v) => killWaits s v.core v.rest
    | _ => false)
  change fun s =>
    match findTarget s s.cur.core g with
    | none => tsysAnswer rd 1 s
    | some (.slot c i) =>
      if c == s.cur.core && i == s.cur.slot then tsysAnswer rd 2 s else askTaskStop rd c i true false s
    | some (.queued c q) => tsysAnswer rd 0 (killQueued s c q)
    | some (.saved n v) =>
      tsysAnswer rd 0 (killSaved (if savedTrapped v then fixCause s v.region 5 1 else s) n v)

/-- TKILL. -/
def execTkill (rd ra : XField) (s : State) : Host.Outcome State Fault Refusal := runOp (tkillOp rd ra) s

def tpreemptOp (rd ra rb : XField) : Op Unit := do
  tsysOperands rd [ra, rb]
  let g ← rdX ra
  let m ← rdX rb
  stallBehind g
  change fun s =>
    if m.toNat / 2 != 0 then tsysAnswer rd 5 s
    else match findTarget s s.cur.core g with
      | none => tsysAnswer rd 1 s
      | some (.slot c i) =>
        if serialTask (getCore s c) (getSlot s c i).origin then tsysAnswer rd 3 s
        else if c == s.cur.core && i == s.cur.slot then tsysAnswer rd 2 s
        else askTaskStop rd c i false (bit m.toNat 0) s
      | some (.queued _ _) => tsysAnswer rd 2 s
      | some (.saved _ _) => tsysAnswer rd 2 s

/-- TPREEMPT. -/
def execTpreempt (rd ra rb : XField) (s : State) : Host.Outcome State Fault Refusal := runOp (tpreemptOp rd ra rb) s

/-! ## Where a task can be stopped (R337) -/

/-- Whether the park a task stands in lets it stop. -/
def parkStops (s : State) (c i : Nat) : Bool :=
  let t := getSlot s c i
  match t.park with
  | .none | .switchMark | .waitr _ | .fence _ _ | .join _ _ | .gangWait _ | .trapped _ | .fpEvent _ | .halted => true
  | .barrier _ _ _ _ w _ _ _ => w.isSome
  | .mma => !mmaAccepted s c t.gtid
  | .answer _ _ | .gangForm _ _ _ | .flush _ _ _ _ | .releaseDrain _ _ _ _ _ | .readBack _ => false

/-- Whether the open interval of the task's pair has closed (19 R358). -/
def pairStops (s : State) (c i : Nat) : Bool :=
  match (getCore s c).pair with
  | some p => p.slot != i || (intervalEmpty p && p.exchange.isNone)
  | none => true

/-- Whether a stop asked of a slot's task can take effect now. -/
def stopReady (s : State) (c i : Nat) : Bool :=
  let t := getSlot s c i
  t.held && parkStops s c i && pairStops s c i && (t.heldWords.isNone || issuesAgain t.park) &&
    (match t.stop with
     | none => false
     | some true => !killWaits s c t
     | some false => t.stagedHdr.isNone && t.sfuFly.isEmpty)

/-- The form that asked for the stop learns its status. -/
def answerStopper (s : State) (w : Option Who) (st : Nat) : State :=
  match w with
  | some who => later s (.barrierAnswer who (w64 st))
  | none => s

/-- A trap or FP event raised at the same boundary comes first (R346). -/
def raiseFirst (s : State) (c i : Nat) : State :=
  match (getSlot s c i).park with
  | .none => raisePending s c i
  | _ => s

/-- TASK_STOP: the task is killed, or saved; without a free context it stays as it was. A YIELD whose bundle raised an FP event
is saved with cause 8 and queued again (DESIGN CHOICE, log 37). -/
def taskStopStep (core slot : Nat) (s : State) : State :=
  if !stopReady s core slot then s
  else
    let s1 := breakIfMember (raiseFirst s core slot) core slot
    let t := getSlot s1 core slot
    match t.stop with
    | some true =>
      let s2 := match t.park with
        | .trapped _ => fixCause s1 t.region 5 1
        | _ => s1
      answerStopper (killSlot s2 core slot) t.stopper 0
    | _ =>
      match saveTask s1 core slot (stopCause t) t.stopRequeue with
      | some s2 => answerStopper s2 t.stopper 0
      | none =>
        if t.stopper.isNone && !t.stopRequeue && !isStopped t then haltInSlot s1 core slot
        else
          answerStopper (modSlot s core slot fun t => { t with stop := none, stopRequeue := false, stopper := none })
            t.stopper 4

def execTaskStop (core slot : Nat) (s : State) : Host.Outcome State Fault Refusal := always (taskStopStep core slot) s

end Sys2Proof.Machine
end

