-- ==== Sys2Proof/Machine/Regions.lean ====
section
/-! DEFINITION. Regions (spec 16 R311-R317, R420, 04 R95, 05 R112, 06 R135, 14 R272, R287, 15 R304, R419, 21 R377): START,
KILL, completion and JOIN. -/

namespace Sys2Proof.Machine

/-! ## The control block (R311, R312) -/

/-- The 32 words of an RCB at a physical address. -/
def rcbWords (s : State) (pa : Nat) : List Nat := (List.range 32).map fun i => mread s.mem (pa + 8 * i) 8

/-- A field of such words. -/
def wf (ws : List Nat) (w hi lo : Nat) : Nat := bits (ws.getD w 0) hi lo

/-- Bits of an RCB that belong to no field: word, high bit, low bit. -/
def rcbReserved : List (Nat × Nat × Nat) :=
  [(0, 15, 12), (1, 63, 56), (2, 63, 56), (3, 63, 56), (4, 63, 61), (6, 63, 41), (7, 63, 52), (7, 19, 0), (8, 63, 56),
   (9, 63, 56), (10, 63, 56), (11, 63, 56), (12, 63, 21), (13, 63, 56), (14, 63, 56), (15, 63, 57)] ++
  [(16, 63, 38), (17, 63, 56), (18, 63, 48), (19, 63, 32), (20, 63, 56), (21, 63, 9), (22, 63, 56), (28, 63, 16),
   (29, 63, 56), (30, 63, 56), (31, 63, 19)]

/-- The fields of each group of R312. -/
def ovrGroup (g : Nat) : List (Nat × Nat × Nat) :=
  match g with
  | 0 => [(4, 15, 0)]
  | 1 => [(4, 31, 16), (6, 31, 0)]
  | 2 => [(4, 47, 32), (5, 63, 0)]
  | 3 => [(4, 55, 48)]
  | 4 => [(4, 56, 56)]
  | 5 => [(4, 57, 57), (6, 40, 32)]
  | 6 => [(4, 59, 58)]
  | 7 => [(7, 51, 20)]
  | 8 => [(8, 55, 0), (9, 55, 0), (10, 55, 0), (15, 56, 19), (16, 37, 0)]
  | 9 => [(11, 55, 0), (12, 20, 0), (13, 55, 0), (14, 55, 0), (29, 55, 0), (30, 55, 0), (31, 18, 0)]
  | 10 => [(17, 55, 0), (18, 15, 0), (19, 31, 0)]
  | 11 => [(22, 55, 0), (23, 63, 0)]
  | _ => []

def rcbOvr (ws : List Nat) : Nat := wf ws 0 11 0

/-- The region an RCB describes, with the groups it does not override taken from its parent (R312). -/
def readRegion (ws : List Nat) (pa va : Nat) (parent : Option Region) (m : Msg) : Region :=
  let own := fun {α : Type} (g : Nat) (mine : α) (theirs : Region → α) =>
    if bit (rcbOvr ws) g then mine
    else match parent with
      | some p => theirs p
      | none => mine
  let id := wf ws 0 63 48
  { id := id
    parent := match parent with
      | some p => p.id
      | none => 0
    children := []
    rcbPa := pa
    rcbVa := va
    ovr := rcbOvr ws
    dies := own 0 (wf ws 4 7 0) fun p => p.dies
    clusters := own 0 (wf ws 4 15 8) fun p => p.clusters
    guardq := own 1 (wf ws 4 23 16) fun p => p.guardq
    mboxq := own 1 (wf ws 4 31 24) fun p => p.mboxq
    nodeq := own 1 (wf ws 6 31 0) fun p => p.nodeq
    mxtix := own 2 (wf ws 4 47 32) fun p => p.mxtix
    w := own 2 [wf ws 5 15 0, wf ws 5 31 16, wf ws 5 47 32, wf ws 5 63 48] fun p => p.w
    stagger := own 3 (wf ws 4 55 48) fun p => p.stagger
    fpol := own 4 (wf ws 4 56 56 == 1) fun p => p.fpol
    conf := own 5 (wf ws 4 57 57 == 1) fun p => p.conf
    key := own 5 (wf ws 6 40 32) fun p => p.key
    replay := own 6 (wf ws 4 59 58) fun p => p.replay
    ptroot := own 7 (wf ws 7 51 20 * 2 ^ 20) fun p => p.ptroot
    rangetab := own 8 (wf ws 8 55 0) fun p => p.rangetab
    harptab := own 8 (wf ws 9 55 0) fun p => p.harptab
    nbase := own 8 (wf ws 10 55 0) fun p => p.nbase
    tf := own 8 [wf ws 15 37 19, wf ws 15 56 38, wf ws 16 18 0, wf ws 16 37 19] fun p => p.tf
    image := own 9 (wf ws 11 55 0) fun p => p.image
    imglen := own 9 (wf ws 12 20 0) fun p => p.imglen
    ruletab := own 9 (wf ws 13 55 0) fun p => p.ruletab
    tagtab := own 9 (wf ws 14 55 0) fun p => p.tagtab
    data := own 9 (wf ws 29 55 0) fun p => p.data
    simage := own 9 (wf ws 30 55 0) fun p => p.simage
    slen := own 9 (wf ws 31 18 0) fun p => p.slen
    nqbase := own 10 (wf ws 17 55 0) fun p => p.nqbase
    nqsize := own 10 (wf ws 18 15 0) fun p => p.nqsize
    nqOwner := own 10 id fun p => p.nqOwner
    accthr := own 10 (wf ws 19 31 0) fun p => p.accthr
    ctxarea := own 11 (wf ws 22 55 0) fun p => p.ctxarea
    ctxn := own 11 (wf ws 23 63 0) fun p => p.ctxn
    ctxOwner := own 11 id fun p => p.ctxOwner
    entry := wf ws 15 18 0
    alog := wf ws 20 55 0
    setOwner := own 8 id fun p => p.setOwner
    startedBy := m
    killCause := none
    dying := false
    nodesLive := []
    startOrder := 0
    firstFault := 0
    firstCause := 0
    nfault := 0
    debug := false }

/-! ## What START reads (R314) -/

/-- The tables of a region that overrides their groups, as its images hold them. -/
structure Loads where
  ranges : List RangeEntry
  harp : Tab Handle
  rules : List Byte
  tags : List Nat
  prog : List Byte
  scratch : List Byte
  rangeBytes : List Byte
  harpBytes : List Byte
  tagBytes : List Byte
deriving DecidableEq, Repr

/-- n bytes at a VA of device space in a region's mapping; an address of 0 stands for none. -/
def readTable (s : State) (rid va n : Nat) : Option (List Byte) :=
  if va == 0 || n == 0 then some []
  else if classify va != .device || classify (va + n - 1) != .device then none
  else (vaLocs s rid (rootOf s rid) 0 va n false).map (partsRead s rid)

/-- Word i of a list of bytes. -/
def byteWordAt (bs : List Byte) (i : Nat) : Nat := leNat ((bs.drop (8 * i)).take 8)

/-- One entry of a range-table image (04 R95): none when it is not valid, an error when it is refused. -/
def parseRange (bs : List Byte) : Option (Option RangeEntry) :=
  let b := byteWordAt bs 0
  let len := byteWordAt bs 1
  let c := byteWordAt bs 2
  let p := byteWordAt bs 3
  let ty := bits c 5 3
  if !bit c 0 then some none
  else if len == 0 || len % 64 != 0 || 4 < ty || bits b 63 56 != 0 || bits b 5 0 != 0 || bits c 63 6 != 0 ||
      b < 2 ^ 32 || 2 ^ 56 < b + len || (ty == 0 && bits p 63 12 != 0) || (1 < ty && p != 0) then none
  else some (some ⟨b, len, ty, bit c 2, bit c 1, w64 p⟩)

/-- Whether byte ranges overlap. -/
def spansMeet (a n b m : Nat) : Bool := decide (a < b + m) && decide (b < a + n)

/-- Whether some two entries of a range table overlap. -/
def rangesMeet : List RangeEntry → Bool
  | [] => false
  | e :: r => (r.any fun f => spansMeet e.base e.len f.base f.len) || rangesMeet r

/-- The range table of an image, none when it is refused (04 R95, 05 R112). -/
def parseRanges (bs : List Byte) : Option (List RangeEntry) :=
  match (List.range (bs.length / 32)).mapM fun i => parseRange ((bs.drop (32 * i)).take 32) with
  | none => none
  | some l =>
    let es := l.filterMap id
    let guarded := es.filter fun e => e.ty == 1
    if rangesMeet es || guarded.any (fun g => es.any fun e => spansMeet g.param.toNat 64 e.base e.len) then none
    else some es

/-- Whether a number stands twice in a list. -/
def repeats : List Nat → Bool
  | [] => false
  | a :: r => r.contains a || repeats r

/-- The Harp handles of an image, none when it is refused (06 R135). -/
def parseHarp (s : State) (bs : List Byte) : Option (Tab Handle) :=
  let es := (List.range (bs.length / 16)).filterMap fun i =>
    let a := byteWordAt (bs.drop (16 * i)) 0
    let p := byteWordAt (bs.drop (16 * i)) 1
    if bit a 0 then some (i, a, p) else none
  let bad := fun (e : Nat × Nat × Nat) =>
    bits e.2.1 63 56 != 0 || bits e.2.1 12 1 != 0 || bits e.2.2 63 52 != 0 || bits e.2.2 12 0 != 0 || !inDram s e.2.2
  if es.any bad || repeats (es.map fun e => e.2.2) then none
  else some (es.map fun e => (e.1, ⟨e.2.1 - 1, e.2.2⟩))

/-- Whether a rule table's image is refused (14 R272). -/
def rulesBad : Nat → List Byte → Bool
  | 0, _ => false
  | n + 1, bs =>
    let e := leNat (bs.take 4)
    (bit e 31 && bits e 27 19 != 0) || rulesBad n (bs.drop 4)

/-- Whether a tag image's entry breaks R304. -/
def tagImageBad (e : Nat) : Bool :=
  bits e 63 40 != 0 || bits e 30 29 != 0 || bits e 25 19 != 0 || decide (240 < tagMaxq e)

def ownsSet (r : Region) : Bool := bit r.ovr 8

def ownsImage (r : Region) : Bool := bit r.ovr 9

/-- The tables and images a region loads of its own; none when one is refused or does not translate. -/
def readLoads (s : State) (r : Region) : Option Loads := do
  let rb ← if ownsSet r then readTable s r.id r.rangetab 2048 else some []
  let hb ← if ownsSet r then readTable s r.id r.harptab 65536 else some []
  let rules ← if ownsImage r then readTable s r.id r.ruletab 262144 else some []
  let tb ← if ownsImage r then readTable s r.id r.tagtab 2016 else some []
  let prog ← if ownsImage r then readTable s r.id r.image r.imglen else some []
  let scratch ← if ownsImage r then readTable s r.id r.simage r.slen else some []
  let ranges ← parseRanges rb
  let harp ← parseHarp s hb
  let tags := (List.range (tb.length / 8)).map fun i => byteWordAt tb i
  if rulesBad (rules.length / 4) rules || tags.any tagImageBad then none
  else some ⟨ranges, harp, rules, tags, prog, scratch, rb, hb, tb⟩

/-- A byte store that holds these bytes from an address on. -/
def memoryFrom (a : Nat) : List Byte → Memory
  | [] => []
  | b :: r => if b == 0#8 then memoryFrom (a + 1) r else (a, b) :: memoryFrom (a + 1) r

/-! ## The conditions of a START (R314) -/

/-- The cores of a cluster that hold a route-tag table: the live compute cores and the control core. -/
def taggedCores (s : State) (k : Nat) : List Nat :=
  ((List.range 48).map fun i => k * 48 + i).filter (liveCore s) ++ [3072 + k]

/-- The lowest die of a mask. -/
def lowestDie (m : Nat) : Option Nat := (List.range 8).find? fun d => bit m d

/-- FORMAT: reserved fields, inherited groups, a root that does not override all, the wrong die, the lengths, the
addresses, the log, a ring of no entries that is named or counted for (log 26). -/
def formatBad (s : State) (ws : List Nat) (r : Region) (root : Bool) (die w1 w2 : Nat) : Bool :=
  rcbReserved.any (fun f => wf ws f.1 f.2.1 f.2.2 != 0) ||
    bits w1 63 9 != 0 || (!root && w2 != 0) ||
    (root && rcbOvr ws != 0xFFF) ||
    ((List.range 12).any fun g => !bit (rcbOvr ws) g && (ovrGroup g).any fun f => wf ws f.1 f.2.1 f.2.2 != 0) ||
    (match lowestDie r.dies with
     | some d => d != die
     | none => false) ||
    r.id == 0 || (ownsImage r && r.image == 0) || decide (0x7C000 < r.slen) || decide (32768 < r.nqsize) ||
    (r.nqsize == 0 && (r.nqbase != 0 || r.accthr != 0)) ||
    r.rcbPa % 256 != 0 || (vaPhys s r.id r.rcbVa).map Prod.fst != some r.rcbPa ||
    r.alog % 8192 != 0 || (vaPlaces s r.id r.alog 8192).isNone

/-- A mask with no bit outside another. -/
def maskWithin (a b : Nat) : Bool := (List.range 8).all fun i => !bit a i || bit b i

/-- BUDGET. -/
def budgetBad (s : State) (r : Region) (parent : Option Region) : Bool :=
  r.dies == 0 || r.clusters == 0 || r.mboxq == 0 || decide (240 < r.mboxq) ||
    ((List.range 8).any fun d => bit r.dies d && (getDie s d).excluded) ||
    (match parent with
     | none => false
     | some p => !maskWithin r.dies p.dies || !maskWithin r.clusters p.clusters || decide (p.guardq < r.guardq) ||
         decide (p.mboxq < r.mboxq) || decide (p.nodeq < r.nodeq) || decide (p.mxtix < r.mxtix))

/-- Whether a cluster is taken for this region (R313, R419). -/
def clusterBusy (s : State) (r : Region) (l : Loads) (k : Nat) : Bool :=
  let c := getCluster s k
  let cores := taggedCores s k
  let held := fun (n : Nat) => cores.any fun x => tagV (getTag (getCore s x) n)
  (ownsImage r && (match c.image with
    | none => false
    | some n => n != r.imglen || c.prog != memoryFrom 0 l.prog || c.rules != memoryFrom 0 l.rules)) ||
  (ownsSet r && decide (16 ≤ c.sets.length)) ||
  (l.tags.zipIdx.any fun e => tagV e.1 && held e.2) ||
  ((List.range 4).any fun i =>
    cores.any fun x =>
      let e := getTag (getCore s x) (0xFC + i)
      tagV e && tagPcw e != r.tf.getD i 0)

/-- BUSY; a package holds at most 4,096 regions (R313). -/
def startBusy (s : State) (r : Region) (l : Loads) : Bool :=
  decide (4096 ≤ s.regions.length) || (regionClusters s r).any (clusterBusy s r l)

/-- The state with a region listed, in which its mapping can be read. -/
def listRegion (s : State) (r : Region) : State := { s with regions := tset s.regions r.id r }

/-- The result of a START of an RCB (R314): the first that holds in the order of the table; otherwise what it loads. -/
def startResult (s : State) (ws : List Nat) (r : Region) (root : Bool) (parent : Option Region) (die w1 w2 : Nat) :
    Except Nat Loads :=
  let t := listRegion s r
  if formatBad t ws r root die w1 w2 then .error 1
  else match readLoads t r with
    | none => .error 1
    | some l =>
      if budgetBad s r parent then .error 2
      else if startBusy s r l then .error 3
      else if (getRegion s r.id).isSome then .error 4
      else if !root && !(match parent with
          | some p => regStatus s p == 2
          | none => false) then .error 5
      else .ok l

/-! ## Loading (R313, R314 step 3, 14 R287, 15 R304, R419) -/

/-- The lowest free table set of a cluster. -/
def freeSet (c : Cluster) : Nat := ((List.range 16).find? fun i => (tfind c.sets i).isNone).getD 0

/-- The index of a region's table set in a cluster. -/
def setIndex (c : Cluster) (r : Region) : Nat :=
  match c.sets.find? fun e => e.2.region == r.setOwner with
  | some e => e.1
  | none => 0

/-- A loaded tag entry: EN set, RGN the set's index. -/
def loadedTag (e ix : Nat) : Word := w64 (putBits (putBits e 30 30 1) 22 19 ix)

/-- A core's tag entry n is loaded for a region. -/
def loadTag (s : State) (rid core n e : Nat) (ix : Nat) : State :=
  modCore s core fun k => { k with tags := tset k.tags n (loadedTag e ix), tagOwner := tset k.tagOwner n rid }

/-- The tag entries a region brings to a core; the shared ones only where none stands. -/
def loadTags (s : State) (r : Region) (l : Loads) (core ix : Nat) : State :=
  let s1 := l.tags.zipIdx.foldl (fun s e => if tagV e.1 then loadTag s r.id core e.2 e.1 ix else s) s
  (List.range 4).foldl (fun s i =>
    if tagV (getTag (getCore s core) (0xFC + i)) then s
    else loadTag s r.id core (0xFC + i) (2 ^ 31 + r.tf.getD i 0) ix) s1

/-- What a region loads into one granted cluster. -/
def loadCluster (r : Region) (l : Loads) (s : State) (k : Nat) : State :=
  let fresh := ownsImage r && (getCluster s k).image.isNone
  let s1 := if fresh then
      modCluster s k fun c =>
        { c with image := some r.imglen, prog := memoryFrom 0 l.prog, rules := memoryFrom 0 l.rules }
    else s
  let s2 := if ownsSet r then
      modCluster s1 k fun c => { c with sets := tset c.sets (freeSet c) ⟨r.id, l.ranges, l.harp, r.nbase⟩ }
    else s1
  let s3 := if fresh then
      ((taggedCores s2 k).filter isCompute).foldl (fun s c => spWrite s c 0 (localIndex s k r.id) l.scratch) s2
    else s2
  (taggedCores s3 k).foldl (fun s c => loadTags s r l c (setIndex (getCluster s k) r)) s3

/-- The indices of nodes of an owner that lie in a NODE range. -/
def nodeIndices (r : Region) (l : Loads) (owner : Nat) : List Nat :=
  let lo := r.nbase + owner * 2 ^ 34
  (l.ranges.filter fun e => e.ty == 4 && e.r && e.w).flatMap fun e =>
    let a := (e.base - lo + 63) / 64
    let b := Nat.min ((e.base + e.len - lo) / 64) (2 ^ 28)
    (List.range (b - a)).map fun i => owner * 2 ^ 28 + a + i

/-- A core's free list from the FREE nodes of the image (14 R287). -/
def buildFree (r : Region) (l : Loads) (s : State) (owner : Nat) : State :=
  (sortBy id (nodeIndices r l owner)).foldl (fun s i =>
    match nodeRead s r.id i with
    | some (h :: _) => if hState h == 0 then freeAppend s owner r.id i else s
    | _ => s) s

/-- The compute cores a region is granted. -/
def regionCores (s : State) (r : Region) : List Nat :=
  (regionClusters s r).flatMap fun k => ((List.range 48).map fun i => k * 48 + i).filter (liveCore s)

/-- A component folded into a measurement (21 R377). -/
def measureFold (m c : List Byte) : List Byte := shake256 (m ++ shake256 c)

/-- The region whose copy of a group a region shares: itself, or its nearest ancestor that overrides it (R312). -/
def groupOwner (s : State) (g : Nat) : Nat → Region → Region
  | 0, r => r
  | n + 1, r =>
    if bit r.ovr g then r
    else match getRegion s r.parent with
      | some p => groupOwner s g n p
      | none => r

/-- The measurement of a region at START (21 R377): over its own images and tables, or those it inherits. -/
def measureRegion (s : State) (ws : List Nat) (r : Region) (l : Loads) : List Byte :=
  let oi := groupOwner s 9 4096 r
  let os := groupOwner s 8 4096 r
  let get := fun (o : Region) (mine : List Byte) (va n : Nat) =>
    if o.id == r.id then mine else (readTable s o.id va n).getD []
  [get oi l.prog oi.image oi.imglen,
    Config.measuredSet (get os l.rangeBytes os.rangetab 2048) (get os l.harpBytes os.harptab 65536) r.nbase r.tf,
    get oi l.rules oi.ruletab 262144, get oi l.tagBytes oi.tagtab 2016,
    Config.measuredWords (((ws.drop 4).take 3).map w64) r.debug].foldl measureFold s.host.measure

/-! ## Replies and joiners (R314, R316, R317) -/

/-- A START's sender is the host. -/
def fromHost (m : Msg) : Bool := hdrScore m.hdr == 4095

/-- A reply of START or of completion. -/
def replyStart (s : State) (die : Nat) (m : Msg) (addr : Word) (rid result : Nat) : State :=
  let w1 := (m.pay.getD 1 0#64).toNat
  let chip := if hdrSchip m.hdr == s.chipId then 0xFF else hdrSchip m.hdr
  sendMsg s (3136 + die) (mkHdr 2 (bits w1 7 0) chip (hdrScore m.hdr)) [addr, w64 (rid % 2 ^ 16 * 2 ^ 48 + result % 256)]
    (noWho (3136 + die)) false

/-- The reply to a START that asks for one. -/
def answerStart (s : State) (die : Nat) (m : Msg) (rid result : Nat) : State :=
  if bit (m.pay.getD 1 0#64).toNat 8 then replyStart s die m (m.pay.getD 0 0#64) rid result else s

/-- Every JOIN parked on an RCB whose slot satisfies p ends with a word. -/
def wakeJoins (s : State) (pa : Nat) (p : Slot → Bool) (w : Word) : State :=
  { s with cores := s.cores.map fun e =>
      (e.1, { e.2 with slots := e.2.slots.map fun x =>
        (x.1, match x.2.park with
          | .join rd a => if a == pa && p x.2 then completePark (putReg x.2 (.x rd) (BitVec.ofNat 512 w.toNat)) else x.2
          | _ => x.2) }) }

/-- The JOIN word of a status and a cause. -/
def joinWord (st cause : Nat) : Word := w64 (st % 256 * 2 ^ 56 + cause % 256 * 2 ^ 48)

/-! ## START -/

/-- Step 2 of R314: the RCB is linked as the parent's newest child, its HW fields begin. -/
def linkRegion (s : State) (r : Region) (parent : Option Region) : State :=
  let sib := match parent with
    | some p => mread s.mem (p.rcbPa + 16) 8
    | none => 0
  let up := match parent with
    | some p => (p.id, p.rcbVa)
    | none => (0, 0)
  let s1 := listRegion s { r with startOrder := s.nextOrder }
  let s2 := { s1 with nextOrder := s.nextOrder + 1 }
  let s3 := rcbPut (rcbPut (rcbPut s2 r 0 47 32 up.1) r 0 31 24 1) r 0 23 16 0
  let s4 := rcbPut (rcbPut (rcbPut s3 r 1 55 0 up.2) r 2 55 0 0) r 3 55 0 sib
  let s5 := rcbPut (rcbPut (rcbPut s4 r 4 60 60 0) r 18 47 16 0) r 21 8 0 0
  let s6 := rcbPut (rcbPut (rcbPut s5 r 24 63 0 0) r 25 63 0 s.cycle) r 26 63 0 0
  let s7 := rcbPut (rcbPut s6 r 27 63 0 0) r 28 15 0 0
  match parent with
  | some p => modRegion (rcbPut s7 p 2 55 0 r.rcbVa) p.id fun p => { p with children := p.children ++ [r.id] }
  | none => s7

/-- Step 5 of R314: one region-start task on the ready queue of each die. -/
def placeStart (r : Region) (s : State) (d : Nat) : State :=
  later (otcAdd s r.id 1) (.spawnPlace d none ⟨r.id, .spawn 0 (w64 r.rcbVa) r.entry 0 d s.cycle true⟩)

/-- Steps 2 to 5 of a START that is not refused. -/
def startRegion (s : State) (ws : List Nat) (r : Region) (parent : Option Region) (l : Loads) : State :=
  let s1 := linkRegion s r parent
  let s2 := (regionClusters s1 r).foldl (loadCluster r l) s1
  let s3 := if ownsSet r then (regionCores s2 r).foldl (buildFree r l) s2 else s2
  let s4 := { s3 with host := { s3.host with
    regionMeasure := tset s3.host.regionMeasure r.id (measureRegion s3 ws r l) } }
  let s5 := startReplay (rcbPut s4 r 0 31 24 2) r
  let s6 := (regionDies s5 r).foldl (placeStart r) s5
  wakeJoins s6 r.rcbPa (fun t => t.region != r.parent) (joinWord 8 0)

/-- Where a START's RCB lies, and its VA in the new region's mapping. -/
def startPlace (s : State) (m : Msg) : Option (Nat × Nat) :=
  let a := (m.pay.getD 0 0#64).toNat
  if fromHost m then (if paPresent s a then some (a, (m.pay.getD 2 0#64).toNat) else none)
  else if hdrSchip m.hdr != s.chipId then none
  else (vaPhys s (gtidRegion m.who.gtid) a).map fun p => (p.1, a)

/-- Whether Turfy is opened for a region: the slot of its KEY is bound to it and was loaded with DEBUG (21 R379). -/
def keyDebug (s : State) (r : Region) : Bool :=
  match tfind s.host.keys r.key with
  | some k => k.dbg && k.region == r.id
  | none => false

/-- The lines the host may cache of a START's RCB and images (04 R107). -/
def startLines (s : State) (m : Msg) : List Nat :=
  if !anySnoop s then []
  else match startPlace s m with
    | none => []
    | some (pa, va) =>
      let root := fromHost m
      let r := readRegion (rcbWords s pa) pa va (if root then none else getRegion s (gtidRegion m.who.gtid)) m
      let tables := [(r.rangetab, 2048), (r.harptab, 65536), (r.ruletab, 262144), (r.tagtab, 2016), (r.image, r.imglen),
        (r.simage, r.slen)]
      snooped s pa 256 ++ (tables.filter fun t => t.1 != 0 && classify t.1 == .device).flatMap fun t =>
        vaLines s r.id r.ptroot t.1 t.2

/-- START served (R314) at the die management core it was sent to. -/
def startServe (m : Msg) (s : State) : State :=
  let die := hdrDcore m.hdr - 3136
  match startPlace s m with
  | none => answerStart s die m 0 1
  | some (pa, va) =>
    let ws := rcbWords s pa
    let root := fromHost m
    let parent := if root then none else getRegion s (gtidRegion m.who.gtid)
    let r0 := readRegion ws pa va parent m
    let r := { r0 with debug := keyDebug s r0 }
    match startResult s ws r root parent die (m.pay.getD 1 0#64).toNat (m.pay.getD 2 0#64).toNat with
    | .ok l => answerStart (startRegion s ws r parent l) die m r.id 0
    | .error n =>
      let s1 := if wf ws 0 31 24 == 0 then wakeJoins s pa (fun _ => true) (joinWord 0xFF n) else s
      answerStart s1 die m r.id n

/-- START. -/
def startStep (m : Msg) (s : State) : State :=
  awaitLines (startLines s m) (coreSrc (hdrDcore m.hdr)) (.core (hdrDcore m.hdr)) (.start m) (startServe m) s

def execStart (m : Msg) (s : State) : Host.Outcome State Fault Refusal := always (startStep m) s

/-! ## KILL (R315) -/

/-- The descendants of a region, deepest first, and then the region. -/
def familyOf (s : State) : Nat → Nat → List Nat
  | 0, rid => [rid]
  | n + 1, rid =>
    match getRegion s rid with
    | some r => (r.children.flatMap (familyOf s n)) ++ [rid]
    | none => []

/-- A core's waiting messages of a region are discarded. -/
def dropMessages (rid : Nat) (s : State) (core : Nat) : State :=
  let k := getCore s core
  (k.tagWait).foldl (fun s e =>
    let gone := e.2.filter fun i => mboxRegion k i == rid
    let left := e.2.filter fun i => mboxRegion k i != rid
    if gone.isEmpty then s
    else
      let s1 := modCore s core fun k => { k with tagWait := tset k.tagWait e.1 left }
      let s2 := putTag s1 core e.1 47 40 left.length
      let s3 := if left.isEmpty then putTag s2 core e.1 29 29 0 else s2
      gone.foldl (fun s i => releaseMbox s core i) s3) s

/-- A region's entries in bags, ready queues and mailboxes are discarded. -/
def dropEntries (s : State) (rid : Nat) : State :=
  let s1 := { s with cores := s.cores.map fun e =>
      (e.1, { e.2 with
        bag := e.2.bag.filter fun x => x.1 != rid
        heldBounces := e.2.heldBounces.filter fun b => gtidRegion b.1.who.gtid != rid }) }
  let s2 := (List.range 8).foldl (fun s d =>
    let gone := (getDie s d).ready.filter fun e => e.region == rid
    gone.foldl discardEntry (modDie s d fun k => { k with ready := k.ready.filter fun e => e.region != rid })) s1
  (s2.cores.map Prod.fst).foldl (dropMessages rid) s2

/-- The saved tasks of regions being killed end, those whose core's tracker has room for their counts (12 R238). -/
def endSaved (s : State) : State :=
  ((s.saved.filter fun v => isDying s v.region).map fun v => v.rest.gtid).foldl (fun s g =>
    match s.saved.findIdx? fun v => v.rest.gtid == g with
    | some n => match s.saved[n]? with
      | some v => if killWaits s v.core v.rest then s else killSaved s n v
      | none => s
    | none => s) s

/-- Every task of a region being killed ends: saved and queued ones at once, those in slots where they can be stopped. -/
def killTasks (s : State) (rid : Nat) : State :=
  let s1 := endSaved s
  let qs := s1.cores.flatMap fun e => ((e.2.runq ++ e.2.runHold).filter fun q => q.region == rid).map fun q => (e.1, q)
  let s2 := qs.foldl (fun s e => killQueued s e.1 e.2) s1
  { s2 with cores := s2.cores.map fun e =>
      (e.1, { e.2 with slots := e.2.slots.map fun x =>
        (x.1, if x.2.held && x.2.region == rid then { x.2 with stop := some true } else x.2) }) }

/-- One region of a killed family begins to end. -/
def killOne (st cause : Nat) (s : State) (rid : Nat) : State :=
  let s1 := modRegion (fixCause s rid st cause) rid fun r => { r with dying := true }
  killTasks (dropEntries s1 rid) rid

/-- A region and its descendants are killed, the deepest first; descendants end KILLED. -/
def killRegion (s : State) (rid st cause : Nat) : State :=
  let f := familyOf s 4096 rid
  killOne st cause ((f.filter fun r => r != rid).foldl (killOne 7 2) s) rid

/-- The region whose RCB lies at a physical address. -/
def regionAt (s : State) (pa : Nat) : Option Region := (s.regions.find? fun e => e.2.rcbPa == pa).map Prod.snd

/-- KILL (R315): from the host, or from a task of the region's parent. -/
def killStep (m : Msg) (s : State) : State :=
  match (startPlace s m).bind fun p => regionAt s p.1 with
  | none => s
  | some r =>
    if fromHost m || (r.parent != 0 && r.parent == gtidRegion m.who.gtid) then killRegion s r.id 7 2 else s

def execKill (m : Msg) (s : State) : Host.Outcome State Fault Refusal := always (killStep m) s

/-! ## Completion (R315) -/

/-- Whether a region completes now. -/
def canComplete (s : State) (rid : Nat) : Bool :=
  match getRegion s rid with
  | none => false
  | some r =>
    (regStatus s r == 2 || regStatus s r == 3) && rcbWord s r 24 == 0 && r.children.isEmpty

/-- The final STATUS and CAUSE: a log that holds entries comes first (12 R250). -/
def finalStatus (s : State) (r : Region) : Nat × Nat :=
  if logCount s r != 0 then (6, if rcbField s r 4 60 60 == 1 then 5 else 4)
  else r.killCause.getD (4, 0)

/-- Live regions other than one that are granted a cluster, oldest first. -/
def othersOn (s : State) (rid k : Nat) : List Region :=
  sortBy (fun r => r.startOrder) ((s.regions.filter fun e => e.1 != rid && (regionClusters s e.2).contains k).map Prod.snd)

/-- The tag entries a region loaded on a core return to V = 0; the shared ones pass to the region that has used the
cluster longest (15 R419). -/
def unloadTags (s : State) (r : Region) (k : Nat) (s0 : State) (core : Nat) : State :=
  let own := (getCore s0 core).tagOwner.filter fun e => e.2 == r.id
  own.foldl (fun t e =>
    match if 0xFC ≤ e.1 then (othersOn s r.id k).head? else none with
    | some o =>
      modCore (putTag t core e.1 22 19 (setIndex (getCluster s k) o)) core fun c =>
        { c with tagOwner := tset c.tagOwner e.1 o.id }
    | none =>
      modCore (clearTag t core e.1) core fun c => { c with tags := tdel c.tags e.1, tagOwner := tdel c.tagOwner e.1 })
    s0

/-- What completion unloads from one cluster. -/
def unloadCluster (r : Region) (s : State) (k : Nat) : State :=
  let last := (othersOn s r.id k).isEmpty
  let s1 := dropRows s k fun b => b.region == r.id
  let s2 := (taggedCores s1 k).foldl (unloadTags s1 r k) s1
  let s3 := modCluster s2 k fun c =>
    { c with
      sets := c.sets.filter fun e => e.2.region != r.id
      loops := c.loops.filter fun e => e.2.region != r.id
      tlb := c.tlb.filter fun e => e.region != r.id
      mxTlb := c.mxTlb.filter fun e => e.region != r.id }
  if last then modCluster s3 k fun c => { c with image := none, prog := [], rules := [] } else s3

/-- What completion takes from cores, dies and the key slots. -/
def dropRegion (s : State) (rid : Nat) : State :=
  { s with
    regions := tdel s.regions rid
    cores := s.cores.map fun e =>
      (e.1, { e.2 with
        tlb := e.2.tlb.filter fun x => x.region != rid
        freeNodes := e.2.freeNodes.filter fun x => x.1 != rid })
    dies := s.dies.map fun e => (e.1, { e.2 with counts := e.2.counts.filter fun c => c.region != rid })
    host := { s.host with
      keys := s.host.keys.filter fun e => e.2.region != rid
      regionMeasure := tdel s.host.regionMeasure rid } }

/-- The parent's record of a completed child. -/
def tellParent (s : State) (r : Region) (first cause n : Nat) : State :=
  modRegion s r.parent fun p =>
    { p with
      children := p.children.filter fun c => c != r.id
      firstFault := if p.firstFault == 0 then first else p.firstFault
      firstCause := if p.firstFault == 0 then cause else p.firstCause
      nfault := Nat.min 4095 (p.nfault + n) }

/-- A region completes. -/
def completeRegion (s : State) (r : Region) : State :=
  let (st, cause) := finalStatus s r
  let bad := decide (5 ≤ st)
  let first := if r.firstFault != 0 then (r.firstFault, r.firstCause) else if bad then (r.id, cause) else (0, 0)
  let n := Nat.min 4095 (r.nfault + if bad then 1 else 0)
  let jw := w64 ((joinWord st cause).toNat + first.1 % 2 ^ 16 * 2 ^ 32 + first.2 % 256 * 2 ^ 24 + n % 4096 * 2 ^ 12)
  let s1 := rcbPut (rcbPut (dropEntries s r.id) r 0 31 24 st) r 0 23 16 cause
  let s2 := rcbPut (rcbPut s1 r 26 63 0 s.cycle) r 27 63 0 jw.toNat
  let s3 := (regionClusters s2 r).foldl (unloadCluster r) s2
  let s4 := wakeJoins (tellParent (dropRegion s3 r.id) r first.1 first.2 n) r.rcbPa (fun _ => true) jw
  let s5 := if bad && r.fpol && r.parent != 0 then killRegion s4 r.parent 5 3 else s4
  if r.parent != 0 then s5
  else replyStart s5 ((lowestDie r.dies).getD 0) r.startedBy (if r.conf then 0 else r.startedBy.pay.getD 0 0#64) r.id
    (0x80 + st)

/-- REGION_COMPLETE (R315). -/
def regionCompleteStep (rid : Nat) (s : State) : State :=
  if !canComplete s rid then s
  else match getRegion s rid with
    | some r => completeRegion s r
    | none => s

def execRegionComplete (region : Nat) (s : State) : Host.Outcome State Fault Refusal := always (regionCompleteStep region) s

/-! ## JOIN (R316, R317) -/

def joinOp (rd ra : XField) : Op Unit := do
  let s0 ← look
  operands [ra] (.x rd) (getCore s0 s0.cur.core).gang.isSome
  let a ← rdChecked ra
  trapIf (a.toNat % 256 != 0) (tMisalign a)
  let (l, acc) ← devAccess .load a.toNat 256
  let s ← look
  trapIf (locBad s l 256) (tUncorr a)
  stallIf (behindAt s (locPlace l))
  awaitLine ((locPa l).getD 0) 256
  let rid := (curSlot s).region
  let bs := locRead s l s.cur.core rid a.toNat 256
  let w0 := byteWordAt bs 0
  change fun s => countUnits s acc a.toNat 256
  let st := bits w0 31 24
  let pa := (locPa l).getD 0
  if st == 0 then change (parkIn (.join rd.toNat pa))
  else if bits w0 47 32 != rid then wrX rd 1 (joinWord 8 0)
  else if 4 ≤ st then wrX rd 1 (w64 (byteWordAt bs 27))
  else change (parkIn (.join rd.toNat pa))

/-- JOIN. -/
def execJoin (rd ra : XField) (s : State) : Host.Outcome State Fault Refusal := runOp (joinOp rd ra) s

end Sys2Proof.Machine
end

