-- ==== Sys2Proof/Machine/SpecialRegs.lean ====
section
/-! DEFINITION. The special registers (spec 18 R343, R345, 02 R47, R48, 04 R94, R104, R106, 07 R148, 09 R204, 10 R222,
R225, R227, 14 R289, 15 R307, 16 R320, R321, R420, 19 R360, 20 R361, 22 R386, R390) and TRAP. -/

namespace Sys2Proof.Machine

/-! ## The map (R345, R360, R361, R386, R390) -/

/-- Registers a write by a compute core to which is illegal. -/
def srCtl (n : Nat) : Bool :=
  [0x030, 0x031, 0x032, 0x040, 0x041, 0x042, 0x060, 0x428, 0x429, 0x42A, 0x42D, 0x438, 0x439, 0x43B].contains n ||
    (decide (0x400 ≤ n) && decide (n < 0x420))

/-- Write-only registers: TLBINV, HOLDREL and CTREQ. -/
def srWo (n : Nat) : Bool := [0x040, 0x041, 0x042].contains n

/-- The HMAP words of a die (16 R320). -/
def hmapWord (s : State) (d k : Nat) : Word :=
  w64 (bitsOf (((getDie s d).fused.filter fun j => j / 64 == k).map fun j => j % 64) 64)

/-- DIECFG (16 R320). -/
def dieCfg (s : State) (d : Nat) : Word :=
  let k := getDie s d
  let dies := ((List.range 8).filter fun e => !(getDie s e).excluded).length
  w64 (s.chipId % 256 * 2 ^ 56 + dies * 2 ^ 48 + d % 8 * 2 ^ 40 + k.live % 512 * 2 ^ 16 + k.gen % 65536)

/-- L2PRD (16 R321). -/
def l2prd (s : State) (t : Slot) : Word :=
  match (getDie s (bits t.l2psel.toNat 11 9)).table[bits t.l2psel.toNat 8 0]? with
  | some c => w64 (2 ^ 15 + c % 4096)
  | none => 0

/-- GANGIX (09 R204). -/
def gangIx (s : State) (c : Nat) : Word :=
  match (getCore s c).gang with
  | some g => w64 ((c - g.base) % 16 + g.size % 16 * 16)
  | none => 0x10

/-- Registers of a slot. -/
def srSlot (s : State) (c : Nat) (t : Slot) (n : Nat) : Option Word :=
  match n with
  | 0x000 => some (w64 s.cycle)
  | 0x001 => some (w64 c)
  | 0x002 => some t.gtid
  | 0x003 => some (gangIx s c)
  | 0x004 => some (dieCfg s (dieOf c))
  | 0x00E => some t.l2psel
  | 0x00F => some (l2prd s t)
  | 0x010 => some t.fpflg
  | 0x011 => some t.fpen
  | 0x012 => some t.fpctl
  | 0x014 => some t.spbad
  | 0x015 => some (w64 (oscOf t))
  | 0x018 => some t.mprog
  | 0x019 => some t.mpva
  | 0x01A => some t.mpvb
  | 0x420 => some t.bphit
  | _ => none

/-- Registers of a core and of its cluster. -/
def srCore (s : State) (c n : Nat) : Option Word :=
  let k := getCore s c
  match n with
  | 0x013 => some k.fpint
  | 0x020 => some k.ncalloc
  | 0x021 => some k.ncfree
  | 0x022 => some k.ncclaim
  | 0x023 => some k.ncfail
  | 0x024 => some k.ncdefer
  | 0x025 => some k.nclink
  | 0x026 => some k.ncdead
  | 0x030 => some k.rqwt
  | 0x031 => some k.rqlot
  | 0x032 => some (getCluster s (clusterOf c)).mxlot
  | 0x040 => some (if k.tlbBusy.isSome then 1 else 0)
  | 0x041 => some (if k.holdBusy.isSome then 1 else 0)
  | 0x042 => some (w64 ((if k.ctResult then 2 else 0) + if k.ctBusy then 1 else 0))
  | 0x430 => some k.tswait
  | 0x431 => some (w64 s.cycle - k.tsrun)
  | 0x432 => some k.tsrun
  | _ => none

/-- Registers of a die and of the package. -/
def srDie (s : State) (d n : Nat) : Option Word :=
  let k := getDie s d
  match n with
  | 0x060 => some s.pwrcap
  | 0x061 => some (w64 (s.pkgPwr % 65536 * 2 ^ 48 + k.pwr % 65536 * 2 ^ 32 + s.duty % 512))
  | 0x062 => some k.energy
  | 0x428 => some k.trbase
  | 0x429 => some k.trsize
  | 0x42A => some k.trhead
  | 0x42B => some k.trtail
  | 0x42C => some k.trdrop
  | 0x42D => some k.trctl
  | 0x433 => some k.tssteal
  | 0x438 => some k.rpbase
  | 0x439 => some k.rpsize
  | 0x43A => some k.rpidx
  | 0x43B => some k.rprgn
  | _ =>
    if 0x008 ≤ n ∧ n ≤ 0x00D then some (hmapWord s d (n - 8))
    else if 0x050 ≤ n ∧ n ≤ 0x057 then some (tget k.ec (n - 0x50) 0)
    else if 0x400 ≤ n ∧ n < 0x420 then some (if n % 2 = 0 then tget k.bpg ((n - 0x400) / 2) 0 else tget k.bpc ((n - 0x400) / 2) 0)
    else none

/-- A register as slot (c, i) reads it; none for an unassigned number. -/
def srRead (s : State) (c i n : Nat) : Option Word :=
  match srSlot s c (getSlot s c i) n with
  | some w => some w
  | none =>
    match srCore s c n with
    | some w => some w
    | none => srDie s (dieOf c) n

/-! ## Plain writes (18 R345): what is stored of a value -/

/-- A slot register after a write. -/
def putSlotReg (t : Slot) (n : Nat) (v : Word) : Slot :=
  match n with
  | 0x00E => { t with l2psel := v &&& 0xFFF#64 }
  | 0x010 => { t with fpflg := v &&& 0x3F#64 }
  | 0x011 => { t with fpen := v &&& 0x3F#64 }
  | 0x014 => { t with spbad := v &&& spbadMask }
  | 0x018 => { t with mprog := v &&& mprogMask }
  | 0x019 => { t with mpva := v &&& mpvaMask }
  | 0x01A => { t with mpvb := v &&& mpvbMask }
  | 0x420 => { t with bphit := v &&& 0x3F#64 }
  | _ => t

def putCoreReg (k : Core) (n : Nat) (v : Word) : Core :=
  match n with
  | 0x013 => { k with fpint := v &&& 0xFFF#64 }
  | 0x030 => { k with rqwt := v &&& 0xFFFFFFFF#64 }
  | _ => k

/-- A die register after a write; TRBASE is read in the mapping of the writer's region. -/
def putDieReg (k : Die) (rid n : Nat) (v : Word) : Die :=
  match n with
  | 0x428 => { k with trbase := v, trRegion := rid }
  | 0x429 => { k with trsize := v }
  | 0x42A => { k with trhead := v }
  | 0x42D => { k with trctl := v &&& 3#64 }
  | 0x438 => { k with rpbase := v }
  | 0x439 => { k with rpsize := v }
  | 0x43B => { k with rprgn := v &&& 0xFFFF#64 }
  | _ =>
    if 0x400 ≤ n ∧ n < 0x420 then
      if n % 2 = 0 then { k with bpg := tset k.bpg ((n - 0x400) / 2) v }
      else { k with bpc := tset k.bpc ((n - 0x400) / 2) (v &&& 0xE0FFFFFFFFFFFFFF#64) }
    else k

/-- A write to a register with no behaviour of its own; a read-only one ignores it. -/
def srPlain (n : Nat) (v : Word) (s : State) : State :=
  let c := s.cur.core
  let s1 := modSlot s c s.cur.slot fun t => putSlotReg t n v
  let s2 := modCore s1 c fun k => putCoreReg k n v
  modDie s2 (dieOf c) fun k => putDieReg k (curSlot s).region n v

/-! ## Writes with behaviour -/

/-- FPCTL: the RM codes 0b101 to 0b111 leave RM unchanged (02 R47). -/
def putFpctl (v : Word) (s : State) : State := modCur s fun t => { t with fpctl := fpctlAfter t.fpctl v.toNat }

/-- A lottery state: 0 stores 1. -/
def lotteryWord (v : Word) : Word := if v &&& 0xFFFFFFFF#64 == 0 then 1 else v &&& 0xFFFFFFFF#64

def putRqlot (v : Word) (s : State) : State := modCore s s.cur.core fun k => { k with rqlot := lotteryWord v }

def putMxlot (v : Word) (s : State) : State := modCluster s (clusterOf s.cur.core) fun k => { k with mxlot := lotteryWord v }

/-- PWRCAP: clamped to 2,000 to 3,600 (22 R390). -/
def putPwrcap (v : Word) (s : State) : State :=
  { s with pwrcap := w64 (Nat.max 2000 (Nat.min 3600 (v.toNat % 4096))) }

/-! ## TLBINV (04 R94) -/

/-- Whether an entry is covered: region (none for every) and a VA (none for all of it). -/
def covered (rid va : Option Nat) (e : TlbEntry) : Bool :=
  (match rid with
   | some r => e.region == r
   | none => true) &&
  (match va with
   | some a => decide (e.va ≤ a) && decide (a < e.va + e.size)
   | none => true)

/-- Covered entries are dropped from every TLB of the package; BUSY stands until earlier accesses are performed. -/
def invalidate (rid va : Option Nat) (s : State) : State :=
  let keep := fun (l : List TlbEntry) => l.filter fun e => !covered rid va e
  let s1 := { s with
    cores := s.cores.map fun e => (e.1, { e.2 with tlb := keep e.2.tlb })
    clusters := s.clusters.map fun e => (e.1, { e.2 with tlb := keep e.2.tlb, mxTlb := keep e.2.mxTlb }) }
  modCore s1 s.cur.core fun k => { k with tlbBusy := some s.nextFlight }

def putTlbPage (vpn : Nat) (s : State) : State := invalidate (some (curSlot s).region) (some (4096 * vpn)) s

def putTlbRegion (s : State) : State := invalidate (some (curSlot s).region) none s

def putTlbEvery (s : State) : State := invalidate none none s

/-- The write of TLBINV by its SCOPE. -/
def putTlbinv (v : Word) (s : State) : State :=
  match bits v.toNat 5 4 with
  | 0 => putTlbPage (bits v.toNat 55 12) s
  | 1 => putTlbRegion s
  | 2 => putTlbEvery s
  | _ => s

/-- Whether an item in flight carries a translated address. -/
def isTranslated (e : Event) : Bool :=
  let dev := fun (l : Loc) => match l with
    | .sp _ _ => false
    | .phys _ _ => true
    | .held _ _ _ _ => true
  match e with
  | .remoteWrite w => dev w.loc
  | .remoteRead r => dev r.loc
  | .atomicMessage a => dev a.loc
  | .stnMessage w => dev w.loc
  | _ => false

/-- Whether an access that left before item n, or waits inside a core or a gate, is still to be performed. -/
def accessesLeft (s : State) (n : Nat) : Bool :=
  (s.flights.any fun f => decide (f.id < n) && isTranslated f.act) ||
    s.cores.any fun e =>
      (e.2.heldRel.any fun h => decide (h.num < n) && isTranslated h.ev) ||
      (match e.2.pair with
       | some p => p.gate.any fun f => decide (f.id < n) && isTranslated f.act
       | none => false)

/-- Whether a core's invalidation ends now. -/
def tlbReady (s : State) (core : Nat) : Bool :=
  match (getCore s core).tlbBusy with
  | some n => !accessesLeft s n
  | none => false

/-- Whether a TLB entry translates a page of a root under write-block. -/
def blocks (s : State) (r : Released) (e : TlbEntry) : Bool :=
  pteWb e.leaf && rootOf s e.region == r.root && decide (e.va < r.va + r.size) && decide (r.va < e.va + e.size)

/-- Whether an item in flight is a held write of a page. -/
def holdsWrite (r : Released) (e : Event) : Bool :=
  let at_ := fun (l : Loc) (va : Word) =>
    (match l with
     | .held _ c _ _ => c == r.ctl
     | .phys _ _ => false
     | .sp _ _ => false) && decide (r.va ≤ va.toNat) && decide (va.toNat < r.va + r.size)
  match e with
  | .remoteWrite w => at_ w.loc w.va
  | .stnMessage w => at_ w.loc w.va
  | .atomicMessage a => at_ a.loc a.va
  | _ => false

/-- Whether writes under write-block may still come to a released page: its leaf blocks, or a TLB or a write in flight
carries a blocking translation of it. -/
def stillBlocked (s : State) (r : Released) : Bool :=
  (match walkFrom s ((s.regions.find? fun e => e.2.ptroot == r.root).elim 0 Prod.fst) r.va 3 r.root with
   | .ok lf => pteWb lf.word
   | .error _ => false) ||
  (s.cores.any fun e => e.2.tlb.any (blocks s r)) ||
  (s.clusters.any fun e => e.2.tlb.any (blocks s r) || e.2.mxTlb.any (blocks s r)) ||
  (s.flights.any fun f => holdsWrite r f.act) || s.cores.any fun e =>
    (e.2.heldRel.any fun h => holdsWrite r h.ev) ||
    (match e.2.pair with
     | some p => p.gate.any fun f => holdsWrite r f.act
     | none => false)

/-- TLB_INVALIDATION_DONE: BUSY clears; pages whose leaf has WB = 0 again are ordinary (04 R104, step 5). -/
def tlbDoneStep (core : Nat) (s : State) : State :=
  if !tlbReady s core then s
  else
    let s1 := modCore s core fun k => { k with tlbBusy := none }
    { s1 with dies := s1.dies.map fun e => (e.1, { e.2 with released := e.2.released.filter (stillBlocked s1) }) }

def execTlbInvalidationDone (core : Nat) (s : State) : Host.Outcome State Fault Refusal := always (tlbDoneStep core) s

/-! ## HOLDREL (04 R104, R106) -/

/-- The current leaf of a region's page, and its hold controller. -/
def pageNow (s : State) (rid va : Nat) : Option (Leaf × Nat × Nat) :=
  match getRegion s rid with
  | none => none
  | some r =>
    match walkFrom s rid va 3 r.ptroot with
    | .ok lf => some (lf, holdController s lf.va / 8, holdController s lf.va % 8)
    | .error _ => none

/-- Whether a held write is one of a page. -/
def heldOf (root : Nat) (lf : Leaf) (h : HeldWrite) : Bool :=
  h.root == root && decide (lf.va ≤ h.w.va.toNat) && decide (h.w.va.toNat < lf.va + lf.size)

/-- The page's held writes are applied in queue order to the copy its leaf names; while writes may come under write-block,
its later ones apply on arrival. A write to absent memory is lost (01 R23). -/
def releasePage (s : State) (rid va : Nat) : State :=
  match pageNow s rid va with
  | none => s
  | some (lf, d, c) =>
    let root := rootOf s rid
    let q := holdQueue s d c
    let r : Released := ⟨c, root, lf.va, lf.size⟩
    let s1 := modDie s d fun k =>
      { k with
        holdq := tset k.holdq c (q.filter fun h => !heldOf root lf h)
        released := if stillBlocked s r && !k.released.contains r then k.released ++ [r] else k.released }
    (q.filter (heldOf root lf)).foldl (fun s h =>
      let pa := leafPa lf h.w.va.toNat
      if paPresent s pa then physApply s pa (pteKey lf.word) h.w else s) s1

/-- The write of HOLDREL: a release with no held writes completes at once; one of a VA that does not translate does nothing
(DESIGN CHOICE, log 22). -/
def putHoldrel (vpn : Nat) (s : State) : State :=
  let rid := (curSlot s).region
  let va := 4096 * vpn
  match pageNow s rid va with
  | none => s
  | some (lf, d, c) =>
    if (holdQueue s d c).any (heldOf (rootOf s rid) lf) then
      modCore s s.cur.core fun k => { k with holdBusy := some (rid, va) }
    else releasePage s rid va

/-- HOLD_RELEASE_DONE: the writes are applied and BUSY clears. -/
def holdDoneStep (core : Nat) (s : State) : State :=
  match (getCore s core).holdBusy with
  | none => s
  | some (rid, va) => modCore (releasePage s rid va) core fun k => { k with holdBusy := none }

def execHoldReleaseDone (core : Nat) (s : State) : Host.Outcome State Fault Refusal := always (holdDoneStep core) s

/-! ## CTREQ (22 R386) -/

/-- The table image at a physical address. -/
def tableImage (s : State) (pa : Nat) : List Nat := (mgets s.mem pa 128).map BitVec.toNat

/-- The write of CTREQ: a valid table stops injection between dies until the network is empty. -/
def putCtreq (v : Word) (s : State) : State :=
  let pa := bits v.toNat 51 7 * 128
  let t := tableImage s pa
  if !inDram s pa || !tableOk s t then modCore s s.cur.core fun k => { k with ctResult := true }
  else modCore { s with ctChange := some ⟨s.cur.core, t, 0⟩ } s.cur.core fun k => { k with ctBusy := true }

/-! ## One write -/

/-- Whether a register's BUSY makes a write wait. -/
def srBusy (s : State) (n : Nat) : Bool :=
  let k := getCore s s.cur.core
  match n with
  | 0x040 => k.tlbBusy.isSome
  | 0x041 => k.holdBusy.isSome
  | 0x042 => s.ctChange.isSome
  | _ => false

/-- A write of v to register n. -/
def srPut (n : Nat) (v : Word) (s : State) : State :=
  match n with
  | 0x012 => putFpctl v s
  | 0x031 => putRqlot v s
  | 0x032 => putMxlot v s
  | 0x040 => putTlbinv v s
  | 0x041 => putHoldrel (bits v.toNat 55 12) s
  | 0x042 => putCtreq v s
  | 0x060 => putPwrcap v s
  | _ => srPlain n v s

/-- What the three write forms make of the old value and the source. -/
inductive SrForm where
  | write | set | clear
deriving DecidableEq, Repr

def srNew (f : SrForm) (old v : Word) : Word :=
  match f with
  | .write => v
  | .set => old ||| v
  | .clear => old &&& ~~~v

/-- SRWR, SRSET and SRCLR (18 R345). -/
def srwrOp (f : SrForm) (rs : XField) (sr : BitVec 12) : Op Unit := do
  let s ← look
  let n := sr.toNat
  let old := srRead s s.cur.core s.cur.slot n
  operands [rs] .none (old.isNone || (f != .write && srWo n) || (isCompute s.cur.core && srCtl n))
  stallIf (srBusy s n)
  let v ← rdX rs
  change (srPut n (srNew f (old.getD 0) v))

/-- SRWR. -/
def execSrwr (rs : XField) (sr : BitVec 12) (s : State) : Host.Outcome State Fault Refusal := runOp (srwrOp .write rs sr) s

/-- SRSET. -/
def execSrset (rs : XField) (sr : BitVec 12) (s : State) : Host.Outcome State Fault Refusal := runOp (srwrOp .set rs sr) s

/-- SRCLR. -/
def execSrclr (rs : XField) (sr : BitVec 12) (s : State) : Host.Outcome State Fault Refusal := runOp (srwrOp .clear rs sr) s

/-- L2PSEL.IX advances (16 R321). -/
def advanceIx (t : Slot) : Slot := { t with l2psel := w64 (putBits t.l2psel.toNat 8 0 (t.l2psel.toNat + 1)) }

/-- SRRD (18 R345). -/
def srrdOp (rd : XField) (n : Nat) : Op Unit := do
  let s ← look
  let v := srRead s s.cur.core s.cur.slot n
  operands [] (.x rd) v.isNone
  if n == 0x00F then change fun s => modCur s advanceIx
  wrX rd 1 (v.getD 0)

/-- SRRD. -/
def execSrrd (rd : XField) (sr : BitVec 12) (s : State) : Host.Outcome State Fault Refusal := runOp (srrdOp rd sr.toNat) s

/-! ## The steps a register access consists of -/

/-- TLBINV_PAGE. -/
def execTlbinvPage (vpn : BitVec 44) (s : State) : Host.Outcome State Fault Refusal := always (putTlbPage vpn.toNat) s

/-- TLBINV_REGION. -/
def execTlbinvRegion (s : State) : Host.Outcome State Fault Refusal := always putTlbRegion s

/-- TLBINV_EVERY_REGION. -/
def execTlbinvEveryRegion (s : State) : Host.Outcome State Fault Refusal := always putTlbEvery s

/-- HOLDREL. -/
def execHoldrel (vpn : BitVec 44) (s : State) : Host.Outcome State Fault Refusal := always (putHoldrel vpn.toNat) s

/-- CTREQ. -/
def execCtreq (v : Word) (s : State) : Host.Outcome State Fault Refusal := always (putCtreq v) s

/-- MXLOT_WRITE. -/
def execMxlotWrite (v : Word) (s : State) : Host.Outcome State Fault Refusal := always (putMxlot v) s

/-- RQLOT_WRITE. -/
def execRqlotWrite (v : Word) (s : State) : Host.Outcome State Fault Refusal := always (putRqlot v) s

/-- FPCTL_WRITE. -/
def execFpctlWrite (v : Word) (s : State) : Host.Outcome State Fault Refusal := always (putFpctl v) s

/-- PWRCAP_WRITE. -/
def execPwrcapWrite (v : Word) (s : State) : Host.Outcome State Fault Refusal := always (putPwrcap v) s

/-- L2PRD_READ: the entry goes to x[rd] and the index advances. -/
def execL2prdRead (rd : XField) (s : State) : Host.Outcome State Fault Refusal := runOp (srrdOp rd 0x00F) s

/-- ALOGCNT_CLEAR (16 R420): software writes 0 to a region's ALOGCNT. A write performed in memory does the same at once
(`sawClear`). -/
def execAlogcntClear (region : Nat) (s : State) : Host.Outcome State Fault Refusal := always (alogClearStep region) s

/-! ## TRAP (18 R343) -/

/-- TRAP: the SOFT trap with its immediate and x[ra]. -/
def execTrap (ra : XField) (imm : BitVec 10) (s : State) : Host.Outcome State Fault Refusal :=
  runOp (do
    operands [ra] .none false
    let v ← rdX ra
    raise (tSoft imm.toNat v)) s

end Sys2Proof.Machine
end

