-- ==== Sys2Proof/Machine/HostPort.lean ====
section
/-! DEFINITION. The host port and the security processor (spec 21 R370-R380, 04 R107, R108). -/

namespace Sys2Proof.Machine

/-! ## Memory traffic of the ports -/

/-- EXPANDER_SNOOP (04 R108): answered at once, with no data. -/
def execExpanderSnoop (port addr : Nat) (s : State) : Host.Outcome State Fault Refusal :=
  always (fun s => emit s (.snoopReply port addr)) s

/-- Lines a controller's snoop filter tracks. -/
def filterSize : Nat := 32768

/-- A line the host reads is tracked; a full filter first back-invalidates its oldest line (21 R371). -/
def trackLine (s : State) (x : Nat) : State :=
  let ls := snoopLines s (64 * x)
  if ls.contains x then s
  else
    let s1 := match ls with
      | old :: _ => if filterSize ≤ ls.length then askLine s old else s
      | [] => s
    modDie s1 (paDie (64 * x)) fun d => { d with snoop := tset d.snoop (paCtl (64 * x)) (ls ++ [x]) }

/-- Host memory as the package names it. -/
def inHostWindow (pa : Nat) : Bool := decide (2 ^ 49 ≤ pa) && decide (pa < 2 ^ 49 + 2 ^ 44)

/-- HOST_MEMORY_ACCESS (21 R371): the stored bytes, as they are; the host also changes its own memory. -/
def hostAccessStep (pa : Nat) (write : Option (List Byte)) (len : Nat) (cached : Bool) (s : State) : State :=
  if inHostWindow pa then
    match write with
    | some d => physWrite s pa 0 d
    | none => s
  else if !inDram s pa || inReserved pa then s
  else
    match write with
    | some d => physWrite s pa 0 d
    | none =>
      let s1 := if cached then
          ((List.range ((pa + len + 63) / 64 - pa / 64)).map fun i => pa / 64 + i).foldl trackLine s
        else s
      emit s1 (.hostData pa (mgets s.mem pa len))

def execHostMemoryAccess (pa : Nat) (write : Option (List Byte)) (len : Nat) (cached : Bool) (s : State) :
    Host.Outcome State Fault Refusal :=
  always (hostAccessStep pa write len cached) s

/-! ## Messages from the host (R372, R373) -/

def dropHost (s : State) : State :=
  { s with host := { s.host with hmdrop := (s.host.hmdrop + 1) &&& 0xFFFFFFFF#64 } }

/-- HOST_MESSAGE_WRITE (R372): one message, once the window is open (R375, step 5). -/
def hostMessageStep (off : Nat) (words : List Word) (s : State) : State :=
  let h := words.getD 0 0#64
  if s.host.stage < 5 then s
  else if off % 64 != 0 || words.length != 8 || 0xFC ≤ hdrTag h then dropHost s
  else sendMsg s 4095 (h &&& 0x7FFFFFFF#64) ((words.drop 1).take (hdrNpay h)) (noWho 4095) false

def execHostMessageWrite (off : Nat) (words : List Word) (s : State) : Host.Outcome State Fault Refusal :=
  always (hostMessageStep off words) s

/-- HRHEAD_WRITE (R373): no interrupt is outstanding any more. -/
def putHrhead (v : Word) (s : State) : State :=
  { s with host := { s.host with hrhead := v &&& 0xFFFF#64, intOut := false } }

def execHrheadWrite (v : Word) (s : State) : Host.Outcome State Fault Refusal := always (putHrhead v) s

/-! ## Security requests (R374, R376-R380) -/

/-- A list of exactly n bytes. -/
def fitBytes (n : Nat) (l : List Byte) : List Byte := l.take n ++ List.replicate (n - l.length) 0#8

/-- Host memory from a host physical address. -/
def hostRead (s : State) (a n : Nat) : List Byte := physRead s (hostPa a) 0 n

/-- The request runs until SECURITY_REQUEST_DONE. -/
def secAnswer (s : State) (result rslot : Nat) : State :=
  later { s with host := { s.host with busy := true } } (.securityRequestDone result rslot)

/-- The signed part of a report (R377). -/
def reportBody (s : State) (region : Nat) : List Byte :=
  let m := if region == 0 then [] else tget s.host.regionMeasure region []
  natLe 8 1 ++ fitBytes 32 (hostRead s s.host.secbuf.toNat 32) ++ fitBytes 64 s.host.measure ++ fitBytes 64 m ++
    natLe 2 region ++ fitBytes 1568 Config.kemPublicKey ++ List.replicate 26 0#8 ++ List.replicate 492 0#8

/-- The leaves of an XMSS key (R376). -/
def xmssLeaves : Nat := 2 ^ 20

/-- ATTEST (R377): the leaf counter advances before the signature leaves (R376). -/
def attestStep (region : Nat) (s : State) : State :=
  if s.host.busy then s
  else if region != 0 && (getRegion s region).isNone then secAnswer s 5 0
  else if xmssLeaves ≤ s.host.leaf then secAnswer s 3 0
  else
    let body := reportBody s region
    let sig := fitBytes 2820 (Config.xmssSign s.host.leaf body)
    let s1 := { s with host := { s.host with leaf := s.host.leaf + 1 } }
    secAnswer (physWrite s1 (hostPa (s.host.secbuf.toNat + 64)) 0 (body ++ sig)) 0 0

def execAttest (region : Nat) (s : State) : Host.Outcome State Fault Refusal := always (attestStep region) s

/-- The lowest free key slot. -/
def freeKey (s : State) : Option Nat := ((List.range 511).map fun i => i + 1).find? fun i => (tfind s.host.keys i).isNone

/-- A key is installed; a live region whose KEY names the slot is opened to Turfy by DEBUG (R379). -/
def installKey (s : State) (slot region : Nat) (key : List Byte) (dbg : Bool) : State :=
  let s1 := { s with host := { s.host with keys := tset s.host.keys slot ⟨region, key, dbg⟩ } }
  modRegion s1 region fun r => { r with debug := if r.key == slot then dbg else r.debug }

/-- KEYLOAD (R378). -/
def keyloadStep (region : Nat) (dbg : Bool) (s : State) : State :=
  if s.host.busy then s
  else if region == 0 then secAnswer s 1 0
  else match Config.kemDecapsulate (hostRead s s.host.secbuf.toNat 1568) with
    | none => secAnswer s 4 0
    | some secret =>
      match freeKey s with
      | none => secAnswer s 2 0
      | some n => secAnswer (installKey s n region (shake256 (secret ++ Config.slotBytes n)) dbg) 0 n

def execKeyload (region : Nat) (dbg : Bool) (s : State) : Host.Outcome State Fault Refusal := always (keyloadStep region dbg) s

/-- KEYFREE (R378, R380): not of a slot whose region is live. -/
def keyfreeStep (slot : Nat) (s : State) : State :=
  if s.host.busy then s
  else match tfind s.host.keys slot with
    | none => secAnswer s 1 0
    | some k =>
      if (getRegion s k.region).isSome then secAnswer s 1 0
      else secAnswer { s with host := { s.host with keys := tdel s.host.keys slot } } 0 0

def execKeyfree (_region slot : Nat) (s : State) : Host.Outcome State Fault Refusal := always (keyfreeStep slot) s

/-- SECURITY_REQUEST_DONE. -/
def secDoneStep (result rslot : Nat) (s : State) : State :=
  { s with host := { s.host with busy := false, result := result, rslot := rslot } }

def execSecurityRequestDone (result rslot : Nat) (s : State) : Host.Outcome State Fault Refusal :=
  always (secDoneStep result rslot) s

/-! ## The control page (R374) -/

/-- A write of offset 0x030: the request it starts. -/
def startRequest (v : Word) (s : State) : State :=
  if s.host.busy then s
  else match bits v.toNat 3 0 with
    | 1 => attestStep (bits v.toNat 19 4) s
    | 2 => keyloadStep (bits v.toNat 19 4) (bit v.toNat 29) s
    | 3 => keyfreeStep (bits v.toNat 28 20) s
    | _ => secAnswer s 1 0

/-- A write to the control page; other offsets ignore it. -/
def pageWrite (off : Nat) (v : Word) (s : State) : State :=
  match off with
  | 0x000 => { s with host := { s.host with hrbase := v &&& 0xFFFFFFFFFFFFF000#64 } }
  | 0x008 => { s with host := { s.host with hrsize := v &&& 0x1FFFF#64 } }
  | 0x010 => putHrhead v s
  | 0x030 => startRequest v s
  | 0x038 => { s with host := { s.host with secbuf := v &&& 0xFFFFFFFFFFFFF000#64 } }
  | 0x048 => { s with host := { s.host with rssel := v &&& 0xFFFF#64 } }
  | _ => s

/-- What the host reads at a control-page offset; write-only fields and other offsets read zero. -/
def pageRead (s : State) (off : Nat) : Word :=
  let h := s.host
  let rs := h.rssel.toNat
  match off with
  | 0x000 => h.hrbase
  | 0x008 => h.hrsize
  | 0x010 => h.hrhead
  | 0x018 => h.hrtail &&& 0xFFFF#64
  | 0x020 => h.hmdrop
  | 0x028 => w64 (h.cap % 2 ^ 10 * 2 ^ 32 + h.err % 256 * 2 ^ 16 + h.stage % 256 * 2 ^ 8 + h.live % 256)
  | 0x038 => h.secbuf
  | 0x040 => w64 ((if h.busy then 2 ^ 63 else 0) + h.rslot % 2 ^ 9 * 2 ^ 16 + h.result % 256)
  | 0x048 => h.rssel
  | 0x050 => tget h.rscyc rs 0#64
  | 0x058 => tget h.rsenrg rs 0#64
  | 0x060 => tget h.rsbyte rs 0#64
  | _ => 0

/-- REGISTER_WRITE: the host's write of a control-page offset, or the bundle's of a special register. -/
def registerWriteStep (page : Bool) (n : Nat) (v : Word) (s : State) : State := if page then pageWrite n v s else srPut n v s

def execRegisterWrite (page : Bool) (n : BitVec 12) (v : Word) (s : State) : Host.Outcome State Fault Refusal :=
  always (registerWriteStep page n.toNat v) s

end Sys2Proof.Machine
end

