-- ==== Sys2Proof/Machine/Power.lean ====
section
/-! DEFINITION. The power governor and telemetry (spec 22 R389, R390), and boot (21 R375-R377, 16 R320, R321). -/

namespace Sys2Proof.Machine

/-! ## Power -/

/-- The duty after a comparison of n readings that sum to `total` with the cap. -/
def newDuty (total n cap duty : Nat) : Nat :=
  if cap * n < total then Nat.max 16 (duty - 16)
  else if total + 100 * n < cap * n then Nat.min 256 (duty + 8)
  else duty

/-- GOVERNOR_TICK (R389): the average runs over the last ten readings. -/
def governorStep (watts : Nat) (s : State) : State :=
  let l := (s.pwrSum ++ [watts]).drop (s.pwrSum.length + 1 - 10)
  { s with pwrSum := l, duty := newDuty (l.foldl (· + ·) 0) l.length s.pwrcap.toNat s.duty }

def execGovernorTick (watts : Nat) (s : State) : Host.Outcome State Fault Refusal := always (governorStep watts) s

/-- One die's sample: its power, and 1 ms of it in µJ. -/
def sampleDie (s : State) (d w : Nat) : State := modDie s d fun k => { k with pwr := w, energy := k.energy + w64 (w * 1000) }

/-- TELEMETRY_SAMPLE (R390). -/
def telemetryStep (pkg : Nat) (die : List Nat) (s : State) : State :=
  let s1 := die.zipIdx.foldl (fun s e => sampleDie s e.2 e.1) { s with pkgPwr := pkg }
  { s1 with host := { s1.host with
    rsenrg := s1.regions.foldl (fun t e => tset t e.1 (tget t e.1 0 + w64 (Config.regionEnergy e.1 s1.cycle))) s1.host.rsenrg } }

def execTelemetrySample (pkg : Nat) (die : List Nat) (s : State) : Host.Outcome State Fault Refusal :=
  always (telemetryStep pkg die) s

/-! ## Boot -/

/-- What boot found of a die. -/
def bootDie (k : BootPkt) (d : Nat) : BootDie := (k.dies.find? fun b => b.die == d).getD ⟨d, true, []⟩

/-- The package measurement (R377). -/
def packageMeasure (live : List Nat) : List Byte :=
  (([Config.firmwareImage] ++ live.map Config.dieFirmware) ++ [Config.bootConfiguration]).foldl measureFold
    (shake256 Config.romIdentity)

/-- The atomic home table of a die, a copy of its core table at boot (12 R240). -/
def buildHomes (s : State) (d : Nat) : State :=
  modDie s d fun k => { k with homes := (liveCores s d).map fun c => (c, c) }

/-- Whether a die passes: firmware finds it live, and its key still has a leaf to sign the challenge with (R375, R376). -/
def diePasses (k : BootPkt) (s : State) (d : Nat) : Bool := (bootDie k d).live && decide ((getDie s d).leaf < xmssLeaves)

/-- The package once its dies are known: each die that can sign has signed, then harvest maps, core tables and home tables
(R375, steps 2 and 4, R240). -/
def bootDies (k : BootPkt) (s : State) : State :=
  (List.range 8).foldl (fun s d =>
    let pass := diePasses k s d
    let s1 := setDie s d { Die.reset with
      excluded := !pass, fused := (bootDie k d).fused, leaf := Nat.min xmssLeaves ((getDie s d).leaf + 1) }
    if pass then buildHomes (rebuildTable s1 d) d else s1) s

/-- The dies as reset leaves them: their monotonic leaf counters alone keep their values (R376). -/
def resetDies (s : State) : Tab Die := s.dies.map fun e => (e.1, { Die.reset with leaf := e.2.leaf })

/-- Reset and boot (R375): every field returns to its reset value, but for the monotonic leaf counters (R376), and the
steps of boot run. -/
def bootPackage (k : BootPkt) (s : State) : State :=
  let h0 := { HostPort.reset with leaf := s.host.leaf }
  let s0 := { State.reset with chipId := k.chip, host := h0, dies := resetDies s, turns := s.turns, outbox := s.outbox }
  if k.err != 0 then { s0 with host := { h0 with err := k.err, stage := 1 } }
  else
    let live := (List.range 8).filter (diePasses k s)
    let s1 := bootDies k { s0 with expansion := k.expansion }
    { s1 with host := { h0 with
      stage := 5
      cap := 95 * live.length
      live := bitsOf live 8
      measure := packageMeasure live } }

/-- Dies that boot found live. -/
def bootedDies (s : State) : List Nat := (List.range 8).filter fun d => bit s.host.live d

/-- The bank whose refresh window opens in a cycle (06 R137). -/
def windowBank (now : Nat) : Option Nat :=
  if now % 7800 % 162 == 0 && decide (now % 7800 / 162 < 48) then some (now % 7800 / 162) else none

/-- The refresh windows that open in the cycle, on every live die. -/
def windowsAt (s : State) : List Event :=
  match windowBank s.cycle with
  | some n => (bootedDies s).flatMap fun d => (List.range 8).map fun c => .refreshWindow (8 * d + c) n
  | none => []

/-- PACKAGE_RESET (R375): the windows of cycle 0 open with it. -/
def packageResetStep (k : BootPkt) (s : State) : State :=
  let s1 := bootPackage k s
  (windowsAt s1).foldl (fun s e => atCycle s s.cycle e) s1

def execPackageReset (k : BootPkt) (s : State) : Host.Outcome State Fault Refusal := always (packageResetStep k) s

end Sys2Proof.Machine
end

