-- ==== Sys2Proof/Machine/QueueSteps.lean ====
section
/-! DEFINITION. The queue steps of the bundle being executed (spec 11 R229, R68, R69): each is the pop or push of
Machine/Queues.lean, on a core that R68 lets use the register. -/

namespace Sys2Proof.Machine

/-- A pop of queue q as a step: a core that may not read it raises queue misuse. -/
def popStep (q : Nat) : Op Unit := do
  let s ← look
  trapIf (!queueReadable s.cur.core q) (tQueue q)
  let _ ← popQueue q
  pure ()

/-- A push to queue q as a step, its value produced a cycle later (R69). -/
def pushStep (q : Nat) (v : Word) : Op Unit := do
  let s ← look
  trapIf (!queueWritable s.cur.core q) (tQueue q)
  pushQueue q v 1

/-- Q0_PUSH (R230). -/
def execQ0Push (v : Word) (s : State) : Host.Outcome State Fault Refusal := runOp (pushStep 0 v) s

/-- Q1_PUSH (R231). -/
def execQ1Push (v : Word) (s : State) : Host.Outcome State Fault Refusal := runOp (pushStep 1 v) s

/-- Q2_PUSH (R231). -/
def execQ2Push (v : Word) (s : State) : Host.Outcome State Fault Refusal := runOp (pushStep 2 v) s

/-- Q1_POP (R234). -/
def execQ1Pop (s : State) : Host.Outcome State Fault Refusal := runOp (popStep 1) s

/-- Q3_POP (R234). -/
def execQ3Pop (s : State) : Host.Outcome State Fault Refusal := runOp (popStep 3) s

/-- Q4_PUSH (15 R298). -/
def execQ4Push (v : Word) (s : State) : Host.Outcome State Fault Refusal := runOp (pushStep 4 v) s

/-- Q5_PUSH (15 R298). -/
def execQ5Push (v : Word) (s : State) : Host.Outcome State Fault Refusal := runOp (pushStep 5 v) s

/-- Q6_POP (15 R303). -/
def execQ6Pop (s : State) : Host.Outcome State Fault Refusal := runOp (popStep 6) s

/-- Q7_POP (15 R301). -/
def execQ7Pop (s : State) : Host.Outcome State Fault Refusal := runOp (popStep 7) s

/-- Q8_POP (14 R280). -/
def execQ8Pop (s : State) : Host.Outcome State Fault Refusal := runOp (popStep 8) s

/-- Q9_PUSH (14 R280). -/
def execQ9Push (v : Word) (s : State) : Host.Outcome State Fault Refusal := runOp (pushStep 9 v) s

/-- Q10_PUSH (14 R280). -/
def execQ10Push (v : Word) (s : State) : Host.Outcome State Fault Refusal := runOp (pushStep 10 v) s

/-- Q11_POP (14 R280). -/
def execQ11Pop (s : State) : Host.Outcome State Fault Refusal := runOp (popStep 11) s

/-- Q12_PUSH (20 R364). -/
def execQ12Push (v : Word) (s : State) : Host.Outcome State Fault Refusal := runOp (pushStep 12 v) s

/-- Q13_POP (04 R101). -/
def execQ13Pop (s : State) : Host.Outcome State Fault Refusal := runOp (popStep 13) s

end Sys2Proof.Machine
end

