-- ==== Sys2Proof/Machine/Elementary.lean ====
section
/-! DEFINITION. The functions of the special-function unit on exactly held values (spec 11 R232, 02 R54). A result that is
not exactly representable is enclosed in an interval of ever finer scale until both ends round alike (log 15). -/

namespace Sys2Proof.Machine

/-! ## Intervals: all numbers within rad of mid, both times 2^-p -/

structure Ball where
  mid : Int
  rad : Nat
deriving DecidableEq, Repr

def ballAdd (a b : Ball) : Ball := ⟨a.mid + b.mid, a.rad + b.rad⟩

def ballNeg (a : Ball) : Ball := ⟨-a.mid, a.rad⟩

def ballSub (a b : Ball) : Ball := ballAdd a (ballNeg b)

/-- A number of the interval times an integer. -/
def ballScale (a : Ball) (k : Int) : Ball := ⟨a.mid * k, a.rad * k.natAbs⟩

/-- The interval divided by a positive integer. -/
def ballOver (a : Ball) (n : Nat) : Ball := ⟨a.mid / (n : Int), a.rad / n + 2⟩

/-- The interval times 2^k. -/
def ballShift (a : Ball) (k : Int) : Ball :=
  if 0 ≤ k then ballScale a (2 ^ k.toNat : Nat) else ballOver a (2 ^ (-k).toNat)

def ballMul (p : Nat) (a b : Ball) : Ball :=
  ⟨a.mid * b.mid / (2 ^ p : Nat), (a.mid.natAbs * b.rad + b.mid.natAbs * a.rad + a.rad * b.rad) / 2 ^ p + 2⟩

/-- A quotient; a divisor whose interval reaches zero gives an interval that decides nothing. -/
def ballDiv (p : Nat) (a b : Ball) : Ball :=
  if b.mid.natAbs ≤ b.rad then ⟨0, 2 ^ (16 * p)⟩
  else
    ⟨a.mid * (2 ^ p : Nat) / b.mid,
      (a.mid.natAbs * b.rad + b.mid.natAbs * a.rad) * 2 ^ p / (b.mid.natAbs * (b.mid.natAbs - b.rad)) + 2⟩

def ballOne (p : Nat) : Ball := ⟨(2 ^ p : Nat), 0⟩

/-- ±m·2^e at scale p. -/
def ballOf (p : Nat) (neg : Bool) (m : Nat) (e : Int) : Ball :=
  let k := e + p
  let v := if 0 ≤ k then m * 2 ^ k.toNat else m / 2 ^ (-k).toNat
  ⟨if neg then -(v : Int) else v, if 0 ≤ k then 0 else 1⟩

/-- √b for 1 ≤ b ≤ 2. -/
def ballSqrt (p : Nat) (b : Ball) : Ball := ⟨isqrt (b.mid.toNat * 2 ^ p), b.rad + 2⟩

/-! ## Constants -/

/-- The sum of ±2^p/(q^(2i+1)(2i+1)), n terms from term i on; pw is 2^p/q^(2i+1). -/
def invSeries (alt : Bool) (q : Nat) : Nat → Nat → Nat → Int
  | 0, _, _ => 0
  | n + 1, i, pw =>
    let t : Int := (pw / (2 * i + 1) : Nat)
    (if alt && i % 2 == 1 then -t else t) + invSeries alt q n (i + 1) (pw / (q * q))

/-- atan(1/q), or with alt false artanh(1/q), for q ≥ 3. -/
def invAtan (alt : Bool) (p q : Nat) : Ball := ⟨invSeries alt q (p / 3 + 2) 0 (2 ^ p / q), 2 * (p / 3 + 4)⟩

/-- ln 2 = 2 artanh(1/3). -/
def ballLn2 (p : Nat) : Ball := ballScale (invAtan false p 3) 2

/-- π = 16 atan(1/5) - 4 atan(1/239). -/
def ballPi (p : Nat) : Ball := ballSub (ballScale (invAtan true p 5) 16) (ballScale (invAtan true p 239) 4)

/-! ## Series: each sums n terms from term i on, t being the term -/

/-- Σ x^i/i!. -/
def expSeries (p : Nat) (x : Ball) : Nat → Nat → Ball → Ball
  | 0, _, _ => ⟨0, 2⟩
  | n + 1, i, t => ballAdd t (expSeries p x n (i + 1) (ballOver (ballMul p t x) (i + 1)))

/-- Σ (±z)^i·t/(2i+1), z a square. -/
def oddSeries (p : Nat) (z : Ball) : Nat → Nat → Ball → Ball
  | 0, _, _ => ⟨0, 2⟩
  | n + 1, i, t => ballAdd (ballOver t (2 * i + 1)) (oddSeries p z n (i + 1) (ballMul p t z))

/-- Σ t·(-z)^i/((k+1)…(k+2i)), z a square: sine from t = x, k = 1; cosine from t = 1, k = 0. -/
def trigSeries (p : Nat) (z : Ball) : Nat → Nat → Ball → Ball
  | 0, _, _ => ⟨0, 2⟩
  | n + 1, k, t => ballAdd t (trigSeries p z n (k + 2) (ballNeg (ballOver (ballMul p t z) ((k + 1) * (k + 2)))))

/-- Σ t·(2z)^i/(3·5…), z a square. -/
def erfSeries (p : Nat) (z : Ball) : Nat → Nat → Ball → Ball
  | 0, _, _ => ⟨0, 2⟩
  | n + 1, i, t => ballAdd t (erfSeries p z n (i + 1) (ballOver (ballScale (ballMul p t z) 2) (2 * i + 3)))

/-- Squares k times. -/
def squares (p : Nat) : Nat → Ball → Ball
  | 0, b => b
  | k + 1, b => squares p k (ballMul p b b)

/-! ## Functions -/

/-- e^x as an interval in about [1, 2) and a power of two, for |x| below 2^17. -/
def ballExp (p : Nat) (x : Ball) : Ball × Int :=
  let l := ballLn2 p
  let k := x.mid / l.mid
  let r := ballShift (ballSub x (ballScale l k)) (-16)
  (squares p 16 (expSeries p r (p / 16 + 4) 0 (ballOne p)), k)

/-- ln(m·2^e), m positive. -/
def ballLn (p : Nat) (m : Nat) (e : Int) : Ball :=
  let g := Nat.log2 m
  let half := decide (3 * 2 ^ g ≤ 2 * m)
  let v := ballOf p false m (if half then -(g : Int) - 1 else -(g : Int))
  let k := e + g + (if half then 1 else 0)
  let z := ballDiv p (ballSub v (ballOne p)) (ballAdd v (ballOne p))
  ballAdd (ballScale (oddSeries p (ballMul p z z) (p / 4 + 4) 0 z) 2) (ballScale (ballLn2 p) k)

/-- One halving of an arctangent's argument. -/
def atanHalf (p : Nat) (t : Ball) : Ball :=
  ballDiv p t (ballAdd (ballOne p) (ballSqrt p (ballAdd (ballOne p) (ballMul p t t))))

/-- atan t for 0 ≤ t ≤ 1. -/
def ballAtan (p : Nat) (t : Ball) : Ball :=
  let h := atanHalf p (atanHalf p (atanHalf p t))
  ballScale (oddSeries p (ballNeg (ballMul p h h)) (p / 6 + 4) 0 h) 8

/-- sin or cos of ±m·2^e. -/
def ballTrig (p : Nat) (cosine neg : Bool) (m : Nat) (e : Int) : Ball :=
  let big := p + 1100
  let half := ballShift (ballPi big) (-1)
  let x := ballOf big neg m e
  let k := (2 * x.mid + half.mid) / (2 * half.mid)
  let r := ballShift (ballSub x (ballScale half k)) (-1100)
  let q := (if cosine then k + 1 else k) % 4
  let z := ballMul p r r
  let n := p / 8 + 16
  let b := if q % 2 == 0 then trigSeries p z n 1 r else trigSeries p z n 0 (ballOne p)
  if q < 2 then b else ballNeg b

/-- erf x for |x| < 8. -/
def ballErf (p : Nat) (x : Ball) : Ball :=
  let z := ballMul p x x
  let (u, k) := ballExp p (ballNeg z)
  let s := ballMul p (erfSeries p z (p + 256) 0 x) (ballShift u k)
  let root := ballSqrt p (ballShift (ballPi p) (-1))
  -- 2/√π = √2/√(π/2)
  ballDiv p (ballMul p s (ballSqrt p (ballScale (ballOne p) 2))) root

/-- tanh x for |x| ≤ 64. -/
def ballTanh (p : Nat) (x : Ball) : Ball :=
  let (u, k) := ballExp p (ballScale x (-2))
  let w := ballShift u k
  ballDiv p (ballSub (ballOne p) w) (ballAdd (ballOne p) w)

/-- The sigmoid of x, |x| ≤ 2^15, as an interval and a power of two. -/
def ballSigmoid (p : Nat) (x : Ball) : Ball × Int :=
  let (u, k) := ballExp p x
  if 0 ≤ k then (ballDiv p (ballOne p) (ballAdd (ballOne p) (let (w, j) := ballExp p (ballNeg x); ballShift w j)), 0)
  else (ballDiv p u (ballAdd (ballOne p) (ballShift u k)), k)

/-! ## Rounding an interval -/

/-- The delivery of every number of an interval times 2^(k-p), when it is one. Such a number is no multiple of 2^(k-p). -/
def ballDeliver (F : FF) (p : Nat) (b : Ball) (k : Int) : Option (Nat × Flags) :=
  let lo := b.mid - b.rad
  let hi := b.mid + b.rad
  let pick := fun (neg : Bool) (a c : Nat) =>
    let x := deliver F .rne false (.fin neg a (k - p) true)
    if x == deliver F .rne false (.fin neg c (k - p) true) then some x else none
  if 0 < lo then pick false lo.toNat (hi - 1).toNat
  else if hi < 0 then pick true (-hi).toNat (-lo - 1).toNat
  else none

/-- The first scale that decides. -/
def tryScales (F : FF) (f : Nat → Option (Ball × Int)) : List Nat → Option (Nat × Flags)
  | [] => none
  | p :: r =>
    match f p with
    | none => tryScales F f r
    | some (b, k) =>
      match ballDeliver F p b k with
      | some x => some x
      | none => tryScales F f r

def scales : List Nat := [128, 256, 512, 1024, 2048, 4096, 8192]

/-- What a function is: an exact result with its flags, or a family of intervals. -/
inductive Fn where
  | exact (v : Ex) (f : Flags)
  | near (f : Nat → Option (Ball × Int))

def fnOf (f : Nat → Ball) : Fn := .near fun p => some (f p, 0)

/-- A positive number beyond every format, and one below every format. -/
def hugeEx (neg : Bool) : Ex := .fin neg 1 40000 true

def tinyEx (neg : Bool) : Ex := .fin neg 1 (-40000) true

/-- A number just below 1 in magnitude. -/
def nearOne (neg : Bool) : Ex := .fin neg (2 ^ 200 - 1) (-200) true

/-- |m·2^e| ≥ 2^k. -/
def atLeast (m : Nat) (e : Int) (k : Int) : Bool := m != 0 && decide (k ≤ e + Nat.log2 m)

/-- m·2^e as an integer, when it is one. -/
def wholeOf (m : Nat) (e : Int) : Option Nat :=
  if 0 ≤ e then (if e ≤ 2000 then some (m * 2 ^ e.toNat) else none)
  else if m % 2 ^ (-e).toNat == 0 then some (m / 2 ^ (-e).toNat) else none

/-- A value's odd significand and exponent. -/
def oddPart : Nat → Nat → Int → Nat × Int
  | 0, m, e => (m, e)
  | n + 1, m, e => if m % 2 == 0 && m != 0 then oddPart n (m / 2) (e + 1) else (m, e)

/-- The results that every function gives for a NaN operand (R232, 02 R33). -/
def nanFn (sig : Bool) : Fn := .exact (.nan false) (if sig then fNV else 0)

def fnOne : Fn := .exact (.fin false 1 0 false) 0

def fnExp (a : FV) : Fn :=
  match a with
  | .nan s => nanFn s
  | .inf neg => .exact (if neg then .fin false 0 0 false else .inf false) 0
  | .fin neg m e =>
    if m == 0 then fnOne
    else if atLeast m e 15 then .exact (if neg then tinyEx false else hugeEx false) 0
    else .near fun p => some (ballExp p (ballOf p neg m e))

def fnExp2 (a : FV) : Fn :=
  match a with
  | .nan s => nanFn s
  | .inf neg => .exact (if neg then .fin false 0 0 false else .inf false) 0
  | .fin neg m e =>
    if atLeast m e 15 then .exact (if neg then tinyEx false else hugeEx false) 0
    else match wholeOf m e with
      | some n => .exact (.fin false 1 (if neg then -(n : Int) else n) false) 0
      | none => .near fun p => some (ballExp p (ballMul p (ballOf p neg m e) (ballLn2 p)))

def fnLog (two : Bool) (a : FV) : Fn :=
  match a with
  | .nan s => nanFn s
  | .inf false => .exact (.inf false) 0
  | .inf true => .exact (.nan false) fNV
  | .fin neg m e =>
    if m == 0 then .exact (.inf true) fDZ
    else if neg then .exact (.nan false) fNV
    else
      let (o, x) := oddPart 64 m e
      if o == 1 && (two || x == 0) then .exact (exInt x) 0
      else fnOf fun p => if two then ballDiv p (ballLn p m e) (ballLn2 p) else ballLn p m e

def fnRcp (p : Nat) (a : FV) : Fn := .exact (exDiv p (.fin false 1 0) a).1 (exDiv p (.fin false 1 0) a).2

def fnSqrt (p : Nat) (a : FV) : Fn := .exact (exSqrt p a).1 (exSqrt p a).2

def fnRsqrt (a : FV) : Fn :=
  match a with
  | .nan s => nanFn s
  | .inf false => .exact (.fin false 0 0 false) 0
  | .inf true => .exact (.nan false) fNV
  | .fin neg m e =>
    if m == 0 then .exact (.inf neg) fDZ
    else if neg then .exact (.nan false) fNV
    else
      let m2 := if e % 2 == 0 then m else 2 * m
      let h := if e % 2 == 0 then e / 2 else (e - 1) / 2
      let k := 80 + Nat.log2 m2
      let r := isqrt (2 ^ (2 * k) / m2)
      .exact (.fin false r (-(k : Int) - h) (r * r * m2 != 2 ^ (2 * k))) 0

def fnTrig (cosine : Bool) (a : FV) : Fn :=
  match a with
  | .nan s => nanFn s
  | .inf _ => .exact (.nan false) fNV
  | .fin neg m e =>
    if m == 0 then (if cosine then fnOne else .exact (.fin neg 0 0 false) 0)
    else fnOf fun p => ballTrig p cosine neg m e

def fnTanh (a : FV) : Fn :=
  match a with
  | .nan s => nanFn s
  | .inf neg => .exact (.fin neg 1 0 false) 0
  | .fin neg m e =>
    if m == 0 then .exact (.fin neg 0 0 false) 0
    else if atLeast m e 6 then .exact (nearOne neg) 0
    else fnOf fun p => ballTanh p (ballOf p neg m e)

def fnSigmoid (a : FV) : Fn :=
  match a with
  | .nan s => nanFn s
  | .inf neg => .exact (if neg then .fin false 0 0 false else .fin false 1 0 false) 0
  | .fin neg m e =>
    if m == 0 then .exact (.fin false 1 (-1) false) 0
    else if atLeast m e 15 then .exact (if neg then tinyEx false else nearOne false) 0
    else .near fun p => some (ballSigmoid p (ballOf p neg m e))

def fnErf (a : FV) : Fn :=
  match a with
  | .nan s => nanFn s
  | .inf neg => .exact (.fin neg 1 0 false) 0
  | .fin neg m e =>
    if m == 0 then .exact (.fin neg 0 0 false) 0
    else if atLeast m e 3 then .exact (nearOne neg) 0
    else fnOf fun p => ballErf p (ballOf p neg m e)

/-- ±(n/d)·π. -/
def fnPi (neg : Bool) (n d : Nat) : Fn :=
  fnOf fun p => let b := ballOver (ballScale (ballPi p) n) d; if neg then ballNeg b else b

/-- atan2(y, x) (IEEE 754-2019 9.2.1). -/
def fnAtan2 (y x : FV) : Fn :=
  match y, x with
  | .nan s, _ => nanFn (s || nvSig x == fNV)
  | _, .nan s => nanFn s
  | .inf ny, .inf nx => if nx then fnPi ny 3 4 else fnPi ny 1 4
  | .inf ny, .fin _ _ _ => fnPi ny 1 2
  | .fin ny _ _, .inf nx => if nx then fnPi ny 1 1 else .exact (.fin ny 0 0 false) 0
  | .fin ny my ey, .fin nx mx ex =>
    if my == 0 then (if nx then fnPi ny 1 1 else .exact (.fin ny 0 0 false) 0)
    else if mx == 0 then fnPi ny 1 2
    else
      let flip := ltV (.fin false mx ex) (.fin false my ey)
      fnOf fun p =>
        let q := fun (a : Nat) (ea : Int) (b : Nat) (eb : Int) =>
          let k := ea - eb + p + 64
          let v := if 0 ≤ k then a * 2 ^ k.toNat / b else a / (b * 2 ^ (-k).toNat)
          ballShift ⟨v, 1⟩ (-64)
        let t := if flip then q mx ex my ey else q my ey mx ex
        let a := ballAtan p t
        let b := if flip then ballSub (ballShift (ballPi p) (-1)) a else a
        let c := if nx then ballSub (ballPi p) b else b
        if ny then ballNeg c else c

/-- Whether a finite value is an odd integer. -/
def isOddInt (m : Nat) (e : Int) : Bool :=
  match wholeOf m e with
  | some n => n % 2 == 1
  | none => false

/-- Whether a finite value is an integer. -/
def isInt (m : Nat) (e : Int) : Bool := decide (0 ≤ e) || (wholeOf m e).isSome

/-- The 2^k-th root of an odd square chain: m·2^e with e even and m a square, k times. -/
def rootChain : Nat → Nat → Int → Option (Nat × Int)
  | 0, m, e => some (m, e)
  | k + 1, m, e =>
    let r := isqrt m
    if e % 2 == 0 && r * r == m then rootChain k r (e / 2) else none

/-- |a|^b when it is a short dyadic number: a = m·2^e with m odd, b = ±n·2^g with n odd. -/
def powExact (neg : Bool) (m : Nat) (e : Int) (nb : Bool) (n : Nat) (g : Int) : Option Ex :=
  if m == 1 && e == 0 then some (.fin neg 1 0 false)
  else
    let put := fun (m : Nat) (x : Int) =>
      if 20000 < x then hugeEx neg else if x < -20000 then tinyEx neg else Ex.fin neg m x false
    match if 0 ≤ g then some (m, e) else if -g ≤ 64 then rootChain (-g).toNat m e else none with
    | none => none
    | some (r, x) =>
      let k := if 0 ≤ g then n * 2 ^ (if g ≤ 70 then g.toNat else 70) else n
      let xk := x * k
      if r == 1 then some (put 1 (if nb then -xk else xk))
      else if nb then none
      else if k ≤ 200 && Nat.log2 r * k ≤ 200 then some (put (r ^ k) xk)
      else none

/-- a^b for finite nonzero operands, a not a negative number with a fractional b; `neg` is the result's sign. -/
def powFin (neg : Bool) (ma : Nat) (ea : Int) (nb : Bool) (mb : Nat) (eb : Int) : Fn :=
  let (m, e) := oddPart 64 ma ea
  let (n, g) := oddPart 64 mb eb
  match powExact neg m e nb n g with
  | some x => .exact x 0
  | none => .near fun p =>
    let x := ballShift (ballScale (ballLn p ma ea) (if nb then -(mb : Int) else mb)) eb
    if x.mid.natAbs + x.rad < 2 ^ (p + 16) then
      let (u, k) := ballExp p x
      some (if neg then ballNeg u else u, k)
    else if x.rad + 2 ^ (p + 15) < x.mid.natAbs then
      let u := ballOne p
      some (⟨if neg then -u.mid else u.mid, 2⟩, if 0 < x.mid then 40000 else -40000)
    else none

/-- pow(a, b) (IEEE 754-2019 9.2.1). -/
def fnPow (a b : FV) : Fn :=
  if nvSig a == fNV || nvSig b == fNV then nanFn true
  else if isZeroV b then fnOne
  else if eqV a (.fin false 1 0) then fnOne
  else match a, b with
    | .nan s, _ => nanFn s
    | _, .nan s => nanFn s
    | .inf _, .inf nb => .exact (if nb then .fin false 0 0 false else .inf false) 0
    | .fin _ m e, .inf nb =>
      if eqV (.fin false m e) (.fin false 1 0) then fnOne
      else if ltV (.fin false m e) (.fin false 1 0) == nb then .exact (.inf false) 0
      else .exact (.fin false 0 0 false) 0
    | .inf na, .fin nb mb eb =>
      let s := na && isOddInt mb eb
      if nb then .exact (.fin s 0 0 false) 0 else .exact (.inf s) 0
    | .fin na ma ea, .fin nb mb eb =>
      let s := na && isOddInt mb eb
      if ma == 0 then (if nb then .exact (.inf s) fDZ else .exact (.fin s 0 0 false) 0)
      else if na && !isInt mb eb then .exact (.nan false) fNV
      else powFin s ma ea nb mb eb

/-- The function of a FUNC code (R232). -/
def sfuFn (func : Nat) (F : FF) (a b : FV) : Fn :=
  match func with
  | 1 => fnExp a
  | 2 => fnExp2 a
  | 3 => fnLog false a
  | 4 => fnLog true a
  | 5 => fnRcp F.mbits a
  | 6 => fnSqrt F.mbits a
  | 7 => fnRsqrt a
  | 8 => fnTrig false a
  | 9 => fnTrig true a
  | 10 => fnTanh a
  | 11 => fnSigmoid a
  | 12 => fnErf a
  | 13 => fnAtan2 a b
  | _ => fnPow a b

/-- The format of an FMT code (R230). -/
def sfuFF (fmt : Nat) : FF :=
  match fmt with
  | 0 => fp64
  | 1 => fp32
  | 2 => fp16
  | _ => bf16

/-- The result of a request with its flags (R231, R232). -/
def sfuCompute (func fmt : Nat) (a b : Word) : Word × Flags :=
  let F := sfuFF fmt
  let (v, f) := match sfuFn func F (ffDecode F a.toNat) (ffDecode F b.toNat) with
    | .exact x f => let r := deliver F .rne false x; (r.1, r.2 ||| f)
    | .near g =>
      match tryScales F g scales with
      | some r => r
      | none => ((Config.undecidedFunction func fmt a b).toNat % 2 ^ ffWidth F, fNX)
  (BitVec.ofNat 64 v, f)

end Sys2Proof.Machine
end

