-- ==== Sys2Proof/Machine/Sfu.lean ====
section
/-! DEFINITION. The special-function unit of a cluster (spec 11 R231-R235): which request starts, and when its result
becomes poppable. The value of a request is fixed when it starts (Machine/Elementary.lean). -/

namespace Sys2Proof.Machine

/-- Latency by function and format (R233). -/
def sfuLatency (func fmt : Nat) : Nat :=
  let row := fun (d s h : Nat) => if fmt == 0 then d else if fmt == 1 then s else h
  match func with
  | 5 => row 24 16 16
  | 6 => row 28 18 16
  | 7 => row 28 18 16
  | 1 => row 40 24 16
  | 2 => row 40 24 16
  | 3 => row 44 28 18
  | 4 => row 44 28 18
  | 10 => row 56 32 20
  | 11 => row 56 32 20
  | 12 => row 60 34 22
  | 8 => row 64 36 24
  | 9 => row 64 36 24
  | 13 => row 80 44 28
  | _ => row 96 52 32

/-- Whether a slot's request FIFO is eligible (R233). A task that a stop is asked of starts no more requests: they are saved
with it (R235); one that must first complete a staged message goes on. -/
def sfuEligible (now : Nat) (t : Slot) : Bool :=
  (match t.sfuReq with
   | [] => false
   | r :: _ => decide (r.readyAt ≤ now)) && decide (t.sfuRes.length + t.sfuFly.length < 8) &&
    (t.stop.isNone || t.stagedHdr.isSome)

/-- The place of a core in its cluster's cyclic order (R233); 48 is the control core. -/
def sfuCore (c : Nat) : Nat := if isCompute c then inCluster c else 48

/-- The core at a place of a cluster's order. -/
def sfuCoreAt (cl i : Nat) : Nat := if i < 48 then cl * 48 + i else 3072 + cl

/-- The eligible FIFOs of a cluster by their numbers in the cyclic order. -/
def sfuQueues (s : State) (cl : Nat) : List Nat :=
  (s.cores.filter fun e => !isMgmt e.1 && clusterOf e.1 == cl).flatMap fun e =>
    ((List.range 8).filter fun i => sfuEligible s.cycle (coreSlot e.2 i)).map fun i => 8 * sfuCore e.1 + i

/-- The lowest number, if any. -/
def lowest (l : List Nat) : Option Nat :=
  l.foldl (fun b n => match b with
    | none => some n
    | some m => some (if n < m then n else m)) none

/-- The FIFO to serve: the next eligible one from the pointer on, cyclically; none when one started this cycle. -/
def sfuPick (s : State) (cl : Nat) : Option Nat :=
  let k := getCluster s cl
  if k.sfuLast == some s.cycle then none
  else
    let l := sfuQueues s cl
    match lowest (l.filter fun n => decide (k.sfuNext ≤ n)) with
    | some n => some n
    | none => lowest l

/-- SFU_START (R233): the oldest request of the FIFO chosen starts. -/
def sfuStartStep (cl : Nat) (s : State) : State :=
  match sfuPick s cl with
  | none => s
  | some n =>
    let c := sfuCoreAt cl (n / 8)
    let t := getSlot s c (n % 8)
    match t.sfuReq with
    | [] => s
    | r :: rest =>
      let (v, f) := sfuCompute r.func r.fmt r.a r.b
      let due := s.cycle + sfuLatency r.func r.fmt
      let s1 := setSlot s c (n % 8) { t with sfuReq := rest, sfuFly := t.sfuFly ++ [⟨r.func, r.fmt, v, f.toNat, due⟩] }
      let s2 := modCluster s1 cl fun k => { k with sfuNext := (n + 1) % 392, sfuLast := some s.cycle }
      atCycle s2 due (.sfuResult c (n % 8))

def execSfuStart (cluster : Nat) (s : State) : Host.Outcome State Fault Refusal := always (sfuStartStep cluster) s

/-- Finished results at the head of those in flight enter the result FIFO (R233). -/
def landSfu (now : Nat) : List SfuRes → List SfuRes → List SfuRes × List SfuRes
  | [], res => ([], res)
  | r :: rest, res => if r.doneAt ≤ now then landSfu now rest (res ++ [r]) else (r :: rest, res)

/-- SFU_RESULT (R233): results enter in request order. -/
def sfuResultStep (core slot : Nat) (s : State) : State :=
  modSlot s core slot fun t =>
    let p := landSfu s.cycle t.sfuFly t.sfuRes
    { t with sfuFly := p.1, sfuRes := p.2 }

def execSfuResult (core slot : Nat) (s : State) : Host.Outcome State Fault Refusal := always (sfuResultStep core slot) s

end Sys2Proof.Machine
end

