-- ==== Sys2Proof/Machine/Dispatch.lean ====
section
/-! DEFINITION. One arm per constructor of Instr: the direct call of its meaning. -/

namespace Sys2Proof.Machine

def exec (i : Instr) (s : State) : Host.Outcome State Fault Refusal :=
  match i with
  | .nop => Sys2Proof.Machine.execNop s
  | .ldb m => Sys2Proof.Machine.execLdb m s
  | .ldbu m => Sys2Proof.Machine.execLdbu m s
  | .ldh m => Sys2Proof.Machine.execLdh m s
  | .ldhu m => Sys2Proof.Machine.execLdhu m s
  | .ldw m => Sys2Proof.Machine.execLdw m s
  | .ldwu m => Sys2Proof.Machine.execLdwu m s
  | .ldd m => Sys2Proof.Machine.execLdd m s
  | .stb m => Sys2Proof.Machine.execStb m s
  | .sth m => Sys2Proof.Machine.execSth m s
  | .stw m => Sys2Proof.Machine.execStw m s
  | .std m => Sys2Proof.Machine.execStd m s
  | .fldS m => Sys2Proof.Machine.execFldS m s
  | .fldD m => Sys2Proof.Machine.execFldD m s
  | .fstS m => Sys2Proof.Machine.execFstS m s
  | .fstD m => Sys2Proof.Machine.execFstD m s
  | .ldx rd ra rb scaled sext size => Sys2Proof.Machine.execLdx rd ra rb scaled sext size s
  | .stx rd ra rb scaled size => Sys2Proof.Machine.execStx rd ra rb scaled size s
  | .stn m => Sys2Proof.Machine.execStn m s
  | .vld m => Sys2Proof.Machine.execVld m s
  | .vst m => Sys2Proof.Machine.execVst m s
  | .vlds vd ra rb mask ew => Sys2Proof.Machine.execVlds vd ra rb mask ew s
  | .vsts vd ra rb mask ew => Sys2Proof.Machine.execVsts vd ra rb mask ew s
  | .vgath vd ra vi mask ew => Sys2Proof.Machine.execVgath vd ra vi mask ew s
  | .vscat vd ra vi mask ew => Sys2Proof.Machine.execVscat vd ra vi mask ew s
  | .amo rd ra rb op => Sys2Proof.Machine.execAmo rd ra rb op s
  | .amoAq rd ra rb op => Sys2Proof.Machine.execAmoAq rd ra rb op s
  | .amoRl rd ra rb op => Sys2Proof.Machine.execAmoRl rd ra rb op s
  | .amoAr rd ra rb op => Sys2Proof.Machine.execAmoAr rd ra rb op s
  | .red ra rb op => Sys2Proof.Machine.execRed ra rb op s
  | .redRl ra rb op => Sys2Proof.Machine.execRedRl ra rb op s
  | .fence ra => Sys2Proof.Machine.execFence ra s
  | .waitr file rd ra rb => Sys2Proof.Machine.execWaitr file rd ra rb s
  | .b off => Sys2Proof.Machine.execB off s
  | .bl off => Sys2Proof.Machine.execBl off s
  | .bp p n off => Sys2Proof.Machine.execBp p n off s
  | .jr rd ra => Sys2Proof.Machine.execJr rd ra s
  | .cpy rd ra => Sys2Proof.Machine.execCpy rd ra s
  | .cpy2 rd ra => Sys2Proof.Machine.execCpy2 rd ra s
  | .bind rd ra rb => Sys2Proof.Machine.execBind rd ra rb s
  | .unbind rd ra => Sys2Proof.Machine.execUnbind rd ra s
  | .acqX rd ra rb => Sys2Proof.Machine.execAcqX rd ra rb s
  | .acqS rd ra rb => Sys2Proof.Machine.execAcqS rd ra rb s
  | .acqXi rd ra rb => Sys2Proof.Machine.execAcqXi rd ra rb s
  | .acqSi rd ra rb => Sys2Proof.Machine.execAcqSi rd ra rb s
  | .rel rd ra => Sys2Proof.Machine.execRel rd ra s
  | .relW rd ra => Sys2Proof.Machine.execRelW rd ra s
  | .gflush rd ra => Sys2Proof.Machine.execGflush rd ra s
  | .gstat rd ra => Sys2Proof.Machine.execGstat rd ra s
  | .rowact ra => Sys2Proof.Machine.execRowact ra s
  | .rowuse ra rb => Sys2Proof.Machine.execRowuse ra rb s
  | .rowclose ra => Sys2Proof.Machine.execRowclose ra s
  | .rowstat rd ra => Sys2Proof.Machine.execRowstat rd ra s
  | .barinit rd ra rb => Sys2Proof.Machine.execBarinit rd ra rb s
  | .bararr rd ra rb => Sys2Proof.Machine.execBararr rd ra rb s
  | .barwait rd ra rb => Sys2Proof.Machine.execBarwait rd ra rb s
  | .bararw rd ra rb => Sys2Proof.Machine.execBararw rd ra rb s
  | .loopinit rd ra rb => Sys2Proof.Machine.execLoopinit rd ra rb s
  | .getchunk rd ra => Sys2Proof.Machine.execGetchunk rd ra s
  | .spawn rd ra rb => Sys2Proof.Machine.execSpawn rd ra rb s
  | .join rd ra => Sys2Proof.Machine.execJoin rd ra s
  | .tail => Sys2Proof.Machine.execTail s
  | .yield => Sys2Proof.Machine.execYield s
  | .tagen ra => Sys2Proof.Machine.execTagen ra s
  | .tagdis ra => Sys2Proof.Machine.execTagdis ra s
  | .tagpend rd => Sys2Proof.Machine.execTagpend rd s
  | .tagclr rd ra => Sys2Proof.Machine.execTagclr rd ra s
  | .tagtest rd ra => Sys2Proof.Machine.execTagtest rd ra s
  | .nport rd ra => Sys2Proof.Machine.execNport rd ra s
  | .npay rd ra => Sys2Proof.Machine.execNpay rd ra s
  | .nnew rd ra rb => Sys2Proof.Machine.execNnew rd ra rb s
  | .nset rd ra => Sys2Proof.Machine.execNset rd ra s
  | .nsetp rd ra rb => Sys2Proof.Machine.execNsetp rd ra rb s
  | .nlink ra rb => Sys2Proof.Machine.execNlink ra rb s
  | .npush ra rb => Sys2Proof.Machine.execNpush ra rb s
  | .gangform rd ra rb => Sys2Proof.Machine.execGangform rd ra rb s
  | .gangwait rd => Sys2Proof.Machine.execGangwait rd s
  | .disband rd => Sys2Proof.Machine.execDisband rd s
  | .pairon rd ra => Sys2Proof.Machine.execPairon rd ra s
  | .pairoff rd => Sys2Proof.Machine.execPairoff rd s
  | .srrd rd sr => Sys2Proof.Machine.execSrrd rd sr s
  | .srwr rs sr => Sys2Proof.Machine.execSrwr rs sr s
  | .srset rs sr => Sys2Proof.Machine.execSrset rs sr s
  | .srclr rs sr => Sys2Proof.Machine.execSrclr rs sr s
  | .trap ra imm => Sys2Proof.Machine.execTrap ra imm s
  | .tctxrd rd ra rb => Sys2Proof.Machine.execTctxrd rd ra rb s
  | .tctxwr rd ra rb => Sys2Proof.Machine.execTctxwr rd ra rb s
  | .tresume rd ra rb => Sys2Proof.Machine.execTresume rd ra rb s
  | .tkill rd ra => Sys2Proof.Machine.execTkill rd ra s
  | .tpreempt rd ra rb => Sys2Proof.Machine.execTpreempt rd ra rb s
  | .bkpt => Sys2Proof.Machine.execBkpt s
  | .trace ra => Sys2Proof.Machine.execTrace ra s
  | .anop => Sys2Proof.Machine.execAnop s
  | .add rd ra rb => Sys2Proof.Machine.execAdd rd ra rb s
  | .sub rd ra rb => Sys2Proof.Machine.execSub rd ra rb s
  | .mul rd ra rb => Sys2Proof.Machine.execMul rd ra rb s
  | .mulhSs rd ra rb => Sys2Proof.Machine.execMulhSs rd ra rb s
  | .mulhUu rd ra rb => Sys2Proof.Machine.execMulhUu rd ra rb s
  | .mulhSu rd ra rb => Sys2Proof.Machine.execMulhSu rd ra rb s
  | .div rd ra rb => Sys2Proof.Machine.execDiv rd ra rb s
  | .divu rd ra rb => Sys2Proof.Machine.execDivu rd ra rb s
  | .rem rd ra rb => Sys2Proof.Machine.execRem rd ra rb s
  | .remu rd ra rb => Sys2Proof.Machine.execRemu rd ra rb s
  | .and rd ra rb => Sys2Proof.Machine.execAnd rd ra rb s
  | .or rd ra rb => Sys2Proof.Machine.execOr rd ra rb s
  | .xor rd ra rb => Sys2Proof.Machine.execXor rd ra rb s
  | .andn rd ra rb => Sys2Proof.Machine.execAndn rd ra rb s
  | .sll rd ra rb => Sys2Proof.Machine.execSll rd ra rb s
  | .srl rd ra rb => Sys2Proof.Machine.execSrl rd ra rb s
  | .sra rd ra rb => Sys2Proof.Machine.execSra rd ra rb s
  | .rol rd ra rb => Sys2Proof.Machine.execRol rd ra rb s
  | .ror rd ra rb => Sys2Proof.Machine.execRor rd ra rb s
  | .slt rd ra rb => Sys2Proof.Machine.execSlt rd ra rb s
  | .sltu rd ra rb => Sys2Proof.Machine.execSltu rd ra rb s
  | .min rd ra rb => Sys2Proof.Machine.execMin rd ra rb s
  | .max rd ra rb => Sys2Proof.Machine.execMax rd ra rb s
  | .minu rd ra rb => Sys2Proof.Machine.execMinu rd ra rb s
  | .maxu rd ra rb => Sys2Proof.Machine.execMaxu rd ra rb s
  | .clz rd ra => Sys2Proof.Machine.execClz rd ra s
  | .ctz rd ra => Sys2Proof.Machine.execCtz rd ra s
  | .popc rd ra => Sys2Proof.Machine.execPopc rd ra s
  | .bswap rd ra => Sys2Proof.Machine.execBswap rd ra s
  | .sext rd ra w => Sys2Proof.Machine.execSext rd ra w s
  | .zext rd ra w => Sys2Proof.Machine.execZext rd ra w s
  | .addi rd ra imm => Sys2Proof.Machine.execAddi rd ra imm s
  | .andi rd ra imm => Sys2Proof.Machine.execAndi rd ra imm s
  | .ori rd ra imm => Sys2Proof.Machine.execOri rd ra imm s
  | .xori rd ra imm => Sys2Proof.Machine.execXori rd ra imm s
  | .slli rd ra n => Sys2Proof.Machine.execSlli rd ra n s
  | .srli rd ra n => Sys2Proof.Machine.execSrli rd ra n s
  | .srai rd ra n => Sys2Proof.Machine.execSrai rd ra n s
  | .slti rd ra imm => Sys2Proof.Machine.execSlti rd ra imm s
  | .sltiu rd ra imm => Sys2Proof.Machine.execSltiu rd ra imm s
  | .movi rd imm => Sys2Proof.Machine.execMovi rd imm s
  | .movhi rd imm => Sys2Proof.Machine.execMovhi rd imm s
  | .bfx rd ra pos wm1 => Sys2Proof.Machine.execBfx rd ra pos wm1 s
  | .bfi rd ra pos wm1 => Sys2Proof.Machine.execBfi rd ra pos wm1 s
  | .cmp pd ra rb c => Sys2Proof.Machine.execCmp pd ra rb c s
  | .cmpi pd ra c imm => Sys2Proof.Machine.execCmpi pd ra c imm s
  | .sel rd ra rb p inv => Sys2Proof.Machine.execSel rd ra rb p inv s
  | .plog pd pa pb tt => Sys2Proof.Machine.execPlog pd pa pb tt s
  | .addsh rd ra rb n => Sys2Proof.Machine.execAddsh rd ra rb n s
  | .fadd fmt rm fd fa fb => Sys2Proof.Machine.execFadd fmt rm fd fa fb s
  | .fsub fmt rm fd fa fb => Sys2Proof.Machine.execFsub fmt rm fd fa fb s
  | .fmul fmt rm fd fa fb => Sys2Proof.Machine.execFmul fmt rm fd fa fb s
  | .fdiv fmt rm fd fa fb => Sys2Proof.Machine.execFdiv fmt rm fd fa fb s
  | .fsqrt fmt rm fd fa => Sys2Proof.Machine.execFsqrt fmt rm fd fa s
  | .fma fmt rm fd fa fb fc => Sys2Proof.Machine.execFma fmt rm fd fa fb fc s
  | .fms fmt rm fd fa fb fc => Sys2Proof.Machine.execFms fmt rm fd fa fb fc s
  | .fnma fmt rm fd fa fb fc => Sys2Proof.Machine.execFnma fmt rm fd fa fb fc s
  | .fnms fmt rm fd fa fb fc => Sys2Proof.Machine.execFnms fmt rm fd fa fb fc s
  | .fminmax fmt v fd fa fb => Sys2Proof.Machine.execFminmax fmt v fd fa fb s
  | .fsgn fmt v fd fa fb => Sys2Proof.Machine.execFsgn fmt v fd fa fb s
  | .fcmp fmt c pd fa fb => Sys2Proof.Machine.execFcmp fmt c pd fa fb s
  | .fclass fmt rd fs => Sys2Proof.Machine.execFclass fmt rd fs s
  | .fcvt dst src rm fd fa => Sys2Proof.Machine.execFcvt dst src rm fd fa s
  | .fcvti fmt rm toF ty x f => Sys2Proof.Machine.execFcvti fmt rm toF ty x f s
  | .fmv fmt toF x f => Sys2Proof.Machine.execFmv fmt toF x f s
  | .vint a => Sys2Proof.Machine.execVint a s
  | .vfp a => Sys2Proof.Machine.execVfp a s
  | .vfma a => Sys2Proof.Machine.execVfma a s
  | .vcmp a => Sys2Proof.Machine.execVcmp a s
  | .vfcmp a => Sys2Proof.Machine.execVfcmp a s
  | .vsel a => Sys2Proof.Machine.execVsel a s
  | .vred a => Sys2Proof.Machine.execVred a s
  | .vdot a => Sys2Proof.Machine.execVdot a s
  | .vcvt a => Sys2Proof.Machine.execVcvt a s
  | .vperm a => Sys2Proof.Machine.execVperm a s
  | .vslide a => Sys2Proof.Machine.execVslide a s
  | .vbcast a => Sys2Proof.Machine.execVbcast a s
  | .vmovx x v e ew fn => Sys2Proof.Machine.execVmovx x v e ew fn s
  | .vmask a => Sys2Proof.Machine.execVmask a s
  | .vscale a => Sys2Proof.Machine.execVscale a s
  | .viota a => Sys2Proof.Machine.execViota a s
  | .vxch a => Sys2Proof.Machine.execVxch a s
  | .mmaD a => Sys2Proof.Machine.execMmaD a s
  | .mmaS a => Sys2Proof.Machine.execMmaS a s
  | .mmaH a => Sys2Proof.Machine.execMmaH a s
  | .mmaBf a => Sys2Proof.Machine.execMmaBf a s
  | .mmaE4 a => Sys2Proof.Machine.execMmaE4 a s
  | .mmaE4E5 a => Sys2Proof.Machine.execMmaE4E5 a s
  | .mmaE5E4 a => Sys2Proof.Machine.execMmaE5E4 a s
  | .mmaE5 a => Sys2Proof.Machine.execMmaE5 a s
  | .mmaF4 a => Sys2Proof.Machine.execMmaF4 a s
  | .mmaE4F4 a => Sys2Proof.Machine.execMmaE4F4 a s
  | .mmaI8 a => Sys2Proof.Machine.execMmaI8 a s
  | .q0Push v => Sys2Proof.Machine.execQ0Push v s
  | .q1Push v => Sys2Proof.Machine.execQ1Push v s
  | .q2Push v => Sys2Proof.Machine.execQ2Push v s
  | .q1Pop => Sys2Proof.Machine.execQ1Pop s
  | .q3Pop => Sys2Proof.Machine.execQ3Pop s
  | .q4Push v => Sys2Proof.Machine.execQ4Push v s
  | .q5Push v => Sys2Proof.Machine.execQ5Push v s
  | .q6Pop => Sys2Proof.Machine.execQ6Pop s
  | .q7Pop => Sys2Proof.Machine.execQ7Pop s
  | .q8Pop => Sys2Proof.Machine.execQ8Pop s
  | .q9Push v => Sys2Proof.Machine.execQ9Push v s
  | .q10Push v => Sys2Proof.Machine.execQ10Push v s
  | .q11Pop => Sys2Proof.Machine.execQ11Pop s
  | .q12Push v => Sys2Proof.Machine.execQ12Push v s
  | .q13Pop => Sys2Proof.Machine.execQ13Pop s
  | .tlbinvPage vpn => Sys2Proof.Machine.execTlbinvPage vpn s
  | .tlbinvRegion => Sys2Proof.Machine.execTlbinvRegion s
  | .tlbinvEveryRegion => Sys2Proof.Machine.execTlbinvEveryRegion s
  | .tlbInvalidationDone core => Sys2Proof.Machine.execTlbInvalidationDone core s
  | .holdrel vpn => Sys2Proof.Machine.execHoldrel vpn s
  | .holdReleaseDone core => Sys2Proof.Machine.execHoldReleaseDone core s
  | .ctreq v => Sys2Proof.Machine.execCtreq v s
  | .connectionTableSwitch core => Sys2Proof.Machine.execConnectionTableSwitch core s
  | .circuitRetrained core => Sys2Proof.Machine.execCircuitRetrained core s
  | .mxlotWrite v => Sys2Proof.Machine.execMxlotWrite v s
  | .rqlotWrite v => Sys2Proof.Machine.execRqlotWrite v s
  | .fpctlWrite v => Sys2Proof.Machine.execFpctlWrite v s
  | .pwrcapWrite v => Sys2Proof.Machine.execPwrcapWrite v s
  | .l2prdRead rd => Sys2Proof.Machine.execL2prdRead rd s
  | .registerWrite page n v => Sys2Proof.Machine.execRegisterWrite page n v s
  | .alogcntClear region => Sys2Proof.Machine.execAlogcntClear region s
  | .dispatch core => Sys2Proof.Machine.execDispatch core s
  | .readyQueuePull core => Sys2Proof.Machine.execReadyQueuePull core s
  | .spawnPlace die who e => Sys2Proof.Machine.execSpawnPlace die who e s
  | .stealTimer die => Sys2Proof.Machine.execStealTimer die s
  | .stealRequest thief victim => Sys2Proof.Machine.execStealRequest thief victim s
  | .stealAnswer thief es => Sys2Proof.Machine.execStealAnswer thief es s
  | .bagPop core => Sys2Proof.Machine.execBagPop core s
  | .claim k => Sys2Proof.Machine.execClaim k s
  | .claimReply k node => Sys2Proof.Machine.execClaimReply k node s
  | .release k => Sys2Proof.Machine.execRelease k s
  | .tomb t => Sys2Proof.Machine.execTomb t s
  | .link l => Sys2Proof.Machine.execLink l s
  | .defer claimer l => Sys2Proof.Machine.execDefer claimer l s
  | .redefer l => Sys2Proof.Machine.execRedefer l s
  | .ack l => Sys2Proof.Machine.execAck l s
  | .settle l expect => Sys2Proof.Machine.execSettle l expect s
  | .messageArrive m => Sys2Proof.Machine.execMessageArrive m s
  | .bounce m reason => Sys2Proof.Machine.execBounce m reason s
  | .messageStatus who w => Sys2Proof.Machine.execMessageStatus who w s
  | .errorNotice n => Sys2Proof.Machine.execErrorNotice n s
  | .atomicMessage a => Sys2Proof.Machine.execAtomicMessage a s
  | .stnMessage w => Sys2Proof.Machine.execStnMessage w s
  | .amoReturn who v => Sys2Proof.Machine.execAmoReturn who v s
  | .scaleOutAtomic chip core a => Sys2Proof.Machine.execScaleOutAtomic chip core a s
  | .remoteWrite w => Sys2Proof.Machine.execRemoteWrite w s
  | .writeAck who => Sys2Proof.Machine.execWriteAck who s
  | .remoteRead r => Sys2Proof.Machine.execRemoteRead r s
  | .loadReply l => Sys2Proof.Machine.execLoadReply l s
  | .backInvalidateResponse die ctl line data => Sys2Proof.Machine.execBackInvalidateResponse die ctl line data s
  | .expanderSnoop port addr => Sys2Proof.Machine.execExpanderSnoop port addr s
  | .hostMemoryAccess pa write len cached => Sys2Proof.Machine.execHostMemoryAccess pa write len cached s
  | .hostMessageWrite off words => Sys2Proof.Machine.execHostMessageWrite off words s
  | .hrheadWrite v => Sys2Proof.Machine.execHrheadWrite v s
  | .attest region => Sys2Proof.Machine.execAttest region s
  | .keyload region dbg => Sys2Proof.Machine.execKeyload region dbg s
  | .keyfree region slot => Sys2Proof.Machine.execKeyfree region slot s
  | .securityRequestDone result rslot => Sys2Proof.Machine.execSecurityRequestDone result rslot s
  | .fenceComplete core slot => Sys2Proof.Machine.execFenceComplete core slot s
  | .dividerStart core => Sys2Proof.Machine.execDividerStart core s
  | .dividerResult core => Sys2Proof.Machine.execDividerResult core s
  | .sfuStart cluster => Sys2Proof.Machine.execSfuStart cluster s
  | .sfuResult core slot => Sys2Proof.Machine.execSfuResult core slot s
  | .copyStart id => Sys2Proof.Machine.execCopyStart id s
  | .copyComplete id => Sys2Proof.Machine.execCopyComplete id s
  | .acqreq a => Sys2Proof.Machine.execAcqreq a s
  | .grant g status poison a => Sys2Proof.Machine.execGrant g status poison a s
  | .pull g inPlace => Sys2Proof.Machine.execPull g inPlace s
  | .forward g recipient inPlace => Sys2Proof.Machine.execForward g recipient inPlace s
  | .fwddone g sent lost => Sys2Proof.Machine.execFwddone g sent lost s
  | .done g status => Sys2Proof.Machine.execDone g status s
  | .unpin g => Sys2Proof.Machine.execUnpin g s
  | .guardRelease who g r => Sys2Proof.Machine.execGuardRelease who g r s
  | .guardAnswer who g w => Sys2Proof.Machine.execGuardAnswer who g w s
  | .guardHomeTimeout who g => Sys2Proof.Machine.execGuardHomeTimeout who g s
  | .forwardTimeout g => Sys2Proof.Machine.execForwardTimeout g s
  | .bankReady cluster bank => Sys2Proof.Machine.execBankReady cluster bank s
  | .prechargeEnd cluster bank => Sys2Proof.Machine.execPrechargeEnd cluster bank s
  | .refreshWindow cluster bank => Sys2Proof.Machine.execRefreshWindow cluster bank s
  | .refreshEnd cluster bank => Sys2Proof.Machine.execRefreshEnd cluster bank s
  | .autoClose cluster bank => Sys2Proof.Machine.execAutoClose cluster bank s
  | .rowTransfer cluster slot tag => Sys2Proof.Machine.execRowTransfer cluster slot tag s
  | .deferredClose cluster bank => Sys2Proof.Machine.execDeferredClose cluster bank s
  | .rowstatStatus who w => Sys2Proof.Machine.execRowstatStatus who w s
  | .mmaAccept cluster => Sys2Proof.Machine.execMmaAccept cluster s
  | .rowBlockComplete cluster => Sys2Proof.Machine.execRowBlockComplete cluster s
  | .dutyIdleEnd cluster => Sys2Proof.Machine.execDutyIdleEnd cluster s
  | .barrierOperation k => Sys2Proof.Machine.execBarrierOperation k s
  | .barrierAnswer who w => Sys2Proof.Machine.execBarrierAnswer who w s
  | .barrierRelease who w => Sys2Proof.Machine.execBarrierRelease who w s
  | .staggerExpiry who w => Sys2Proof.Machine.execStaggerExpiry who w s
  | .barrierBoundExpiry who => Sys2Proof.Machine.execBarrierBoundExpiry who s
  | .barrierCancel who owner addr => Sys2Proof.Machine.execBarrierCancel who owner addr s
  | .getchunkResult who counter => Sys2Proof.Machine.execGetchunkResult who counter s
  | .gangForms core => Sys2Proof.Machine.execGangForms core s
  | .gangformTimeout core => Sys2Proof.Machine.execGangformTimeout core s
  | .taskStop core slot => Sys2Proof.Machine.execTaskStop core slot s
  | .start m => Sys2Proof.Machine.execStart m s
  | .kill m => Sys2Proof.Machine.execKill m s
  | .regionComplete region => Sys2Proof.Machine.execRegionComplete region s
  | .coreSeal core => Sys2Proof.Machine.execCoreSeal core s
  | .sramScrub core addr bad => Sys2Proof.Machine.execSramScrub core addr bad s
  | .dramScrub pa bad => Sys2Proof.Machine.execDramScrub pa bad s
  | .intervalClose core => Sys2Proof.Machine.execIntervalClose core s
  | .fingerprintExchange core => Sys2Proof.Machine.execFingerprintExchange core s
  | .traceRecordWrite die r => Sys2Proof.Machine.execTraceRecordWrite die r s
  | .replayTimeout die core => Sys2Proof.Machine.execReplayTimeout die core s
  | .flitReceive flight crcOk => Sys2Proof.Machine.execFlitReceive flight crcOk s
  | .outputSpill die ep => Sys2Proof.Machine.execOutputSpill die ep s
  | .spillDrain die ep => Sys2Proof.Machine.execSpillDrain die ep s
  | .calibrationPause die ep => Sys2Proof.Machine.execCalibrationPause die ep s
  | .calibrationEnd die ep => Sys2Proof.Machine.execCalibrationEnd die ep s
  | .frameReceive f => Sys2Proof.Machine.execFrameReceive f s
  | .retransmitTimeout port => Sys2Proof.Machine.execRetransmitTimeout port s
  | .portDown port => Sys2Proof.Machine.execPortDown port s
  | .chipUnreachable chip => Sys2Proof.Machine.execChipUnreachable chip s
  | .governorTick watts => Sys2Proof.Machine.execGovernorTick watts s
  | .telemetrySample pkg die => Sys2Proof.Machine.execTelemetrySample pkg die s
  | .packageReset k => Sys2Proof.Machine.execPackageReset k s
  | .capoOperation who g op => Sys2Proof.Machine.execCapoOperation who g op s
  | .contextReadBack core slot ctx => Sys2Proof.Machine.execContextReadBack core slot ctx s
  | .portTraining port chip => Sys2Proof.Machine.execPortTraining port chip s

end Sys2Proof.Machine
end

