-- ==== Sys2Proof/Machine/Bundle.lean ====
section
/-! DEFINITION. The issue of bundles (spec 03 R56-R60, R73-R78, 15 R309, 18 R335, 20 R362): fetch, both words of a bundle,
breakpoints, what follows a bundle, gangs (09 R204, R207) and checked pairs (19 R353-R358). -/

namespace Sys2Proof.Machine

/-- Goes on with the next state; a stop stays. -/
def onNext (o : Host.Outcome State Fault Refusal) (f : State → Host.Outcome State Fault Refusal) :
    Host.Outcome State Fault Refusal :=
  match o with
  | .next s => f s
  | .fault r => .fault r
  | .refused r => .refused r

/-! ## Fetch (R56-R58) -/

/-- The word of a core's program store at an address. -/
def fetchWord (s : State) (core pc : Nat) : Nat := mread (getCluster s (clusterOf core)).prog pc 4

/-- The bundle at a program address, or the illegal-bundle trap. -/
def fetch (s : State) (core : Nat) (pc : Word) : Except Trap Bundle :=
  if Config.progSize ≤ pc.toNat || pc.toNat % 4 != 0 then .error (tBundle pc)
  else match frame pc.toNat (fetchWord s core pc.toNat) (fetchWord s core (pc.toNat + 4)) with
    | some b => .ok b
    | none => .error (tBundle pc)

/-- The state in which the words of a bundle act: registers as they stand, FPCTL as it stood when the bundle issued. -/
def beginBundle (s : State) (core i : Nat) (b : Bundle) : State :=
  let t := getSlot s core i
  { s with cur := { Cur.empty with
    core := core
    slot := i
    pc := t.pc
    size := Sys2Proof.bundleSize b
    cIsNop := b.c == some .nop
    fpctl := t.fpctl
    first := s.nextFlight } }

/-! ## Classes of words -/

/-- Major of a C-word. -/
def cMajor (i : Instr) : Nat :=
  match encodeC i with
  | some w => w / 2 ^ 22 % 64
  | none => 0

/-- Whether an A-word is an MMA. -/
def isMmaWord (i : Instr) : Bool :=
  match encodeA i with
  | some w => decide (0x60 ≤ w / 2 ^ 25) && decide (w / 2 ^ 25 ≤ 0x6A)
  | none => false

def optC (p : Instr → Bool) (o : Option Instr) : Bool :=
  match o with
  | some i => p i
  | none => false

def optA (p : Instr → Bool) (o : Option (Option Instr)) : Bool :=
  match o with
  | some (some i) => p i
  | _ => false

/-- A load, store, STN, vector access, copy, AMO or RED (12 R244). -/
def isMemWord (i : Instr) : Bool :=
  let m := cMajor i
  (decide (1 ≤ m) && decide (m ≤ 0x1D)) || m == 0x24 || m == 0x25

/-- AMO, a guard instruction, ROWACT, SPAWN or a TAG form (19 R350). -/
def isOutsideWord (i : Instr) : Bool :=
  let m := cMajor i
  (decide (0x18 ≤ m) && decide (m ≤ 0x1B)) || (decide (0x26 ≤ m) && decide (m ≤ 0x2C)) || m == 0x32 || m == 0x36

/-- A serial C-word (19 R355). -/
def isSerialWord (i : Instr) : Bool :=
  let m := cMajor i
  (decide (0x18 ≤ m) && decide (m ≤ 0x1B)) || m == 0x1D || m == 0x1E || (decide (0x24 ≤ m) && decide (m ≤ 0x33)) ||
    (decide (0x36 ≤ m) && decide (m ≤ 0x39))

def isSerial (b : Bundle) : Bool := optC isSerialWord b.c || optA isMmaWord b.a

/-- A C-word that acts after the A-word of its pair: it ends the task or the gang. -/
def actsLast (i : Instr) : Bool :=
  match i with
  | .tail => true
  | .disband _ => true
  | _ => false

/-! ## Both words (R60, R335) -/

/-- A word as decoded; one that is no instruction raises the illegal-instruction trap (R72). -/
def execWord (o : Option Instr) (s : State) : Host.Outcome State Fault Refusal :=
  match o with
  | some i => exec i s
  | none => .next (takeTrap tIllegal s)

/-- A bundle that does not issue on s0, as an attempt that ended in s found: the line it waits for is kept. -/
def stallLike (s0 s : State) : State := stallBundle { s0 with cur := { s0.cur with line := s.cur.line } }

/-- The back-invalidate of the line that a stalled bundle waits for leaves (04 R107). -/
def askCur (s : State) : State :=
  match s.cur.line with
  | some x => askLine { s with cur := { s.cur with line := none } } x
  | none => s

/-- A bundle that did not issue on s0, or whose residue check failed. -/
def notIssued (s0 s : State) : State :=
  if (getCore s s0.cur.core).sealed && !(getCore s0 s0.cur.core).sealed then failResidue s0 else stallLike s0 s

/-- The C-word's pops, for the A-word of a pair whose C-word trapped. -/
def popSources (o : Option Instr) (s : State) : State :=
  match o with
  | none => s
  | some i =>
    match (opEach (fun f => do let _ ← rdX f) (cSources i)).run s with
    | .ok (_, s') => s'
    | .error _ => s

/-- Whether a C-word has parked its bundle so that the other effects of the bundle wait for the end of the park: those of
a checked pair's bundle do not. -/
def parksBundle (s : State) : Bool :=
  issuesAgain (curSlot s).park && (curSlot s).park != .mma && (getCore s s.cur.core).pair.isNone

/-- Whether a C-word's pops can wait: those of the pool and of the notification ring are made at issue. -/
def popsWait (i : Instr) : Bool := (cSources i).all fun f => !isQ f || (qNum f != 8 && qNum f != 13)

/-- The state s1 that a parked C-word left, its pops and the A-word withheld (13 R254, R261, R60): the bundle has no effect
if it is stopped or trapped in the park. -/
def withhold (b : Bundle) (a : Option Instr) (s0 s1 : State) : State :=
  let t0 := curSlot s0
  let wait := optC popsWait b.c
  let h : HeldWords := ⟨s0.cur.pc, s0.cycle, t0.fpctl, if wait then b.c else none, a, t0.x, t0.f, t0.v, t0.p⟩
  let s2 := modCur s1 fun t =>
    let t1 := if wait then
        { t with fpflg := t0.fpflg, sfuRes := t0.sfuRes, q3 := t0.q3, q6 := t0.q6, q6Popped := t0.q6Popped, q7 := t0.q7, q11 := t0.q11 }
      else t
    { t1 with heldWords := some h }
  { s2 with cur := if wait then { s2.cur with flags := 0, popped := [] } else s2.cur }

/-- How a word ended, on a state whose earlier words were done. -/
def afterWord (s0 s : State) (f : State → Host.Outcome State Fault Refusal) : Host.Outcome State Fault Refusal :=
  match s.cur.ended with
  | .stalled => .next (notIssued s0 s)
  | .trapped t => .next (takeTrap t s0)
  | .done => f s

/-- What a member's C-word does: `execWord`, or in a follower of a gang the follower's part. -/
abbrev CWord := Option Instr → State → Host.Outcome State Fault Refusal

/-- Both words of a bundle on the state s0 it issues from. A bundle that would not issue raises nothing; the C-word's trap
comes before the A-word's. -/
def runWords (ec : CWord) (b : Bundle) (s0 : State) : Host.Outcome State Fault Refusal :=
  onNext (ec b.c s0) fun s1 =>
    match b.a with
    | none => afterWord s0 s1 fun s2 => .next (if parksBundle s2 then withhold b none s0 s2 else s2)
    | some a =>
      match s1.cur.ended with
      | .stalled => .next (notIssued s0 s1)
      | .trapped t =>
        onNext (execWord a (popSources b.c s0)) fun s2 =>
          .next (if s2.cur.ended == .stalled then notIssued s0 s2 else takeTrap t s0)
      | .done =>
        if optC actsLast b.c then
          onNext (execWord a s0) fun s2 => afterWord s0 s2 fun s3 =>
            onNext (ec b.c s3) fun s4 => afterWord s0 s4 .next
        else onNext (execWord a s1) fun s2 => afterWord s0 s2 fun s3 =>
          .next (if parksBundle s1 then withhold b a s0 s1 else s3)

/-- Whether the bundle must wait for an acquire form's value (12 R244): it accesses memory, sends a message or starts an
MMA. -/
def waitsAcquire (b : Bundle) (s0 s : State) : Bool :=
  let t := getSlot s0 s0.cur.core s0.cur.slot
  (t.out.any fun o => o.acquire) &&
    (optC isMemWord b.c || optA isMmaWord b.a ||
      (getSlot s s0.cur.core s0.cur.slot).out.any fun o => o.kind == .msg && decide (t.nextItem ≤ o.id))

/-- Both words name one destination (R60). -/
def clashes (b : Bundle) : Bool :=
  match b.c, b.a with
  | some c, some (some a) => pairClash c a
  | _, _ => false

/-! ## Breakpoints and watches (20 R361, R362) -/

/-- Whether an active entry matches the bundle of a task: its address, or a word one of its accesses touches. -/
def entryMatches (d : Die) (g pc : Word) (acc : List (Bool × Nat × Nat)) (n : Nat) : Bool :=
  let w := (tget d.bpc n 0#64).toNat
  let who := tget d.bpg n 0#64
  let a := bits w 55 3 * 8
  bit w 63 && (who == 0#64 || who == g) &&
    (match bits w 62 61 with
     | 0 => bits w 20 0 == pc.toNat
     | 1 => acc.any fun e => e.1 && decide (e.2.1 % 2 ^ 56 < a + 8) && decide (a < e.2.1 % 2 ^ 56 + e.2.2)
     | 2 => acc.any fun e => decide (e.2.1 % 2 ^ 56 < a + 8) && decide (a < e.2.1 % 2 ^ 56 + e.2.2)
     | _ => false)

/-- The accesses of the bundle's C-word. -/
def bundleAccesses (b : Bundle) (s : State) : List (Bool × Nat × Nat) :=
  match b.c with
  | none => []
  | some i =>
    match (accessesOf i).run s with
    | .ok (l, _) => l
    | .error _ => []

/-- The lowest matching entry, unless matching is suppressed. -/
def breakAt (b : Bundle) (s : State) : Option Nat :=
  let t := curSlot s
  let d := getDie s (dieOf s.cur.core)
  if d.bpc.isEmpty || turfyOff s t.region || bit t.bphit.toNat 4 then none
  else (List.range 16).find? (entryMatches d t.gtid s.cur.pc (bundleAccesses b s))

/-- The BKPT trap of a matching entry: BPHIT takes VALID, SUPP and the entry. -/
def hitBreak (n : Nat) (s : State) : State :=
  takeTrap tBkpt (modCur s fun t => { t with bphit := w64 (32 + 16 + n % 16) })

/-- SUPP clears when the bundle issues. -/
def clearSupp (s : State) : State :=
  if bit (curSlot s).bphit.toNat 4 then modCur s fun t => { t with bphit := t.bphit &&& ~~~16#64 } else s

/-- The A-word of a bundle, if it has one that is an instruction. -/
def aWord (b : Bundle) : Option Instr :=
  match b.a with
  | some a => a
  | none => none

/-- A bundle that is not held back takes a breakpoint that it meets, or goes on. -/
def unlessBreak (b : Bundle) (s0 s : State) : State :=
  match breakAt b s0 with
  | some n => hitBreak n s0
  | none => s

/-- A bundle whose words name one destination (R60): it does not issue while either word would not, then it raises
ILLEGAL. -/
def runClash (ec : CWord) (b : Bundle) (s0 s1 : State) : Host.Outcome State Fault Refusal :=
  let waits := fun (s : State) => s.cur.ended == .stalled && !(getCore s s0.cur.core).sealed
  onNext (ec b.c s1) fun c => onNext (execWord (aWord b) s1) fun a =>
    .next (if waits c then stallLike s0 c else if waits a then stallLike s0 a else unlessBreak b s0 (takeTrap tIllegal s1))

/-- A bundle on the state s0 it issues from: it does not issue, traps, or has both words' effect. -/
def runBundle (ec : CWord) (b : Bundle) (s0 : State) : Host.Outcome State Fault Refusal :=
  let s1 := clearSupp s0
  if !popsReady s1 b.c (aWord b) then .next (stallBundle s0)
  else if clashes b then runClash ec b s0 s1
  else onNext (runWords ec b s1) fun r =>
    if r.cur.ended == .stalled then .next (if (getCore r s0.cur.core).sealed then r else stallLike s0 r)
    else if waitsAcquire b s1 r then .next (stallBundle s0)
    else .next (unlessBreak b s0 r)

/-! ## What follows a bundle (R60, R74, R78, R173) -/

/-- A task's slot after its bundle: where it goes on, from when, and parked by the switch mark. -/
def finishSlot (b : Bundle) (now : Nat) (next : Word) (taken : Bool) (t : Slot) : Slot :=
  let t1 := { t with
    notBefore := now + 1 + b.g + (if taken then 1 else 0)
    everOutside := t.everOutside || optC isOutsideWord b.c || optA isMmaWord b.a }
  match t1.park with
  | .none => { t1 with pc := next, park := if b.s then .switchMark else .none }
  | p => if issuesAgain p then { t1 with nextPc := next, nextSw := b.s } else { t1 with pc := next, nextSw := b.s }

/-- The address of the next bundle. -/
def nextAddress (k : Cur) : Word :=
  match k.target with
  | some a => a
  | none => k.pc + w64 k.size

/-- Whether a slot's task goes on at once, or is parked by the switch mark. -/
def parkFree (t : Slot) : Bool :=
  match t.park with
  | .none => true
  | .switchMark => true
  | _ => false

/-- An FP event that cannot be raised yet waits for the next bundle. -/
def holdEvent (s : State) (c i : Nat) (k : Cur) (fl : Nat) : State :=
  modSlot s c i fun t => { t with trapNext := some ⟨8, fl, k.flagSrc, k.pc⟩ }

/-- The FP event of a bundle whose merged flags are enabled (02 R50). -/
def bundleEvent (s : State) (k : Cur) : State :=
  let t := getSlot s k.core k.slot
  let fl := enabledFlags t k.flags.toNat
  if fl == 0 then s
  else if parkFree t then fpEvent s k.core k.slot k.pc fl k.flagSrc
  else holdEvent s k.core k.slot k fl

/-- The slot issued last and in this cycle. -/
def markIssued (s : State) (core i : Nat) : State :=
  modCore s core fun k => { k with lastSlot := i, issuedAt := some s.cycle }

/-- The registers of slot t in place of those of u. -/
def keepFiles (t u : Slot) : Slot := { u with x := t.x, f := t.f, v := t.v, p := t.p }

/-- The withheld words of a slot's parked bundle act, on the registers and at the cycle of its issue, once the park has
ended; while they cannot, they stay. -/
def runHeld (s : State) (c i : Nat) : State :=
  let t := getSlot s c i
  match t.heldWords with
  | none => s
  | some h =>
    if !parkFree t then s
    else
      let files : Slot := { t with x := h.x, f := h.f, v := h.v, p := h.p, heldWords := none }
      let s1 := { setSlot s c i files with
        cycle := h.cycle
        cur := { Cur.empty with core := c, slot := i, pc := h.pc, fpctl := h.fpctl, first := s.nextFlight } }
      match execWord (some (h.a.getD .nop)) (popSources h.c s1) with
      | .next r =>
        match r.cur.ended with
        | .stalled => s
        | .trapped _ => modSlot s c i fun t => { t with heldWords := none }
        | .done =>
          if (t.out.any fun o => o.acquire) && (getSlot r c i).out.any fun o => o.kind == .msg && decide (t.nextItem ≤ o.id) then s
          else
          let r1 := modSlot { r with cycle := s.cycle } c i fun u => landLate (keepFiles t u) s.cycle
          { bundleEvent r1 r.cur with cur := Cur.empty }
      | .fault _ => s
      | .refused _ => s

/-- Every slot's withheld words that may act. -/
def runAllHeld (s : State) (c : Nat) : State :=
  (List.range 8).foldl (fun s i => if (getSlot s c i).heldWords.isSome then runHeld s c i else s) s

/-- What follows a bundle of a slot outside gang and pair. A TAIL has freed its slot: enabled flags that the same bundle merged
make no FP event (DESIGN CHOICE, log 37). -/
def finishBundle (b : Bundle) (s : State) : State :=
  let k := s.cur
  let s1 :=
    if k.freed || k.ended != .done then s
    else bundleEvent (modSlot s k.core k.slot (finishSlot b s.cycle (nextAddress k) k.target.isSome)) k
  markIssued s1 k.core k.slot

/-! ## One slot (15 R309) -/

/-- Whether a slot may try to issue: its task is not parked, its delays have passed, and no stop is asked of it that it can
meet now (18 R337). -/
def slotReady (s : State) (core i : Nat) : Bool :=
  let t := getSlot s core i
  t.held && t.park == .none && t.heldWords.isNone && decide (t.notBefore ≤ s.cycle) &&
    (match t.stop with
     | none => true
     | some true => false
     | some false => t.stagedHdr.isSome)

/-- The bundle of a slot: what waits to stop the task comes first, then framing, then the words. -/
def issueSlot (core i : Nat) (s : State) : Host.Outcome State Fault Refusal :=
  let t := getSlot s core i
  if t.trapNext.isSome then .next (raisePending { s with cur := { Cur.empty with core := core, slot := i } } core i)
  else match fetch s core t.pc with
    | .error tr =>
      .next (markIssued (takeTrap tr { s with cur := { Cur.empty with core := core, slot := i, pc := t.pc } }) core i)
    | .ok b =>
      onNext (runBundle execWord b (beginBundle s core i b)) fun r =>
        .next (if r.cur.ended == .stalled then r else pairCopy (finishBundle b r) core i)

/-- The slots in the order the core tries them. -/
def slotOrder (k : Core) : List Nat := (List.range 8).map fun j => (k.lastSlot + 1 + j) % 8

/-- The first ready slot issues. -/
def trySlots (core : Nat) : List Nat → State → Host.Outcome State Fault Refusal
  | [], s => .next (stallBundle s)
  | i :: r, s =>
    if slotReady s core i && !(getCore s core).sealed then
      onNext (issueSlot core i s) fun s1 => if s1.cur.ended == .stalled then trySlots core r (askCur s1) else .next s1
    else trySlots core r s

/-! ## Gangs (09 R204-R207) -/

/-- JR in a follower: its link, and the pop of its source; the leader decides where it goes. -/
def followerJr (rd ra : XField) (s : State) : Host.Outcome State Fault Refusal :=
  runOp (do
    operands [ra] (.x rd) false
    let _ ← rdChecked ra
    linkTo rd) s

/-- The bundle as a follower executes it: a branch and DISBAND are the leader's. -/
def followerBundle (b : Bundle) : Bundle :=
  match b.c with
  | some (.b _) => { b with c := some .nop }
  | some (.bp _ _ _) => { b with c := some .nop }
  | some (.disband _) => { b with c := some .nop }
  | _ => b

/-- A follower's C-word. -/
def followerWord (o : Option Instr) (s : State) : Host.Outcome State Fault Refusal :=
  match o with
  | some (.jr rd ra) => followerJr rd ra s
  | _ => execWord o s

/-- One member's bundle: each matches breakpoints with its own task and accesses (20 R362). -/
def runMember (g : Gang) (b : Bundle) (s0 : State) : Host.Outcome State Fault Refusal :=
  if isLeader g s0.cur.core then runBundle execWord b s0 else runBundle followerWord (followerBundle b) s0

/-- The bundle in each listed member: the state, the members that trapped, and what each member's words left; none when a
member does not issue. -/
def runMembers (g : Gang) (b : Bundle) :
    List Nat → State → List (Nat × Trap) → List Cur → Except State (State × List (Nat × Trap) × List Cur)
  | [], s, ts, ks => .ok (s, ts, ks)
  | c :: r, s, ts, ks =>
    match runMember g b (beginBundle s c (memberSlot g c) b) with
    | .next s1 =>
      match s1.cur.ended with
      | .stalled => .error s1
      | .trapped t => runMembers g b r s (ts ++ [(c, t)]) ks
      | .done => runMembers g b r s1 ts (ks ++ [s1.cur])
    | .fault _ => .error (stallBundle s)
    | .refused _ => .error (stallBundle s)

/-- Every member stands at the leader's bundle. -/
def gangAt (s : State) (g : Gang) (pc : Word) : State :=
  (gangCores g).foldl (fun s c => modSlot s c (memberSlot g c) fun t => { t with pc := pc }) s

/-- The members that trapped park with their traps, the others with the breakdown (R207). -/
def breakTrapped (s : State) (g : Gang) (ts : List (Nat × Trap)) : State :=
  breakGang (ts.foldl (fun s e => parkTrapped s e.1 (memberSlot g e.1) e.2) s) g (ts.map fun e => e.1)

/-- What follows a bundle that every member has completed; an enabled FP event breaks the gang down. -/
def finishGang (g : Gang) (b : Bundle) (ks : List Cur) (s : State) : State :=
  let lead := match ks.getLast? with
    | some k => k
    | none => Cur.empty
  let formed := (getCore s g.base).gang.isSome
  let s1 := ks.foldl (fun s k =>
    if !formed && k.core != g.base then modSlot s k.core k.slot fun t => { t with notBefore := s.cycle + 1 + b.g }
    else modSlot s k.core k.slot (finishSlot b s.cycle (nextAddress lead) lead.target.isSome)) s
  let evs := ks.filter fun k => enabledFlags (getSlot s1 k.core k.slot) k.flags.toNat != 0
  let free := ks.all fun k => parkFree (getSlot s1 k.core k.slot)
  let s2 := if free || !formed then evs.foldl bundleEvent s1
    else evs.foldl (fun s k => holdEvent s k.core k.slot k (enabledFlags (getSlot s k.core k.slot) k.flags.toNat)) s1
  let s3 := if formed && free && !evs.isEmpty then breakGang s2 g (evs.map fun k => k.core) else s2
  ks.foldl (fun s k => markIssued s k.core k.slot) s3

/-- Whether every member is ready (R204). -/
def gangReady (s : State) (g : Gang) : Bool :=
  (gangCores g).all fun c => slotReady s c (memberSlot g c) && (getCore s c).issuedAt != some s.cycle &&
    (getCore s c).reached != some s.cycle && liveCore s c

/-- The gang's bundle, fetched at the leader's address; followers are worked out first, the leader last. -/
def issueGang (g : Gang) (s : State) : Host.Outcome State Fault Refusal :=
  let pend := (gangCores g).filter fun c => (getSlot s c (memberSlot g c)).trapNext.isSome
  let pc := (getSlot s g.base (memberSlot g g.base)).pc
  let s := (gangCores g).foldl runAllHeld s
  let s0 := gangAt { s with cur := { Cur.empty with core := g.base, slot := memberSlot g g.base, pc := pc } } g pc
  if !gangReady s g then .next (stallBundle s)
  else if !pend.isEmpty then
    .next (breakGang (pend.foldl (fun s c => raisePending s c (memberSlot g c)) s0) g pend)
  else match fetch s g.base pc with
    | .error tr => .next (breakTrapped s0 g [(g.base, tr)])
    | .ok b =>
      match runMembers g b ((gangCores g).drop 1 ++ [g.base]) s0 [] [] with
      | .error s1 =>
        .next (if (getCore s1 s1.cur.core).sealed then failResidue { s0 with cur := s1.cur } else askCur (stallLike s s1))
      | .ok (s1, [], ks) => .next (finishGang g b ks s1)
      | .ok (_, ts, _) => .next (breakTrapped s0 g ts)

/-! ## Checked pairs (19 R353-R358) -/

/-- The registers of slot u in place of those of t. -/
def withRegs (t u : Slot) : Slot :=
  { t with
    x := u.x
    xRes := u.xRes
    f := u.f
    v := u.v
    p := u.p
    pendX := u.pendX
    pendF := u.pendF
    pendV := u.pendV
    late := u.late }

/-- The bytes of a register as a result of fixed latency leaves it. -/
def lateBytes (t : Slot) (l : Late) : List Byte :=
  match l.dst with
  | .x _ => natLe 8 l.val.toNat
  | .f _ => natLe 8 l.val.toNat
  | .v n => natLe 64 ((getV t n &&& ~~~l.mask) ||| (l.val &&& l.mask)).toNat
  | .p _ => natLe 1 l.val.toNat
  | .none => []

/-- The bytes a C-word writes, a queue source at its head. -/
def writeData (i : Instr) : Op (List Byte) :=
  let cm := fun (m : Cm) (n : Nat) => (do
    let v ← rdX m.rd
    pure (natLe n v.toNat) : Op (List Byte))
  let elements := fun (vd : FField) (ew : BitVec 2) (es : List (Nat × Word)) => (do
    let v ← rdV vd
    pure (es.flatMap fun e => natLe (ewBits ew / 8) (velem v (ewBits ew) e.1)) : Op (List Byte))
  let atomic := fun (rs : List XField) => (do
    let s ← look
    pure (rs.flatMap fun r => natLe 8 (peekX s r).toNat) : Op (List Byte))
  match i with
  | .stb m => cm m 1
  | .sth m => cm m 2
  | .stw m => cm m 4
  | .std m => cm m 8
  | .stn m => cm m 1
  | .fstS m => do
    let v ← rdF m.fd
    pure (natLe 4 v.toNat)
  | .fstD m => do
    let v ← rdF m.fd
    pure (natLe 8 v.toNat)
  | .vst m => do
    let v ← rdV m.fd
    pure (natLe 64 v.toNat)
  | .stx rd _ _ _ sz => do
    let v ← rdX rd
    pure (natLe (2 ^ sz.toNat) v.toNat)
  | .vsts vd ra rb mk ew => do
    let a ← rdX ra
    let b ← rdX rb
    let s ← look
    elements vd ew (strideAddrs s mk ew a b)
  | .vscat vd ra vi mk ew => do
    let a ← rdX ra
    let i ← rdV vi
    let s ← look
    elements vd ew (indexAddrs s mk ew a i)
  | .amo rd _ rb _ => atomic [rd, rb]
  | .amoAq rd _ rb _ => atomic [rd, rb]
  | .amoRl rd _ rb _ => atomic [rd, rb]
  | .amoAr rd _ rb _ => atomic [rd, rb]
  | .red _ rb _ => atomic [rb]
  | .redRl _ rb _ => atomic [rb]
  | _ => pure []

/-- The bytes that a bundle's C-word writes. -/
def bundleData (b : Bundle) (s : State) : List Byte :=
  match b.c with
  | none => []
  | some i =>
    match (writeData i).run s with
    | .ok (l, _) => l
    | .error _ => []

/-- The registers whose value a bundle left pending. -/
def newPending (t0 t : Slot) : List RegId :=
  let new := fun (a b : List Nat) => b.filter fun n => !a.contains n
  (new t0.pendX t.pendX).map RegId.x ++ (new t0.pendF t.pendF).map RegId.f ++ (new t0.pendV t.pendV).map RegId.v

/-- What a bundle that went from s0 to s feeds to the fingerprint (R354): the addresses and data of its writes, then every
register written, or in the place of one still pending its value to come. -/
def feedBundle (b : Bundle) (s0 s : State) : List Fed :=
  let t0 := curSlot s0
  let t := getSlot s s0.cur.core s0.cur.slot
  let wr := (bundleAccesses b s0).filter fun e => e.1
  let data := if wr.isEmpty then [] else bundleData b s0
  .data (wr.flatMap fun e => natLe 8 e.2.1) :: .data data ::
    ((t.late.drop t0.late.length).map fun l => Fed.data (lateBytes t0 l)) ++ (newPending t0 t).map Fed.coming

/-- What a member's bundle feeds: its trap's cause word, or its writes and registers. -/
def feedOutcome (b : Bundle) (s0 s : State) : List Fed :=
  match s.cur.ended with
  | .trapped t => [.data (natLe 8 (causeWord s0.cur.core s0.cur.slot t).toNat)]
  | .stalled => []
  | .done => feedBundle b s0 s

/-! ### The partner's bundle (R353) -/

/-- A C-word that loads. -/
def isLoadWord (i : Instr) : Bool :=
  match i with
  | .ldb _ => true
  | .ldbu _ => true
  | .ldh _ => true
  | .ldhu _ => true
  | .ldw _ => true
  | .ldwu _ => true
  | .ldd _ => true
  | .fldS _ => true
  | .fldD _ => true
  | .ldx _ _ _ _ _ _ => true
  | .vld _ => true
  | .vlds _ _ _ _ _ => true
  | .vgath _ _ _ _ _ => true
  | _ => false

/-- The partner's registers u with what a load left in the issuing slot, which went from t0 to t. -/
def takeLoad (t0 u t : Slot) : Slot :=
  let new := fun (a b : List Nat) => b.filter fun n => !a.contains n
  { withRegs t u with
    late := u.late ++ t.late.drop t0.late.length
    pendX := u.pendX ++ new t0.pendX t.pendX
    pendF := u.pendF ++ new t0.pendF t.pendF
    pendV := u.pendV ++ new t0.pendV t.pendV }

/-- A C-word as the partner executes it: a load is the issuing core's, whose registers t0 it uses, and brings the partner the
same value. -/
def partnerWord (t0 : Slot) (o : Option Instr) (s : State) : Host.Outcome State Fault Refusal :=
  if optC isLoadWord o then
    onNext (execWord o (modCur s fun t => withRegs t t0)) fun r => .next (modCur r fun t => takeLoad t0 (curSlot s) t)
  else execWord o s

/-- The partner's run of the bundle, in the issuing slot with the partner's registers. -/
def runPartner (b : Bundle) (p : Pair) (s0 : State) : Host.Outcome State Fault Refusal :=
  runBundle (partnerWord (curSlot s0)) b
    (modSlot s0 s0.cur.core p.slot fun t => withRegs t (getSlot s0 p.partner p.partnerSlot))

/-! ### The gate -/

/-- Whether an item of a bundle goes through the gate. -/
def gated (first : Nat) (f : Flight) : Bool :=
  decide (first ≤ f.id) && f.chan.isSome && !f.timed &&
    (match f.act with
     | .remoteRead _ => false
     | _ => true)

/-- What a bundle that began on s0 sent goes into the gate instead, what its core would hold back too; sequence numbers are
taken when it leaves. -/
def toGate (s0 s : State) (core : Nat) : State :=
  let first := s0.nextFlight
  let k0 := getCore s0 core
  let held := (getCore s core).heldRel.filter fun h => decide (first ≤ h.num)
  let out := s.flights.filter (gated first) ++
    held.map fun h => (⟨h.num, some ⟨h.src, h.dst⟩, s.cycle, false, false, h.ev⟩ : Flight)
  { modCore s core (fun k => { k with
      seqOut := k0.seqOut
      atomSeq := k0.atomSeq
      heldRel := k.heldRel.filter fun h => decide (h.num < first)
      pair := k.pair.map fun p => { p with gate := p.gate ++ out } }) with
    flights := s.flights.filter fun f => !gated first f }

/-- The VA range a gated item writes. -/
def gateSpan (f : Flight) : Option (Nat × Nat) :=
  match f.act with
  | .remoteWrite w => some (w.va.toNat, w.data.length)
  | .stnMessage w => some (w.va.toNat, 1)
  | .atomicMessage a => some (a.va.toNat, atomBytes a.op)
  | _ => none

/-- Whether a load of the bundle meets a gated write (R353). -/
def meetsGate (p : Pair) (b : Bundle) (s0 : State) : Bool :=
  (bundleAccesses b s0).any fun e => !e.1 && p.gate.any fun f =>
    match gateSpan f with
    | some (a, n) => decide (a < e.2.1 + e.2.2) && decide (e.2.1 < a + n)
    | none => false

/-- The interval is to close; the bundle has not issued. -/
def askClosing (s : State) (core : Nat) (p : Pair) : State := stallBundle (setPair s core { p with closing := true })

/-- The interval after one more bundle, and whether it is to close (R354). -/
def grownPair (p : Pair) (ev : Bool) : Pair :=
  { p with
    bundles := p.bundles + 1
    closing := ev || decide (1024 ≤ p.bundles + 1) || decide (192 ≤ p.undo.length) || decide (48 ≤ p.gate.length) }

/-- A bundle on which the members disagree: no effect, and fingerprints that differ. -/
def disagree (s : State) (core : Nat) (p : Pair) : State :=
  setPair s core { p with
    bundles := p.bundles + 1
    fedSelf := [.data [0#8]]
    fedPartner := [.data [1#8]]
    closing := true }

/-- An MMA the bundle issued takes the operands that the other member read (R357). -/
def twinMma (s0 s rp : State) : State :=
  let cl := clusterOf s0.cur.core
  let new := (getCluster s0 cl).mmaOrder
  match (getCluster rp cl).mmaPending.find? fun t => t.order == new with
  | none => s
  | some t => modCluster s cl fun k => { k with
      mmaPending := k.mmaPending.map fun q => if q.order == new then { q with twin := some ⟨t.xd, t.xa, t.xb, t.t0, t.t1⟩ } else q }

/-- What the partner's own divider makes of the bundle. -/
def twinDivs (s0 rp : State) : List (RegId × Word) :=
  let core := s0.cur.core
  ((getCore rp core).divQueue.drop (getCore s0 core).divQueue.length).map fun j => (j.dst, j.val)

/-- The partner's registers after a bundle. -/
def partnerRegs (p : Pair) (s0 rp s : State) : State :=
  match rp.cur.ended with
  | .done => modCore (setSlot s p.partner p.partnerSlot (withRegs (getSlot s0 p.partner p.partnerSlot) (curSlot rp))) s0.cur.core
      fun k => { k with pair := k.pair.map fun q => { q with twin := q.twin ++ twinDivs s0 rp } }
  | .stalled => s
  | .trapped _ => s

/-- A bundle both members completed: the partner keeps its own registers, the items enter the gate. -/
def finishPair (b : Bundle) (s0 s rp : State) (p0 : Pair) : State :=
  let core := s0.cur.core
  let k := s.cur
  let sp := modSlot s0 core p0.slot fun t => withRegs t (getSlot s0 p0.partner p0.partnerSlot)
  let s1 := toGate s0 (finishBundle b (partnerRegs p0 s0 rp (twinMma s0 s rp))) core
  let ev := enabledFlags (getSlot s core k.slot) k.flags.toNat != 0
  modCore s1 core fun c => { c with pair := c.pair.map fun p =>
    { grownPair p ev with fedSelf := p0.fedSelf ++ feedBundle b s0 s, fedPartner := p0.fedPartner ++ feedBundle b sp rp } }

/-- A serial bundle, or one that traps, ends the interval: it is fed to the fingerprints, and has its effect once they agree
(R355, R358). -/
def withholdPair (b : Bundle) (s0 s rp : State) (p : Pair) : State :=
  let core := s0.cur.core
  let sp := modSlot s0 core p.slot fun t => withRegs t (getSlot s0 p.partner p.partnerSlot)
  markIssued (setPair s0 core { p with
    bundles := p.bundles + 1
    serial := true
    closing := true
    fedSelf := p.fedSelf ++ feedOutcome b s0 s
    fedPartner := p.fedPartner ++ feedOutcome b sp rp }) core p.slot

/-- The pair's bundle on both members' registers. -/
def runPair (b : Bundle) (p : Pair) (s0 : State) : Host.Outcome State Fault Refusal :=
  let core := s0.cur.core
  onNext (runBundle execWord b s0) fun r =>
    if r.cur.ended == .stalled then .next (askCur r)
    else if meetsGate p b s0 then .next (askClosing s0 core p)
    else onNext (runPartner b p s0) fun rp =>
      match r.cur.ended, rp.cur.ended with
      | _, .stalled =>
        .next (if (getCore rp core).sealed then
            failResidue { s0 with cur := { s0.cur with core := p.partner, slot := p.partnerSlot } }
          else markIssued (disagree s0 core p) core p.slot)
      | .done, .done => .next (if isSerial b then withholdPair b s0 r rp p else finishPair b s0 r rp p)
      | .trapped _, _ => .next (withholdPair b s0 r rp p)
      | _, .trapped _ => .next (if isSerial b then withholdPair b s0 r rp p else markIssued (disagree s0 core p) core p.slot)
      | _, _ => .next (markIssued (disagree s0 core p) core p.slot)

/-- The agreed bundle is done with. -/
def clearAgreed (s : State) (core : Nat) : State :=
  modCore s core fun k => { k with pair := k.pair.map fun p => { p with agreed := false } }

/-- A bundle with the effect that its interval has agreed on, or one that ends the pair: nothing of it is kept back. -/
def runAgreed (b : Bundle) (p : Pair) (s0 : State) : Host.Outcome State Fault Refusal :=
  let core := s0.cur.core
  onNext (runBundle execWord b s0) fun r =>
    match r.cur.ended with
    | .stalled => .next (askCur r)
    | .trapped _ => .next (clearAgreed (markIssued r core p.slot) core)
    | .done =>
      if (getCore r core).pair.isNone then .next (finishBundle b r)
      else onNext (runPartner b p s0) fun rp =>
        .next (clearAgreed (finishBundle b (partnerRegs p s0 rp (twinMma s0 r rp))) core)

/-- A bundle that ends its task's pair, or asks for the stop of its task. -/
def endsPair (b : Bundle) : Bool :=
  match b.c with
  | some .tail => true
  | some .yield => true
  | _ => false

/-- The first bundle of an interval keeps the members' slots as its checkpoints. -/
def openInterval (s : State) (core : Nat) (p : Pair) : State × Pair :=
  if p.bundles == 0 then
    let q := { p with ckSelf := getSlot s core p.slot, ckPartner := getSlot s p.partner p.partnerSlot }
    (setPair s core q, q)
  else (s, p)

/-- The pair issues. -/
def issuePair (core : Nat) (p0 : Pair) (s00 : State) : Host.Outcome State Fault Refusal :=
  if p0.exchange.isSome || p0.closing || !slotReady s00 core p0.slot then .next (stallBundle s00)
  else
    let s := syncPair s00 core
    let (s1, p) := openInterval s core ((getCore s core).pair.getD p0)
    let t := getSlot s1 core p.slot
    let s2 := { s1 with cur := { Cur.empty with core := core, slot := p.slot, pc := t.pc } }
    if t.trapNext.isSome then
      .next (if intervalEmpty p then raisePending s2 core p.slot else askClosing s2 core p)
    else match fetch s core t.pc with
      | .error tr =>
        .next (if intervalEmpty p then markIssued (takeTrap tr s2) core p.slot else askClosing s2 core p)
      | .ok b =>
        let s3 := beginBundle s1 core p.slot b
        if p.agreed then runAgreed b p s3
        else if (isSerial b || endsPair b) && !intervalEmpty p then .next (askClosing s2 core p)
        else if endsPair b then runAgreed b p s3
        else runPair b p s3

/-! ## A core's turn (15 R309) -/

/-- Whether a timed event has come whose turn is not taken yet: what happens at a cycle comes before the bundles that
issue in it (log 3). -/
def timedDue (s : State) : Bool := s.flights.any fun f => f.timed && decide (f.due ≤ s.cycle)

/-- Whether something from outside has already taken effect at the core or at its partner in this cycle: the core's own
bundle of the cycle would come before it (07 R146, 15 R310). -/
def passedBy (s : State) (core : Nat) : Bool :=
  let k := getCore s core
  k.reached == some s.cycle ||
    (match k.pair with
     | some p => (getCore s p.partner).reached == some s.cycle
     | none => false)

/-- A core issues at most one bundle in a cycle. -/
def issueCore (core : Nat) (s : State) : Host.Outcome State Fault Refusal :=
  let k := getCore s core
  let s0 := runAllHeld { s with cur := Cur.empty } core
  if !runsTasks s core || k.pairedTo.isSome || k.issuedAt == some s.cycle || timedDue s || passedBy s core then
    .next (stallBundle { s with cur := Cur.empty })
  else match k.gang, k.pair with
    | some g, _ => if isLeader g core then issueGang g s0 else .next (stallBundle s0)
    | none, some p => issuePair core p s0
    | none, none => trySlots core (slotOrder k) s0

end Sys2Proof.Machine
end

