-- ==== Sys2Proof/Machine/Events.lean ====
section
/-! DEFINITION. What each event that the part schedules does: the meaning of the step of the same name. -/

namespace Sys2Proof.Machine

/-- The meaning of an event. -/
def execEvent (e : Event) (s : State) : Host.Outcome State Fault Refusal :=
  match e with
  | .tlbInvalidationDone core => execTlbInvalidationDone core s
  | .holdReleaseDone core => execHoldReleaseDone core s
  | .connectionTableSwitch core => execConnectionTableSwitch core s
  | .circuitRetrained core => execCircuitRetrained core s
  | .alogcntClear region => execAlogcntClear region s
  | .dispatch core => execDispatch core s
  | .readyQueuePull core => execReadyQueuePull core s
  | .spawnPlace die who e => execSpawnPlace die who e s
  | .stealTimer die => execStealTimer die s
  | .stealRequest thief victim => execStealRequest thief victim s
  | .stealAnswer thief es => execStealAnswer thief es s
  | .bagPop core => execBagPop core s
  | .claim k => execClaim k s
  | .claimReply k node => execClaimReply k node s
  | .release k => execRelease k s
  | .tomb t => execTomb t s
  | .link l => execLink l s
  | .defer claimer l => execDefer claimer l s
  | .redefer l => execRedefer l s
  | .ack l => execAck l s
  | .settle l expect => execSettle l expect s
  | .messageArrive m => execMessageArrive m s
  | .bounce m reason => execBounce m reason s
  | .messageStatus who w => execMessageStatus who w s
  | .errorNotice n => execErrorNotice n s
  | .atomicMessage a => execAtomicMessage a s
  | .stnMessage w => execStnMessage w s
  | .amoReturn who v => execAmoReturn who v s
  | .scaleOutAtomic chip core a => execScaleOutAtomic chip core a s
  | .remoteWrite w => execRemoteWrite w s
  | .writeAck who => execWriteAck who s
  | .remoteRead r => execRemoteRead r s
  | .loadReply l => execLoadReply l s
  | .securityRequestDone result rslot => execSecurityRequestDone result rslot s
  | .fenceComplete core slot => execFenceComplete core slot s
  | .dividerStart core => execDividerStart core s
  | .dividerResult core => execDividerResult core s
  | .sfuStart cluster => execSfuStart cluster s
  | .sfuResult core slot => execSfuResult core slot s
  | .copyStart id => execCopyStart id s
  | .copyComplete id => execCopyComplete id s
  | .acqreq a => execAcqreq a s
  | .grant g status poison a => execGrant g status poison a s
  | .pull g inPlace => execPull g inPlace s
  | .forward g recipient inPlace => execForward g recipient inPlace s
  | .fwddone g sent lost => execFwddone g sent lost s
  | .done g status => execDone g status s
  | .unpin g => execUnpin g s
  | .guardRelease who g r => execGuardRelease who g r s
  | .guardAnswer who g w => execGuardAnswer who g w s
  | .guardHomeTimeout who g => execGuardHomeTimeout who g s
  | .forwardTimeout g => execForwardTimeout g s
  | .bankReady cluster bank => execBankReady cluster bank s
  | .prechargeEnd cluster bank => execPrechargeEnd cluster bank s
  | .refreshWindow cluster bank => execRefreshWindow cluster bank s
  | .refreshEnd cluster bank => execRefreshEnd cluster bank s
  | .autoClose cluster bank => execAutoClose cluster bank s
  | .rowTransfer cluster slot tag => execRowTransfer cluster slot tag s
  | .deferredClose cluster bank => execDeferredClose cluster bank s
  | .rowstatStatus who w => execRowstatStatus who w s
  | .mmaAccept cluster => execMmaAccept cluster s
  | .rowBlockComplete cluster => execRowBlockComplete cluster s
  | .dutyIdleEnd cluster => execDutyIdleEnd cluster s
  | .barrierOperation k => execBarrierOperation k s
  | .barrierAnswer who w => execBarrierAnswer who w s
  | .barrierRelease who w => execBarrierRelease who w s
  | .staggerExpiry who w => execStaggerExpiry who w s
  | .barrierBoundExpiry who => execBarrierBoundExpiry who s
  | .barrierCancel who owner addr => execBarrierCancel who owner addr s
  | .getchunkResult who counter => execGetchunkResult who counter s
  | .gangForms core => execGangForms core s
  | .gangformTimeout core => execGangformTimeout core s
  | .taskStop core slot => execTaskStop core slot s
  | .start m => execStart m s
  | .kill m => execKill m s
  | .regionComplete region => execRegionComplete region s
  | .coreSeal core => execCoreSeal core s
  | .intervalClose core => execIntervalClose core s
  | .fingerprintExchange core => execFingerprintExchange core s
  | .traceRecordWrite die r => execTraceRecordWrite die r s
  | .replayTimeout die core => execReplayTimeout die core s
  | .outputSpill die ep => execOutputSpill die ep s
  | .spillDrain die ep => execSpillDrain die ep s
  | .calibrationPause die ep => execCalibrationPause die ep s
  | .calibrationEnd die ep => execCalibrationEnd die ep s
  | .frameReceive f => execFrameReceive f s
  | .retransmitTimeout port => execRetransmitTimeout port s
  | .portDown port => execPortDown port s
  | .chipUnreachable chip => execChipUnreachable chip s
  | .governorTick watts => execGovernorTick watts s
  | .telemetrySample pkg die => execTelemetrySample pkg die s
  | .capoOperation who g op => execCapoOperation who g op s
  | .contextReadBack core slot ctx => execContextReadBack core slot ctx s

end Sys2Proof.Machine
end

