-- ==== Sys2Proof/Machine/Schedule.lean ====
section
/-! DEFINITION. Who moves next (log 3): the firing of items in flight in the order the spec gives (13 R256), the actions of
the part's units, what the outside world does, the passing of a cycle (03 R73, 20 R367), and a schedule for a package left
to itself. -/

namespace Sys2Proof.Machine

/-! ## Items in flight (13 R256, 22 R384-R386) -/

/-- Atomic messages of a core to one owner or home keep their order whichever slot sent them (12 R246). -/
def isAtomicEvent (e : Event) : Bool :=
  match e with
  | .atomicMessage _ => true
  | .barrierOperation _ => true
  | _ => false

/-- Whether an item must be performed before a later one: same destination, and the same source; a message also follows the
earlier accesses of its core's tasks (13 R256, R266). -/
def precedes (f g : Flight) : Bool :=
  match f.chan, g.chan with
  | some a, some b =>
    a.dst == b.dst &&
      (a.src == b.src ||
        (srcCore a.src == srcCore b.src && (srcCore a.src).isSome &&
          (isMessageEvent g.act || (isAtomicEvent f.act && isAtomicEvent g.act))))
  | _, _ => false

/-- A steal reaches a ready queue after the pulls of the die's cores in the same cycle: the thief's number is the higher
(16 R318). -/
def stealWaits (s : State) (e : Event) : Bool :=
  match e with
  | .stealRequest _ victim => !(getDie s victim).ready.isEmpty && (liveCores s victim).any (canPull s)
  | _ => false

/-- Whether a message that the end of forced replay released has an earlier one before it (20 R369). -/
def releasedLater (s : State) (f : Flight) : Bool :=
  s.dies.any fun e => e.2.rpFree.contains f.id &&
    (e.2.rpFree.takeWhile fun i => i != f.id).any fun i => s.flights.any fun g => g.id == i && !g.stopped

/-- Whether the item at a place of the flight list may take effect now. -/
def mayFire (s : State) (k : Nat) : Bool :=
  match s.flights[k]? with
  | none => false
  | some f =>
    decide (f.due ≤ s.cycle) && !f.stopped && !stealWaits s f.act && !releasedLater s f && !((s.flights.take k).any fun e => precedes e f) &&
      (match f.chan with
       | some c => !pathHeld s c
       | none => true)

/-- The item at a place of the flight list takes effect; one that may not stays. -/
def fireAt (k : Nat) (s : State) : Host.Outcome State Fault Refusal :=
  match s.flights[k]? with
  | some f => if mayFire s k then execEvent f.act { s with flights := s.flights.eraseIdx k, firing := f.id } else .next s
  | none => .next s

/-! ## The passing of a cycle -/

/-- A core over one cycle: fixed-latency results become visible, parks end, and the cycle sums grow (20 R367). -/
def tickCore (now : Nat) (k : Core) : Core :=
  { k with
    slots := k.slots.map fun e => (e.1, wakeSlot (landLate e.2 now))
    tsrun := if k.ran then k.tsrun + 1 else k.tsrun
    ran := k.slots.any fun e => e.2.held
    tswait := k.tswait + w64 k.runq.length }

/-- Regions whose tasks a core holds. -/
def heldRegions (k : Core) : List Nat := ((k.slots.filter fun e => e.2.held).map fun e => e.2.region).eraseDups

/-- Core cycles of the regions' tasks (21 R374). -/
def regionCycles (s : State) : Tab Word :=
  (s.cores.flatMap fun e => heldRegions e.2).foldl (fun t r => tset t r (tget t r 0 + 1)) s.host.rscyc

/-- What comes with a cycle: refresh windows, steal timers, the governor's tick and the telemetry sample. -/
def periodic (s : State) : List Event :=
  let ds := bootedDies s
  windowsAt s ++
  (if s.cycle % 2000 == 0 then ds.map Event.stealTimer else []) ++
  (if s.cycle % 20000 == 0 && !ds.isEmpty then [.governorTick (Config.packagePower s.cycle)] else []) ++
  (if s.cycle % Config.msCycles == 0 && !ds.isEmpty then
    [.telemetrySample (Config.packagePower s.cycle) ((List.range 8).map fun d => Config.diePower d s.cycle)] else [])

/-- A cycle passes; not past a timed event. -/
def tickStep (s : State) : State :=
  if timedDue s then s
  else
    let s1 : State := { s with
      cycle := s.cycle + 1
      cycleFlight := s.nextFlight
      cores := s.cores.map fun e => (e.1, tickCore (s.cycle + 1) e.2)
      host := { s.host with rscyc := regionCycles s } }
    let s2 := (s1.cores.map Prod.fst).foldl drainCore s1
    (periodic s2).foldl (fun s e => atCycle s s.cycle e) (endSaved s2)

/-! ## Units and the outside world -/

/-- Whether a slot of a die's cores holds this record, produced, at the head of its trace FIFO. -/
def traceWaits (s : State) (d : Nat) (r : TraceRec) : Bool :=
  s.cores.any fun e => dieOf e.1 == d && (List.range 8).any fun i =>
    let t := coreSlot e.2 i
    match t.q12 with
    | p :: _ => t.held && decide (p.due ≤ s.cycle) && traceOf t.gtid p == r
    | [] => false

/-- The actions that a unit of the part takes of itself. -/
def isUnit (s : State) (e : Event) : Bool :=
  match e with
  | .bagPop _ | .dispatch _ | .readyQueuePull _ | .sfuStart _ | .dividerStart _ | .mmaAccept _ | .rowBlockComplete _
  | .copyStart _ | .gangForms _ | .taskStop _ _ | .intervalClose _ | .tlbInvalidationDone _ | .holdReleaseDone _
  | .connectionTableSwitch _ | .outputSpill _ _ | .spillDrain _ _ | .calibrationPause _ _ | .regionComplete _ => true
  | .traceRecordWrite d r => traceWaits s d r
  | _ => false

/-- What the host, the links, other chips and chance do to the package. -/
def isOutside (s : State) (i : Instr) : Bool :=
  match i with
  | .registerWrite page _ _ => page
  | .hostMemoryAccess _ _ _ _ | .hostMessageWrite _ _ | .hrheadWrite _ | .attest _ | .keyload _ _ | .keyfree _ _
  | .backInvalidateResponse _ _ _ _ | .expanderSnoop _ _ | .packageReset _ | .portTraining _ _ | .frameReceive _
  | .flitReceive _ _ | .scaleOutAtomic _ _ _ | .sramScrub _ _ _ | .dramScrub _ _ | .coreSeal _ => true
  | .guardRelease _ g _ | .capoOperation _ g .gstat | .capoOperation _ g .flushed => g.chip != s.chipId && g.chip != 0xFF
  | .guardAnswer w _ _ => decide (w.core < 3144)
  | .bounce _ _ | .messageStatus _ _ | .amoReturn _ _ | .writeAck _ | .acqreq _ | .grant _ _ _ _ | .pull _ _ | .forward _ _ _
  | .fwddone _ _ _ | .done _ _ | .unpin _ => true
  | .remoteWrite w =>
    match w.kind with
    | .sub _ _ => true
    | _ => false
  | _ => false

/-- A turn. One that nothing may take changes nothing. -/
def runTurn (t : Turn) (s : State) : Host.Outcome State Fault Refusal :=
  match t with
  | .issue c => issueCore c s
  | .fire k => fireAt k s
  | .unit e => if isUnit s e then execEvent e s else .next s
  | .act i => if isOutside s i then exec i s else .next s
  | .checkpoint c src dst len => .next (checkpointStep c src dst len s)
  | .tick => .next (tickStep s)

/-- The control page answers on a halted package (21 R375). -/
def pageTurn (t : Turn) : Bool :=
  match t with
  | .act (.registerWrite page _ _) => page
  | .act (.hrheadWrite _) => true
  | .act (.packageReset _) => true
  | _ => false

/-! ## A package left to itself -/

/-- A state without what only numbers its items. -/
def unnumbered (s : State) (fs : List Flight) : State :=
  { s with flights := fs.map fun f => { f with id := 0, due := 0 }, nextFlight := 0, firing := 0, cur := Cur.empty }

/-- Whether an outcome is more than the item having been put back. -/
def movedOn (s : State) (k : Nat) (o : Host.Outcome State Fault Refusal) : Bool :=
  match o, s.flights[k]? with
  | .next t, some f =>
    let rest := s.flights.eraseIdx k
    !(t.flights.any fun g => (decide (s.nextFlight ≤ g.id) || g.id == f.id) && g.act == f.act) ||
      (unnumbered t t.flights != unnumbered s (f :: rest) && unnumbered t t.flights != unnumbered s (rest ++ [f]))
  | _, _ => true

/-- Whether an outcome differs from the state it came from. -/
def changedBy (s : State) (o : Host.Outcome State Fault Refusal) : Bool :=
  match o with
  | .next t => unnumbered t t.flights != unnumbered s s.flights
  | _ => true

/-- Whether an attempt to issue got anywhere. -/
def issuedBy (s : State) (o : Host.Outcome State Fault Refusal) : Bool :=
  match o with
  | .next t => t.cur.ended != .stalled || changedBy s o
  | _ => true

/-- The outcome of an attempt, if it gets anywhere. -/
def attempt (p : Host.Outcome State Fault Refusal → Bool) (o : Host.Outcome State Fault Refusal) :
    Option (Host.Outcome State Fault Refusal) :=
  if p o then some o else none

/-- Whether the item at a place of the flight list takes effect at its cycle exactly. -/
def timedAt (s : State) (k : Nat) : Bool :=
  match s.flights[k]? with
  | some f => f.timed
  | none => false

/-- The places of the flight list whose timed item may fire. -/
def timedPlaces (s : State) : List Nat := (List.range s.flights.length).filter fun k => timedAt s k && mayFire s k

/-- The places of the flight list whose other item may fire. -/
def otherPlaces (s : State) : List Nat := (List.range s.flights.length).filter fun k => !timedAt s k && mayFire s k

/-- The actions the units of one core might take. -/
def coreUnits (s : State) (c : Nat) (k : Core) : List Event :=
  (if k.bag.isEmpty && (getDie s (dieOf c)).ready.isEmpty then [] else [.bagPop c]) ++
  (if canDispatch s c then [.dispatch c] else []) ++
  (if k.divQueue.isEmpty then [] else [.dividerStart c]) ++
  ((List.range 8).filter (stopReady s c)).map (.taskStop c) ++
  (if (formable s c).isSome then [.gangForms c] else []) ++
  (if canClose s c then [.intervalClose c] else []) ++
  (if k.tlbBusy.isSome then [.tlbInvalidationDone c] else []) ++
  (if k.holdBusy.isSome then [.holdReleaseDone c] else []) ++
  ((List.range 8).filterMap fun i =>
    let t := coreSlot k i
    match t.q12 with
    | p :: _ => if t.held && decide (p.due ≤ s.cycle) then some (.traceRecordWrite (dieOf c) (traceOf t.gtid p)) else none
    | [] => none)

/-- The cores that take from a die's ready queue. -/
def pullers (s : State) (d : Nat) : List Event :=
  if (getDie s d).ready.isEmpty then []
  else ((liveCores s d).filter (canPull s)).map Event.readyQueuePull

/-- The actions that units might take now. -/
def unitActions (s : State) : List Event :=
  (s.cores.flatMap fun e => coreUnits s e.1 e.2) ++
  ((List.range 8).flatMap (pullers s)) ++
  ((s.cores.filter fun e => (List.range 8).any fun i => !(coreSlot e.2 i).sfuReq.isEmpty).map fun e =>
    .sfuStart (clusterOf e.1)) ++
  (s.clusters.filter fun e => !e.2.mmaPending.isEmpty).map (fun e => .mmaAccept e.1) ++
  (s.clusters.filter fun e => e.2.mmaRun.isSome).map (fun e => .rowBlockComplete e.1) ++
  (s.copies.filter fun e => copyReady s e.2).map (fun e => .copyStart e.1) ++
  (match s.ctChange with
   | some c => [.connectionTableSwitch c.core]
   | none => []) ++
  ((List.range 8).flatMap fun d => ((getDie s d).circuits.filter fun e => e.2.spilling).map fun e => .spillDrain d e.1) ++
  (s.regions.filter fun e => canComplete s e.1).map (fun e => .regionComplete e.1)

/-- Cores with a slot that may issue. -/
def issuers (s : State) : List Nat :=
  (s.cores.filter fun e => e.2.issuedAt != some s.cycle && !passedBy s e.1 && (List.range 8).any fun i =>
    slotReady s e.1 i || (coreSlot e.2 i).heldWords.isSome).map Prod.fst

/-- The first of these places of the flight list whose item gets anywhere. -/
def fireFirst (s : State) (ks : List Nat) : Option (Host.Outcome State Fault Refusal) :=
  ks.findSome? fun k => attempt (movedOn s k) (fireAt k s)

/-- A package whose turns are not given goes on by itself: what is due at the cycle exactly, then the cores, which come
before what reaches them in the same cycle (07 R146, 15 R310), then the other items in flight, the units, and the clock. -/
def autoTurn (s : State) : Host.Outcome State Fault Refusal :=
  match fireFirst s (timedPlaces s) with
  | some o => o
  | none =>
    match (issuers s).findSome? fun c => attempt (issuedBy s) (issueCore c s) with
    | some o => o
    | none =>
      match fireFirst s (otherPlaces s) with
      | some o => o
      | none =>
        match (unitActions s).findSome? fun e => attempt (changedBy s) (execEvent e s) with
        | some o => o
        | none => .next (tickStep s)

end Sys2Proof.Machine
end

