-- ==== Sys2Proof/Machine/Step.lean ====
section
/-! DEFINITION. One step of the package: one turn (log 3). -/

namespace Sys2Proof.Machine

/-- One step: the next turn, or what the package does by itself. A package whose boot failed only answers on its control
page (21 R375). -/
def step (s : State) : Host.Outcome State Fault Refusal :=
  match s.turns with
  | [] => if s.host.err != 0 then .fault .packageHalted else autoTurn s
  | t :: r => if s.host.err != 0 && !pageTurn t then .fault .packageHalted else runTurn t { s with turns := r }

/-- The state with an instruction stored where core 0 fetches its next bundle, core 0 next to issue (log 4): its words
stand in the cluster's program store at the pc of slot 0, whose task is ready. -/
def State.withFetchWord (s : State) (nbits w : Nat) : State :=
  let v := w % 2 ^ nbits
  let t := getSlot s 0 0
  let pc : Word := if t.pc.toNat % 8 == 0 && decide (t.pc.toNat + 8 ≤ Config.progSize) then t.pc else 0
  let s1 := setSlot s 0 0 { t with held := true, pc := pc, park := .none, notBefore := s.cycle, trapNext := none, stop := none }
  let s2 := modCore s1 0 fun k => { k with
    lastSlot := 7, issuedAt := none, reached := none, gang := none, pair := none, pairedTo := none, sealed := false }
  let s3 := modCluster s2 0 fun k => { k with
    prog := msets k.prog pc.toNat ((List.range 8).map fun i => BitVec.ofNat 8 (v / 256 ^ i)) }
  let s4 := modDie s3 0 fun d => { d with excluded := false, fused := d.fused.filter fun n => n != 0 }
  { s4 with
    turns := .issue 0 :: s.turns
    flights := s.flights.map fun f => { f with timed := f.timed && decide (s.cycle < f.due) }
    host := { s.host with err := 0 } }

end Sys2Proof.Machine
end

