-- ==== Sys2Proof/Safety.lean ====
section
/-! DEFINITION. What claims about the machine are stated in: the canonical form of every byte store, the operands that let
a word act, the values its sources give and where its result goes, and a bundle that runs alone in its slot. -/

namespace Sys2Proof.Machine

/-! ## Byte stores -/

/-- Every byte store of a state is in canonical form: device memory, every scratchpad, every program store and rule
table. -/
def Canonical (s : State) : Prop :=
  s.mem.wf = true ∧ (∀ e ∈ s.cores, e.2.sp.wf = true) ∧
    (∀ e ∈ s.clusters, e.2.prog.wf = true ∧ e.2.rules.wf = true)

/-- No byte of device memory, of a scratchpad, of a program store or of a rule table differs between two states. -/
def SameBytes (s t : State) : Prop :=
  t.mem = s.mem ∧ (∀ c, (getCore t c).sp = (getCore s c).sp) ∧
    (∀ k, (getCluster t k).prog = (getCluster s k).prog ∧ (getCluster t k).rules = (getCluster s k).rules)

/-- What a bundle of slot (c, i) may leave different in the registers of its task. -/
def SameRegisters (s t : State) (c i : Nat) : Prop :=
  (getSlot t c i).x = (getSlot s c i).x ∧ (getSlot t c i).f = (getSlot s c i).f ∧
    (getSlot t c i).v = (getSlot s c i).v ∧ (getSlot t c i).p = (getSlot s c i).p

/-! ## Operands -/

/-- The operands of a word let it act: no queue and no pending destination holds it back, and it misuses no queue (03 R68,
R69, R77). -/
def operandsFree (s : State) (srcs : List XField) (d : Dst) : Bool :=
  sourcesReady s srcs && dstReady s d && !namesQ1415 srcs d && (misuse s srcs d).isNone

/-- The words that scalar sources give in pop order, and the state their pops leave; none where one cannot be read. -/
def sourceWords : List XField → State → Option (List Word × State)
  | [], s => some ([], s)
  | f :: r, s =>
    match (rdX f).run s with
    | .ok (v, s1) =>
      match sourceWords r s1 with
      | some (vs, s2) => some (v :: vs, s2)
      | none => none
    | .error _ => none

/-- The state after a scalar result of fixed latency: a late register write, or a push to a queue; none where the push
cannot be made. -/
def resultTo (s : State) (f : XField) (lat : Nat) (v : Word) : Option State :=
  match (wrX f lat v).run s with
  | .ok (_, t) => some t
  | .error _ => none

/-- No source holds a bad residue (19 R347). -/
def soundSources (s : State) (srcs : List XField) : Bool := !anyBad s srcs

/-- All fields name registers. -/
def plainRegs (srcs : List XField) : Bool := srcs.all fun f => !isQ f

/-- x[f] of the bundle's task. -/
def xOf (s : State) (f : XField) : Word := getX (curSlot s) f.toNat

/-- The task of the bundle writes register d with latency lat: nothing else changes. -/
def lateTo (s : State) (d : RegId) (lat : Nat) (v : Vec) (mask : Vec) : State :=
  modCur s fun t => { t with late := t.late ++ [⟨s.cycle + lat, d, v, mask, none⟩] }

/-! ## Parks and traps -/

/-- The trap a slot is parked with. -/
def trapOf (t : Slot) : Option Trap :=
  match t.park with
  | .trapped tr => some tr
  | _ => none

/-- A bundle that ended in a trap. -/
def bundleTrapped (s : State) : Option Trap :=
  match s.cur.ended with
  | .trapped t => some t
  | _ => none

/-- Slot i is the one slot of core c that may issue, and core c may issue in this cycle. -/
def onlyReady (s : State) (c i : Nat) : Bool :=
  slotReady s c i && (List.range 8).all (fun j => j == i || !slotReady s c j) && !(getCore s c).sealed

/-- A core outside gang, pair and breakpoint traffic whose slot has nothing waiting to stop it. -/
def ordinary (s : State) (c i : Nat) : Bool :=
  (getCore s c).gang.isNone && (getCore s c).pair.isNone && (getSlot s c i).trapNext.isNone


/-! ## A bundle alone in its core -/

/-- Core c has the turn, may issue in this cycle, in which nothing from outside has reached it yet and no timed event is due,
and slot i is its only ready slot; no gang, pair, waiting trap, withheld word, breakpoint or waiting acquire stands in the
way. -/
def mayIssue (s : State) (c i : Nat) (r : List Turn) : Prop :=
  s.turns = .issue c :: r ∧ s.host.err = 0 ∧ i < 8 ∧ runsTasks s c = true ∧ (getCore s c).pairedTo = none ∧
    (getCore s c).issuedAt ≠ some s.cycle ∧ (getCore s c).reached ≠ some s.cycle ∧ timedDue s = false ∧
    ((List.range 8).all fun j => (getSlot s c j).heldWords.isNone) = true ∧ ordinary s c i = true ∧ onlyReady s c i = true ∧
    (getDie s (dieOf c)).bpc = [] ∧ bit (getSlot s c i).bphit.toNat 4 = false ∧
    (getSlot s c i).out.all (fun o => !o.acquire) = true

/-- The bytes at the program counter of slot (c, i) decode to bundle b. -/
def decodesTo (s : State) (c i : Nat) (b : Bundle) : Prop :=
  (getSlot s c i).pc.toNat + 8 ≤ Config.progSize ∧ (getSlot s c i).pc.toNat % 4 = 0 ∧
    ∃ rest, decodeBytes (getSlot s c i).pc.toNat
      (mgets (getCluster s (clusterOf c)).prog (getSlot s c i).pc.toNat 8) = .ok (b, rest)

/-- What a bundle whose C-word left t1, and both words t, keeps of it: a C-word that parked its task keeps its pops and the
A-word `a` back until the park ends (log 17). -/
def keptBack (b : Bundle) (a : Option Instr) (s0 t1 t : State) : State := if parksBundle t1 then withhold b a s0 t1 else t

/-! ## Results of words -/

/-- Word i reads scalar sources srcs and gives xd, lat cycles later, a word that R allows for what they gave. -/
def GivesX (i : Instr) (srcs : List XField) (rd : XField) (lat : Nat) (R : List Word → Word → Prop) : Prop :=
  ∀ s s1 t vs w, operandsFree s srcs (.xq rd) = true →
    sourceWords srcs s = some (vs, s1) → R vs w → resultTo s1 rd lat w = some t → exec i s = .next t

/-- A word of two scalar sources. -/
def Gives2 (i : Instr) (rd ra rb : XField) (lat : Nat) (R : Word → Word → Word → Prop) : Prop :=
  GivesX i [ra, rb] rd lat fun vs w => ∃ a b, vs = [a, b] ∧ R a b w

/-- A word of one scalar source. -/
def Gives1 (i : Instr) (rd ra : XField) (R : Word → Word → Prop) : Prop :=
  GivesX i [ra] rd 1 fun vs w => ∃ a, vs = [a] ∧ R a w

/-- The same of a word that predicts its result's residue, on sources whose residues are sound (19 R347). -/
def GivesSound (i : Instr) (srcs : List XField) (rd : XField) (lat : Nat) (R : List Word → Word → Prop) : Prop :=
  ∀ s s1 t vs w, operandsFree s srcs (.xq rd) = true → soundSources s srcs = true →
    sourceWords srcs s = some (vs, s1) → R vs w → resultTo s1 rd lat w = some t → exec i s = .next t

def Gives2Sound (i : Instr) (rd ra rb : XField) (lat : Nat) (R : Word → Word → Word → Prop) : Prop :=
  GivesSound i [ra, rb] rd lat fun vs w => ∃ a b, vs = [a, b] ∧ R a b w

def Gives1Sound (i : Instr) (rd ra : XField) (R : Word → Word → Prop) : Prop :=
  GivesSound i [ra] rd 1 fun vs w => ∃ a, vs = [a] ∧ R a w

/-- A late result to x[rd] with the residue r predicted for it, which is not its own. -/
def lateBad (s : State) (rd : XField) (lat : Nat) (v : Word) (r : Nat) : State :=
  modCur s fun t => { t with
    late := t.late ++ [⟨s.cycle + lat, .x rd.toNat, BitVec.ofNat 512 v.toNat, BitVec.allOnes 512, some r⟩] }

/-- The state after a result v to x[rd] whose exact value is e and whose ALU predicted the residue of p for it, less what the
cut to 64 bits takes away: the register keeps a residue that is not v's own (19 R347). -/
def predictedTo (s : State) (rd : XField) (lat : Nat) (v : Word) (e p : Int) : State :=
  let r := ((p - (e - v.toNat)) % 15).toNat
  if r = v.toNat % 15 then lateTo s (.x rd.toNat) lat (BitVec.ofNat 512 v.toNat) (BitVec.allOnes 512) else lateBad s rd lat v r

/-- A word whose destination is a plain register d of the task: `v` under `mask`, lat cycles later, after flags fl of a
floating-point operation merged. -/
def GivesLate (i : Instr) (srcs : List XField) (d : Dst) (lat : Nat) (fl : BitVec 6) (f : List Word → Vec) (mask : Vec) :
    Prop :=
  ∀ s s1 vs, operandsFree s srcs d = true → sourceWords srcs s = some (vs, s1) →
    exec i s = .next (lateTo (mergeFlags 0 fl s1) (dstReg d) lat (f vs) mask)

/-- Word i sends the operands of its sources to the divider for occ cycles: it enters the queue, its destination pends. -/
def divJobOf (s1 : State) (d : RegId) (v : Word) (occ : Nat) : State :=
  let s2 := modCur s1 fun t => setPending t d
  modCore s2 s1.cur.core fun k =>
    { k with divQueue := k.divQueue ++ [⟨⟨s1.cur.core, s1.cur.slot, (curSlot s1).gtid, 0⟩, d, v, occ⟩] }

/-- The conditions of CMP (08 R166), code by code. -/
def conditionHolds (c : BitVec 3) (a b : Word) : Bool :=
  if c = 0#3 then a == b
  else if c = 1#3 then a != b
  else if c = 2#3 then a.slt b
  else if c = 3#3 then b.sle a
  else if c = 4#3 then a.ult b
  else b.ule a

/-- The task of the bundle goes on at `a` (08 R172). -/
def goTo (s : State) (a : Word) : State := { s with cur := { s.cur with target := some a } }

/-- A relative target (03 R62): the bundle's address plus 4 for each unit of the signed offset. -/
def offTarget {n : Nat} (s : State) (off : BitVec n) : Word := s.cur.pc + BitVec.ofInt 64 (4 * off.toInt)

/-- The link value (08 R172). -/
def linkOf (s : State) : Word := s.cur.pc + BitVec.ofNat 64 s.cur.size

/-- A word that takes trap t on the state it acts on: nothing else of it has an effect. -/
def Traps (i : Instr) (s : State) (t : Trap) : Prop := exec i s = .next (takeTrap t s)

/-- A word that does not issue: only that is recorded. -/
def Waits (i : Instr) (s : State) : Prop := exec i s = .next (stallBundle s)

/-- A word that does not issue while the host may cache a line that it needs: the line is recorded (04 R107). -/
def WaitsForLine (i : Instr) (s : State) (x : Nat) : Prop :=
  exec i s = .next (stallBundle { s with cur := { s.cur with line := some x } })

/-- A word whose access the checks turn away with tr: it traps, or waits for a host-cached line of a page walk. -/
def TurnedAway (i : Instr) (s : State) (tr : Trap) : Prop :=
  (isLine tr = false → Traps i s tr) ∧ (isLine tr = true → WaitsForLine i s tr.value.toNat)

/-! ## Floating point and vectors -/

/-- The value of f[n] of the bundle's task in a scalar format (02 R34). -/
def fVal (s : State) (fm : Fmt) (n : FField) : FV := fpVal fm (getF (curSlot s) n.toNat)

/-- The bits of f[n] in a scalar format. -/
def fBits (s : State) (fm : Fmt) (n : FField) : Nat := unbox fm (getF (curSlot s) n.toNat)

/-- An exact result e rounded once and delivered to fd four cycles later, its flags merged (02 R42, R49, 08 R174). -/
def deliveredTo (s : State) (fm : Fmt) (fd : FField) (r : Rm) (e : Ex × Flags) : State :=
  let d := deliver (fmtFF fm) r false e.1
  lateTo (mergeFlags 0 (e.2 ||| d.2) s) (.f fd.toNat) 4 (BitVec.ofNat 512 (box fm d.1).toNat) (BitVec.allOnes 512)

/-- A word that rounds by rm: for every mode the code names, the exact result e of it delivered to fd. -/
def GivesF (i : Instr) (fm : Fmt) (rm : BitVec 3) (fd : FField) (e : State → Rm → Ex × Flags) : Prop :=
  ∀ s r, operandsFree s [] (.f fd) = true → curRm s rm.toNat = some r → exec i s = .next (deliveredTo s fm fd r (e s r))

/-- Elements of width w of vd written lat cycles later, the listed ones only, and the flags they raised merged (09 R186,
R187). -/
def elementsTo (s : State) (vd : FField) (lat w : Nat) (es : List (Nat × Nat × Flags)) : State :=
  lateTo (mergeFlags 0 (es.foldl (fun a e => a ||| e.2.2) 0) s) (.v vd.toNat) lat
    (BitVec.ofNat 512 (vplace w (es.map fun e => (e.1, e.2.1)))) (vbits w (es.map fun e => e.1))

/-- An element-wise vector word: f of the state, the element of va, the element of vb, that of vd, and the index. -/
def GivesV (i : Instr) (a : Av) (lat : Nat) (f : State → Nat → Nat → Nat → Nat → Nat × Flags) : Prop :=
  ∀ s, operandsFree s [] (.v a.vd) = true →
    let w := 8 * 2 ^ a.ew.toNat
    let el := fun (n : FField) (j : Nat) => velem (getV (curSlot s) n.toNat) w j
    exec i s = .next (elementsTo s a.vd lat w
      ((actives s a.vm (elems a.ew)).map fun j => (j, f s (el a.va j) (el a.vb j) (el a.vd j) j)))

/-- What an MMA leaves at its cluster's engine: the request with its record addresses and scales, the task parked (10
R211). -/
def mmaPendingAt (s : State) (m : Am) (kind : Nat) (xa xb xd : Word) : State :=
  let t := curSlot s
  let k := getCluster s (clusterOf s.cur.core)
  let scale := fun (j : Nat) => if m.ts.toNat == 0 then 0x3F800000 else unbox .s (getF t (m.fs.toNat + j))
  parkIn .mma (setCluster s (clusterOf s.cur.core) { k with
    mmaPending := k.mmaPending ++
      [⟨curWho s, t.region, kind, xd.toNat, xa.toNat, xb.toNat, scale 0, scale 1, k.mmaOrder, copyWaits t, none⟩]
    mmaOrder := k.mmaOrder + 1 })

/-- The MMA forms in the order of their A-majors (03 R71). -/
def mmaForms : List (Am → Instr) :=
  [.mmaD, .mmaS, .mmaH, .mmaBf, .mmaE4, .mmaE4E5, .mmaE5E4, .mmaE5, .mmaF4, .mmaE4F4, .mmaI8]

/-! ## Messages -/

/-- From s to t core c sent e for place dst: it left, or stands inside the core behind what waits there for that place (12
R244). -/
def LeftFor (s t : State) (c : Nat) (dst : Place) (e : Event) : Prop :=
  (heldFor s c dst = false → ∃ f, t.flights = s.flights ++ [f] ∧ f.act = e) ∧
  (heldFor s c dst = true → t.flights = s.flights ∧
    ∃ h, (getCore t c).heldRel = (getCore s c).heldRel ++ [h] ∧ h.ev = e)

/-- From s to t a message with header h and payload left the task of the bundle: what software wrote of the header stands,
SCORE is the core, and the task has one outstanding item more (15 R297, R298). -/
def MessageLeft (s t : State) (h : Word) (pay : List Word) : Prop :=
  oscOf (curSlot t) = oscOf (curSlot s) + 1 ∧ (curSlot t).stagedHdr = none ∧ (curSlot t).stagedPay = [] ∧
    (getCore t s.cur.core).msgsFlying = (getCore s s.cur.core).msgsFlying + 1 ∧
    ∃ m, LeftFor s t s.cur.core (msgPlace s h) (.messageArrive m) ∧ m.pay = pay ∧ m.counted = true ∧
      m.hdr.toNat % 2 ^ 32 = h.toNat % 2 ^ 32 ∧ hdrScore m.hdr = s.cur.core % 4096 ∧ hdrSchip m.hdr = s.chipId % 256

/-- The value v popped by the bundle, the rest of its slot as f leaves it. -/
def poppedFrom (s : State) (v : Word) (f : Slot → Slot) : State :=
  let s1 := modCur s f
  { s1 with cur := { s1.cur with popped := s1.cur.popped ++ [v] } }

/-- The cycle at which a word pushed now is produced: a cycle later, and not before the slot's earlier pushes (03 R69). -/
def pushTime (s : State) : Nat := Nat.max (curSlot s).pushDue (s.cycle + 1)

/-- The slot of the bundle as f leaves it after a push. -/
def pushedTo (s : State) (f : Slot → Slot) : State := modCur s fun t => { f t with pushDue := pushTime s }

/-! ## Loads and stores (07 R149-R154) -/

/-- The address of a CM form of access size n. -/
def cmEa (imm : BitVec 7) (n : Nat) (b : Word) : Word := b + imm.signExtend 64 * BitVec.ofNat 64 n

/-- The device-space checks of an access of the bundle's task passed: the state with its TLBs filled, the location, the page
it counts on (04 R98). -/
def reaches (s : State) (k : AccKind) (a n : Nat) (s2 : State) (loc : Loc) (acc : Option AccPage) : Prop :=
  devCheck s (.core s.cur.core) s.cur.core (curSlot s).region k a n = .ok (s2, loc, acc)

/-- They failed with trap tr. -/
def refusedWith (s : State) (k : AccKind) (a n : Nat) (tr : Trap) : Prop :=
  devCheck s (.core s.cur.core) s.cur.core (curSlot s).region k a n = .error tr

/-- A load of n bytes on its way to a location: the read is in flight, the load outstanding, its destination pending. -/
def loadSent (s : State) (loc : Loc) (acc : Option AccPage) (ea : Word) (n : Nat) (d : RegId) (f : LoadForm) : State :=
  let c := s.cur.core
  let i := s.cur.slot
  let s1 := taskSend s c (curSlot s).gtid (locPlace loc) (.remoteRead ⟨curWho s, loc, acc, ea, n, 0⟩)
  modCur (addOut s1 c i .load [locPlace loc] [] d f 1 false) fun t => setPending t d

/-- A load whose bytes come back without reaching a memory of their own. -/
def loadAnswered (s : State) (bs : List Byte) (d : RegId) (f : LoadForm) : State :=
  let s1 := later s (.loadReply ⟨curWho s, 0, BitVec.ofNat 512 (leNat bs), false⟩)
  modCur (addOut s1 s.cur.core s.cur.slot .load [] [] d f 1 false) fun t => setPending t d

/-- Word i under predicate p loads n bytes into d, in form f, from the address ea of its sources' words: every class of address
(04 R86) and every outcome. -/
def LoadsFrom (i : Instr) (p : PField) (srcs : List XField) (d : Dst) (n : Nat) (f : LoadForm) (ea : List Word → Word) : Prop :=
  (∀ s, getP (curSlot s) p.toNat = false → exec i s = .next s) ∧
  ∀ s s1 vs, getP (curSlot s) p.toNat = true → operandsFree s srcs d = true → soundSources s srcs = true →
    sourceWords srcs s = some (vs, s1) →
    let a := (ea vs).toNat
    let c := s1.cur.core
    (a % n ≠ 0 → Traps i s ⟨3, 0, 0, ea vs⟩) ∧
    (a % n = 0 →
      (a < 0x80000 → spBad s1 c a n = true → Traps i s ⟨11, 0, 0, ea vs⟩) ∧
      (a < 0x80000 → spBad s1 c a n = false → behindOwn s1 = true → Waits i s) ∧
      (a < 0x80000 → spBad s1 c a n = false → behindOwn s1 = false →
        exec i s = .next (lateTo s1 (dstReg d) 4 (formValue f (leNat (spRead s1 c a n))) (BitVec.allOnes 512))) ∧
      (0x1000000 ≤ a → a < 0x2800000 → liveCore s1 (windowCore c a) = true →
        spBad s1 (windowCore c a) (windowAddr a) n = false →
        exec i s = .next (loadSent s1 (.sp (windowCore c a) (windowAddr a)) none (ea vs) n (dstReg d) f)) ∧
      (0x1000000 ≤ a → a < 0x2800000 → liveCore s1 (windowCore c a) = false →
        exec i s = .next (loadAnswered (recordSpbad s1 false a) (List.replicate n 0#8) (dstReg d) f)) ∧
      (0x8000000 ≤ a → a < 0x8200000 →
        exec i s = .next (loadAnswered s1 (mgets (getCluster s1 (clusterOf c)).prog (a - 0x8000000) n) (dstReg d) f)) ∧
      (classify a = .hole →
        exec i s = .next (loadAnswered (recordSpbad s1 false a) (List.replicate n 0#8) (dstReg d) f)) ∧
      (2 ^ 32 ≤ a → a < 2 ^ 56 →
        (∀ tr, refusedWith s1 .load a n tr → TurnedAway i s tr) ∧
        (∀ s2 loc acc pa key, reaches s1 .load a n s2 loc acc → (loc = .phys pa key ∨ ∃ dd cc, loc = .held dd cc pa key) →
          (physBad s2 pa n = true → Traps i s ⟨11, 0, 0, ea vs⟩) ∧
          (physBad s2 pa n = false → exec i s = .next (loadSent s2 loc acc (ea vs) n (dstReg d) f)))) ∧
      (2 ^ 56 ≤ a → Traps i s ⟨5, 0, 0, ea vs⟩))

/-- A write of the bundle's task on its way to a location: counted until acknowledged (12 R237). -/
def writePosted (s : State) (stn : Option Bool) (loc : Loc) (acc : Option AccPage) (ea : Word) (d : List Byte) : State :=
  let c := s.cur.core
  let i := s.cur.slot
  let w : WritePkt := ⟨curWho s, match stn with | some hi => .stn hi | none => .store, loc, acc, ea, d⟩
  let s1 := addOut s c i (if stn.isSome then .stn else .store) [locPlace loc] [(ea.toNat, d.length)] .none .none 0 false
  let toCore := match loc with | .sp _ _ => true | _ => false
  taskSend s1 c (curSlot s).gtid (locPlace loc) (if stn.isSome && toCore then .stnMessage w else .remoteWrite w)

/-- From s to t the bundle wrote bytes d at local address a of its own scratchpad, and changed no other byte and no register. -/
def LocallyWritten (s t : State) (a : Nat) (d : List Byte) : Prop :=
  let c := s.cur.core
  ((getCore s c).sp.wf = true → spRead t c a d.length = d ∧
    (∀ j, (j < a ∨ a + d.length ≤ j) → mget (getCore t c).sp j = mget (getCore s c).sp j) ∧ (getCore t c).sp.wf = true) ∧
  (∀ e, e ≠ c → getCore t e = getCore s e) ∧ t.mem = s.mem ∧ t.clusters = s.clusters ∧ t.flights = s.flights ∧ t.cur = s.cur ∧
  (∀ e j, getSlot t e j = getSlot s e j)

/-- The count of outstanding items has no room for a store to a (12 R237). -/
def storeFull (s : State) (a : Nat) : Prop := 1024 < oscOf (curSlot s) + countsOut s [a]

/-- A store of n bytes to a location leaves, or does not: it waits while the hold queue of its page refuses it (04 R103), and
one of less than a unit to a poisoned unit raises an uncorrectable error (07 R149, 19 R351). -/
def Posts (i : Instr) (s s2 : State) (stn : Option Bool) (loc : Loc) (acc : Option AccPage) (ea : Word) (d : List Byte) : Prop :=
  let root := rootOf s2 (curSlot s2).region
  (holdRefuses s2 loc root ea.toNat = true → Waits i s) ∧
  (holdRefuses s2 loc root ea.toNat = false → d.length < 64 → locBad s2 loc d.length = true → Traps i s ⟨11, 0, 0, ea⟩) ∧
  (holdRefuses s2 loc root ea.toNat = false → (64 ≤ d.length ∨ locBad s2 loc d.length = false) →
    exec i s = .next (writePosted s2 stn loc acc ea d))

/-- Word i under predicate p stores n bytes to the address ea of its sources' words; `data` gives the bytes, from the state in
which the sources were read and that address's old byte (a nibble store keeps the other half). -/
def StoresTo (i : Instr) (p : PField) (srcs : List XField) (n : Nat) (stn : List Word → Option Bool) (ea : List Word → Word)
    (data : State → List Word → List Byte) (posted : State → List Word → List Byte) : Prop :=
  (∀ s, getP (curSlot s) p.toNat = false → exec i s = .next s) ∧
  ∀ s s1 vs, getP (curSlot s) p.toNat = true → operandsFree s srcs .none = true → soundSources s srcs = true →
    sourceWords srcs s = some (vs, s1) →
    let a := (ea vs).toNat
    let c := s1.cur.core
    (storeFull s1 a → Waits i s) ∧
    (¬ storeFull s1 a → a % n ≠ 0 → Traps i s ⟨3, 0, 0, ea vs⟩) ∧
    (¬ storeFull s1 a → a % n = 0 →
      (∀ det at_, a + n ≤ 0x7C000 → windowRefusal s1 c a n true = some (det, at_) →
        Traps i s ⟨4, det, 0, BitVec.ofNat 64 at_⟩) ∧
      (a + n ≤ 0x7C000 → windowRefusal s1 c a n true = none →
        (n < 64 → spBad s1 c a n = true → Traps i s ⟨11, 0, 0, ea vs⟩) ∧
        ((64 ≤ n ∨ spBad s1 c a n = false) →
          (behindOwn s1 = true → Waits i s) ∧
          (behindOwn s1 = false → elementAhead s1 = false →
            ∃ t, exec i s = .next t ∧ LocallyWritten s1 t a (data s1 vs)))) ∧
      (0x7C000 < a + n → a < 0x80000 → exec i s = .next (recordSpbad s1 true a)) ∧
      (∀ det at_, 0x1000000 ≤ a → a < 0x2800000 → windowCore c a = c →
        windowRefusal s1 c (windowAddr a) n true = some (det, at_) → Traps i s ⟨4, det, 0, BitVec.ofNat 64 at_⟩) ∧
      (0x1000000 ≤ a → a < 0x2800000 → (windowCore c a = c → windowRefusal s1 c (windowAddr a) n true = none) →
        (liveCore s1 (windowCore c a) = true → windowAddr a + n ≤ 0x7C000 →
          Posts i s s1 (stn vs) (.sp (windowCore c a) (windowAddr a)) none (ea vs) (posted s1 vs)) ∧
        ((liveCore s1 (windowCore c a) = false ∨ 0x7C000 < windowAddr a + n) →
          exec i s = .next (recordSpbad s1 true a))) ∧
      (classify a = .hole ∨ classify a = .progView → exec i s = .next (recordSpbad s1 true a)) ∧
      (2 ^ 32 ≤ a → a < 2 ^ 56 →
        (∀ tr, refusedWith s1 .store a n tr → TurnedAway i s tr) ∧
        (∀ s2 loc acc, reaches s1 .store a n s2 loc acc → Posts i s s2 (stn vs) loc acc (ea vs) (posted s1 vs))) ∧
      (2 ^ 56 ≤ a → Traps i s ⟨5, 0, 0, ea vs⟩))

/-! ## Atomics, fences and copies (12 R239-R249, 13 R261, 07 R155-R161) -/

/-- The four AMO forms with what their suffix asks: acquire, release (12 R244). -/
def amoForms : List ((XField → XField → XField → AmoOp → Instr) × Bool × Bool) :=
  [(.amo, false, false), (.amoAq, true, false), (.amoRl, false, true), (.amoAr, true, true)]

def redForms : List ((XField → XField → RedOp → Instr) × Bool) := [(.red, false), (.redRl, true)]

/-- The operand width in bytes (12 R242). -/
def amoWidth (op : AmoOp) : Nat := if op = .faddS then 4 else 8

/-- An AMO has left for its home, or waits inside the core behind the earlier items of its task (12 R244): it is outstanding,
its destination pends, and an acquire form holds later accesses back. -/
def amoIssued (s : State) (rd : XField) (op : AmoOp) (aq rl : Bool) (ea b c : Word) (l : Loc) (home phys : Nat) : State :=
  let d : RegId := if rd.toNat = 0 then .none else .x rd.toNat
  let s2 := addOut s s.cur.core s.cur.slot .amo [.core phys] [] d .none 1 aq
  let s3 := modCur s2 fun t => setPending { t with everOutside := true } d
  sendAtom s3 home phys ⟨curWho s, 0, 0, 0, false, op, 0, b, c, l, ea⟩ (if rl then releaseWaits (curSlot s) else [])

/-- A RED has left for its home; one whose checks failed carries no location and will be logged (12 R242). -/
def redIssued (s : State) (op : RedOp) (rl : Bool) (ea b : Word) (l : Loc) (home phys : Nat) : State :=
  let s2 := addOut s s.cur.core s.cur.slot .red [.core phys] [(ea.toNat, atomBytes (redAmo op))] .none .none 1 false
  sendAtom (modCur s2 fun t => { t with everOutside := true }) home phys
    ⟨curWho s, 0, 0, 0, true, redAmo op, redFn op, b, 0, l, ea⟩ (if rl then releaseWaits (curSlot s) else [])

/-- The task of an item in flight stands in the slot it was sent from, with the item outstanding as o. -/
def itemAt (s : State) (w : Who) (o : OutItem) : Prop :=
  holdsTask (getSlot s w.core w.slot) w.gtid = true ∧
    (getSlot s w.core w.slot).out.find? (fun p => p.id == w.item) = some o

/-- The item is no longer outstanding. -/
def itemGone (s : State) (w : Who) : Prop := ∀ o ∈ (getSlot s w.core w.slot).out, o.id ≠ w.item

/-! ## Guards (05 R113-R129) -/

/-- No table that the walk of a VA reads for the bundle's task lies in a line with the host (04 R107). -/
def walkFree (s : State) (va : Word) : Prop :=
  ∀ tr, translate s (.core s.cur.core) (curSlot s).region va.toNat = .error tr → isLine tr = false

/-- One does: its line. -/
def walkMeets (s : State) (va : Word) (x : Nat) : Prop :=
  ∃ tr, translate s (.core s.cur.core) (curSlot s).region va.toNat = .error tr ∧ isLine tr = true ∧ tr.value.toNat = x

/-- The task of the bundle waits for an answer into x[rd] under the next number of its slot. -/
def waitsForAnswer (s t : State) (rd : XField) : Prop :=
  curSlot t = { curSlot s with park := .answer rd.toNat (curSlot s).nextItem, nextItem := (curSlot s).nextItem + 1 }

/-- One event left from s to t. -/
def OneSent (s t : State) (e : Event) : Prop := ∃ f, t.flights = s.flights ++ [f] ∧ f.act = e

/-- An event is in flight. -/
def inFlight (s : State) (e : Event) : Prop := ∃ f ∈ s.flights, f.act = e

/-- The acquire forms: exclusive, in place (05 R120). -/
def acqForms : List ((XField → XField → XField → Instr) × Bool × Bool) :=
  [(.acqX, true, false), (.acqS, false, false), (.acqXi, true, true), (.acqSi, false, true)]

/-- What a release asks of the Capo (05 R127). -/
def releaseKind (h : Hold) (w : Bool) : RelKind :=
  if !h.excl then .shared
  else if h.inPlace then .all
  else if h.dirty.isEmpty then .none
  else if w then .written h.dirty
  else .pinned h.dirty

/-- A slot that waits for answer `id` into x[rd] holds the task an answer is for. -/
def awaits (s : State) (who : Who) (rd : Nat) : Prop :=
  holdsTask (getSlot s who.core who.slot) who.gtid = true ∧ (getSlot s who.core who.slot).park = .answer rd who.item

/-- The word w reached x[rd] of a waiting slot, which goes on unless its bundle carried the switch mark. -/
def gotAnswer (s t : State) (who : Who) (rd : Nat) (w : Word) : Prop :=
  getX (getSlot t who.core who.slot) rd = (if rd = 0 then 0 else w) ∧
    (getSlot t who.core who.slot).park = (if (getSlot s who.core who.slot).nextSw then .switchMark else .none)

/-- The word w reached x[r] of the task of a token, whose pending bit is clear. -/
def tokenDone (t : State) (who : Who) (r : Nat) (w : Word) : Prop :=
  getX (getSlot t who.core who.slot) r = (if r = 0 then 0 else w) ∧
    isPending (getSlot t who.core who.slot) (.x r) = false

/-! ## Harp (06 R138) -/

/-- A Harp hazard trap with its value word. -/
def harpTrap (detail reason sub slot h : Nat) : Trap :=
  ⟨7, detail, 0, BitVec.ofNat 64 (reason * 2 ^ 28 + sub * 2 ^ 24 + slot % 64 * 2 ^ 18 + h % 4096)⟩

/-- A timed event left for cycle c from s to t. -/
def OneTimed (s t : State) (c : Nat) (e : Event) : Prop :=
  ∃ f, t.flights = s.flights ++ [f] ∧ f.act = e ∧ f.due = c ∧ f.timed = true

/-- Bank n of cluster cl closes its row at this cycle: PRECHARGE for 8 cycles, its row gone, with the lost record `l`. -/
def bankClosed (s t : State) (cl n : Nat) (l : Option (Nat × Nat × Nat)) : Prop :=
  (getBank t cl n).st = .precharge ∧ (getBank t cl n).until_ = s.cycle + 8 ∧ (getBank t cl n).row = none ∧
    (getBank t cl n).lost = l ∧ OneTimed s t (s.cycle + 8) (.prechargeEnd cl n) ∧ t.mem = s.mem ∧ t.cores = s.cores

/-! ## Parked bundles that complete (03 R78, 17 R325) -/

/-- The bundle slot (c, i) is parked in completes with w in x[rd]: the task goes on at the next bundle. -/
def goesOnWith (s t : State) (c i rd : Nat) (w : Word) : Prop :=
  getX (getSlot t c i) rd = (if rd = 0 then 0 else w) ∧ (getSlot t c i).pc = (getSlot s c i).nextPc ∧
    (getSlot t c i).park = (if (getSlot s c i).nextSw then .switchMark else .none)

/-- The result word of a barrier operation (17 R325), as a number. -/
def barResult (status phase arr : Nat) (last : Bool) : Nat :=
  arr % 2 ^ 16 * 2 ^ 16 + (if last then 2 ^ 12 else 0) + phase % 16 * 2 ^ 8 + status % 256

/-- The cycle after which a bounded wait that issues now has timed out (17 R327). -/
def boundEnds (s : State) (b : Nat) : Option Nat := if b = 0 ∨ b = 2 ^ 32 - 1 then none else some (s.cycle + b)

/-- The barrier object at an owner's address reads so. -/
def barrierReads (s : State) (owner addr e a p n : Nat) : Prop :=
  bExp (barObj s owner addr) = e ∧ bArr (barObj s owner addr) = a ∧ bPhase (barObj s owner addr) = p ∧
    bName (barObj s owner addr) = n

/-! ## A word of one cycle's latency -/

/-- v reaches x[rd] one cycle later, and nothing else of the state changes. -/
def gives (s : State) (rd : XField) (v : Word) : State :=
  lateTo s (.x rd.toNat) 1 (BitVec.ofNat 512 v.toNat) (BitVec.allOnes 512)

/-! ## Special registers and TSYS (18 R341, R345) -/

/-- The plain read-write registers and the bits a write stores. -/
def plainRegisters : List (Nat × Word) :=
  [(0x00E, 0xFFF#64), (0x010, 0x3F#64), (0x011, 0x3F#64), (0x013, 0xFFF#64), (0x014, 0xC0000000FFFFFFFF#64),
    (0x018, 0x1FF#64), (0x019, 0xF0001FFF000001FF#64), (0x01A, 0x0000FFF00001FFFF#64), (0x030, 0xFFFFFFFF#64),
    (0x420, 0x3F#64), (0x428, BitVec.allOnes 64), (0x429, BitVec.allOnes 64), (0x42A, BitVec.allOnes 64), (0x42D, 3#64),
    (0x438, BitVec.allOnes 64), (0x439, BitVec.allOnes 64), (0x43B, 0xFFFF#64)] ++
  ((List.range 16).map fun j => (0x400 + 2 * j, BitVec.allOnes 64)) ++
  (List.range 16).map fun j => (0x401 + 2 * j, 0xE0FFFFFFFFFFFFFF#64)

/-- The read-only registers whose write is ignored. -/
def fixedRegisters : List Nat :=
  [0x000, 0x001, 0x002, 0x003, 0x004, 0x008, 0x009, 0x00A, 0x00B, 0x00C, 0x00D, 0x00F, 0x015, 0x020, 0x021, 0x022, 0x023,
    0x024, 0x025, 0x026, 0x050, 0x051, 0x052, 0x053, 0x054, 0x055, 0x056, 0x057, 0x061, 0x062, 0x42B, 0x42C, 0x430, 0x431,
    0x432, 0x433, 0x43A]

/-- The three write forms. -/
def writeForms : List (SrForm × (XField → BitVec 12 → Instr)) := [(.write, .srwr), (.set, .srset), (.clear, .srclr)]

/-- A TSYS form is answered with a status: its slot waits, and the answer is in flight. -/
def tsysAnswered (s t : State) (rd : XField) (st : Nat) : Prop :=
  waitsForAnswer s t rd ∧ OneSent s t (.barrierAnswer (curWho s) (BitVec.ofNat 64 st))

/-- A task that a TSYS form finds in slot (c, i). -/
def targetSlot (s : State) (g : Word) (c i : Nat) : Prop := findTarget s s.cur.core g = some (.slot c i)

/-- A write of 64 bits to a field table of the control page. -/
def hostOnly (s t : State) : Prop := t.mem = s.mem ∧ t.cores = s.cores ∧ t.clusters = s.clusters ∧ t.dies = s.dies

/-! ## Regions (16 R314, R315) -/

/-- The parent of the region a START asks for. -/
def startParent (s : State) (m : Msg) : Option Region :=
  if fromHost m then none else getRegion s (gtidRegion m.who.gtid)

/-- The region that the RCB at pa describes. -/
def startOf (s : State) (m : Msg) (pa va : Nat) : Region :=
  let r := readRegion (rcbWords s pa) pa va (startParent s m) m
  { r with debug := keyDebug s r }

/-- The result of a START by the table of R314: what it loads, or the number of the first condition that refuses it. -/
def startOutcome (s : State) (m : Msg) (pa va : Nat) : Except Nat Loads :=
  startResult s (rcbWords s pa) (startOf s m pa va) (fromHost m) (startParent s m) (hdrDcore m.hdr - 3136)
    (m.pay.getD 1 0#64).toNat (m.pay.getD 2 0#64).toNat

/-- A reply of START or of completion is on its way to the sender, on the tag that its word 1 names. -/
def startReplied (t : State) (m : Msg) (words : List Word) : Prop :=
  ∃ x, inFlight t (.messageArrive x) ∧ x.pay = words ∧ hdrDcore x.hdr = hdrScore m.hdr ∧
    hdrTag x.hdr = (m.pay.getD 1 0#64).toNat % 256

/-! ## Error counters (19 R360) -/

/-- Error counter n of die d counts one more, saturating. -/
def countedOne (s t : State) (d n : Nat) : Prop :=
  tget (getDie t d).ec n 0 =
    (if tget (getDie s d).ec n 0 = BitVec.allOnes 64 then BitVec.allOnes 64 else tget (getDie s d).ec n 0 + 1)

/-! ## Security requests (21 R374, R376-R380) -/

/-- A security request is answered: the processor is busy until its result stands in the control page. -/
def secAnswered (t : State) (result rslot : Nat) : Prop :=
  t.host.busy = true ∧ inFlight t (.securityRequestDone result rslot)

/-! ## Scale-out ports (22 R387, R388) -/

/-- No other port reaches a chip. -/
def noOtherPort (s : State) (p chip : Nat) : Prop :=
  ∀ q, q < 12 → q ≠ p → (getPort s q).up = false ∨ (getPort s q).far ≠ chip

/-! ## The matrix engine (10 R220-R227) -/

/-- The writes of a block's rows are in flight from the engine, and the engine waits for as many acknowledgements. -/
def blockWritten (t : State) (cl : Nat) (r : MmaRun) (rows : List MxOutRow) : Prop :=
  (∀ x ∈ rows, ∃ w, inFlight t (.remoteWrite w) ∧ w.kind = .row ∧ w.loc = .sp x.core x.addr ∧
    w.data = mxPack (oFmt r.recO) (x.elems.map fun e => e.bits)) ∧
  ∃ r1, (getCluster t cl).mmaRun = some r1 ∧ r1.writing = true ∧ r1.blk = r.blk ∧ r1.waits.length = rows.length

end Sys2Proof.Machine
end

