-- ==== Sys2Proof/Certificates/Slice0/Obligations.lean ====
section
/-! DEFINITION. The statements of this row, for the provers: what each word and each step of the part does. -/

open Sys2Proof Sys2Proof.Machine

/-- Reset: the values the spec states (15 R307, R309, 02 R48, 10 R227, 22 R390), no task in any slot, no transfer in flight;
the bytes of memory and the registers without a reset value are the model's choice (log 1, log 2). -/
def Obligations.ResetState : Prop :=
  (∀ c, (getCore State.reset c).lastSlot = 7 ∧ (getCore State.reset c).rqwt = 0x01010101#64 ∧
    (getCore State.reset c).rqlot.toNat = (c * 0x9E3779B9 + 1) % 2 ^ 32 ∧
    (c < 3072 → (getCore State.reset c).fpint.toNat = 3072 + c / 48) ∧
    ∀ i, (getSlot State.reset c i).held = false ∧ (getSlot State.reset c i).p = 1#8) ∧
  (∀ k, (getCluster State.reset k).mxlot.toNat = ((4096 + k) * 0x9E3779B9 + 1) % 2 ^ 32) ∧
  State.reset.pwrcap = 3600#64 ∧ State.reset.flights = [] ∧ State.reset.mem = []

/-- Reset leaves every byte store in canonical form. -/
def Obligations.ResetCanonical : Prop := Canonical State.reset

/-- From any state whose byte stores are in canonical form, a step that answers a next state leaves them so. -/
def Obligations.StepKeepsCanonical : Prop :=
  ∀ s t, Canonical s → step s = .next t → Canonical t

/-- A well-formed C instruction's lone word decodes to it at every word-aligned address, whatever follows. -/
def Obligations.LoneWordRoundTrip : Prop :=
  ∀ i w w1 pc, wellFormed i = true → encodeLone i = some w → frame pc w w1 = some ⟨false, 0, some i, none⟩

/-- A well-formed A instruction's word decodes to it beside a C NOP, at every address that is 0 mod 8. -/
def Obligations.PairWordRoundTrip : Prop :=
  ∀ i w pc, wellFormed i = true → encode i = some [0, w] → pc % 8 = 0 →
    frame pc 0 w = some ⟨false, 0, some .nop, some (some i)⟩

/-- One step runs the decoded instruction of a lone word: what `exec` makes of it from the issue state, then the advance past
the bundle, and for PAIRON the copy of the registers to the partner; a trap leaves the task at its bundle. One step runs
both words of a pair, the A-word on what the C-word left; if either traps, neither has an effect (03 R60). What follows a
bundle that neither parked its task nor merged an enabled flag: the task goes on at the transfer's target, or past the
bundle's 4 or 8 bytes, no earlier than 1 + G cycles later, one more after a transfer; S parks the slot; the slot counts as
issued last, in this cycle. -/
def Obligations.StepRunsTheDecodedInstruction : Prop :=
  (
  ∀ s c i r b ins t, mayIssue s c i r → decodesTo s c i b → b.c = some ins → b.a = none → wellFormed ins = true →
    let s0 := beginBundle { s with turns := r } c i b
    popsReady s0 (some ins) none = true → exec ins s0 = .next t →
    (t.cur.ended = .done → step s = .next (pairCopy (finishBundle b (keptBack b none s0 t t)) c i)) ∧
    (∀ tr, t.cur.ended = .trapped tr → step s = .next (markIssued (takeTrap tr s0) c i))) ∧
  (
  ∀ s c i r b ci ai t1 t2, mayIssue s c i r → decodesTo s c i b → b.c = some ci → b.a = some (some ai) →
    actsLast ci = false → pairClash ci ai = false →
    let s0 := beginBundle { s with turns := r } c i b
    popsReady s0 (some ci) (some ai) = true → exec ci s0 = .next t1 → t1.cur.ended = .done → exec ai t1 = .next t2 →
    (t2.cur.ended = .done → step s = .next (pairCopy (finishBundle b (keptBack b (some ai) s0 t1 t2)) c i)) ∧
    (∀ tr, t2.cur.ended = .trapped tr → step s = .next (markIssued (takeTrap tr s0) c i))) ∧
  (
  ∀ b t, t.cur.ended = .done → t.cur.freed = false → (curSlot t).park = .none →
    enabledFlags (curSlot t) t.cur.flags.toNat = 0 →
    let u := finishBundle b t
    (curSlot u).pc = (t.cur.target.getD (t.cur.pc + BitVec.ofNat 64 t.cur.size)) ∧
    (curSlot u).notBefore = t.cycle + 1 + b.g + (if t.cur.target.isSome then 1 else 0) ∧
    (curSlot u).park = (if b.s then .switchMark else .none) ∧
    (getCore u t.cur.core).lastSlot = t.cur.slot ∧ (getCore u t.cur.core).issuedAt = some t.cycle ∧
    (curSlot u).x = (curSlot t).x ∧ (curSlot u).late = (curSlot t).late ∧ SameBytes t u)

/-- A scalar source that is a register gives its value and changes nothing; x0 gives zero. A scalar result to a register is a
late write and nothing else; a late write to x0 never changes a register. A late result is not visible before its cycle
and visible from it on; of several the last to become visible stays (03 R73, R77). -/
def Obligations.RegistersAndLateResults : Prop :=
  (
  (∀ s srcs, plainRegs srcs = true → sourceWords srcs s = some (srcs.map (xOf s), s)) ∧
  (∀ s, xOf s 0#6 = 0#64) ∧
  (∀ s f lat v, isQ f = false →
    resultTo s f lat v = some (lateTo s (.x f.toNat) lat (BitVec.ofNat 512 v.toNat) (BitVec.allOnes 512))) ∧
  (∀ t due v mask bad n, getX (putLate t ⟨due, .x 0, v, mask, bad⟩) n = getX t n)) ∧
  (
  (∀ t now, (∀ l ∈ t.late, now < l.due) → (landLate t now).x = t.x ∧ (landLate t now).f = t.f ∧
    (landLate t now).v = t.v ∧ (landLate t now).p = t.p ∧ (landLate t now).late = t.late) ∧
  (∀ (t : Slot) (now n : Nat) (w : Word) (l0 : List Late) (bad : Option Nat) (due : Nat), n ≠ 0 → due ≤ now →
    (∀ l ∈ l0, l.due ≤ due) → t.late = l0 ++ [⟨due, .x n, BitVec.ofNat 512 w.toNat, BitVec.allOnes 512, bad⟩] →
    getX (landLate t now) n = w) ∧
  (∀ (t : Slot) (now n : Nat), n ≠ 0 → (∀ l ∈ t.late, l.due ≤ now → l.dst ≠ .x n) → getX (landLate t now) n = getX t n) ∧
  (∀ s t, tickStep s = t → s.flights.any (fun f => f.timed && decide (f.due ≤ s.cycle)) = false →
    t.cycle = s.cycle + 1 ∧
    ∀ c i, (getSlot t c i).x = (landLate (getSlot s c i) (s.cycle + 1)).x))

/-- R162: every INT operation but the divisions and the forms of one source: value and latency. R162: the INT forms of one
source, each result characterised by its bits. R347: the predicted residue. ADD, SUB, ADDI and MUL of a source with a bad
residue give their register the value with the residue predicted from those of the sources, which the register keeps where
it does not match; a checked use of a register with a bad residue seals the core, and nothing is written. -/
def Obligations.IntegerResults : Prop :=
  (
  ∀ rd ra rb : XField,
    Gives2Sound (.add rd ra rb) rd ra rb 1 (fun a b w => w = a + b) ∧
    Gives2Sound (.sub rd ra rb) rd ra rb 1 (fun a b w => w = a - b) ∧
    Gives2Sound (.mul rd ra rb) rd ra rb 3 (fun a b w => w.toNat = a.toNat * b.toNat % 2 ^ 64) ∧
    Gives2 (.mulhSs rd ra rb) rd ra rb 3 (fun a b w => w = BitVec.ofInt 64 (a.toInt * b.toInt / 2 ^ 64)) ∧
    Gives2 (.mulhUu rd ra rb) rd ra rb 3 (fun a b w => w.toNat = a.toNat * b.toNat / 2 ^ 64) ∧
    Gives2 (.mulhSu rd ra rb) rd ra rb 3 (fun a b w => w = BitVec.ofInt 64 (a.toInt * (b.toNat : Int) / 2 ^ 64)) ∧
    Gives2 (.and rd ra rb) rd ra rb 1 (fun a b w => ∀ k, w.getLsbD k = (a.getLsbD k && b.getLsbD k)) ∧
    Gives2 (.or rd ra rb) rd ra rb 1 (fun a b w => ∀ k, w.getLsbD k = (a.getLsbD k || b.getLsbD k)) ∧
    Gives2 (.xor rd ra rb) rd ra rb 1 (fun a b w => ∀ k, w.getLsbD k = (a.getLsbD k != b.getLsbD k)) ∧
    Gives2 (.andn rd ra rb) rd ra rb 1 (fun a b w => ∀ k, w.getLsbD k = (a.getLsbD k && !b.getLsbD k)) ∧
    Gives2 (.sll rd ra rb) rd ra rb 1 (fun a b w => w.toNat = a.toNat * 2 ^ (b.toNat % 64) % 2 ^ 64) ∧
    Gives2 (.srl rd ra rb) rd ra rb 1 (fun a b w => w.toNat = a.toNat / 2 ^ (b.toNat % 64)) ∧
    Gives2 (.sra rd ra rb) rd ra rb 1 (fun a b w => w.toInt = a.toInt / 2 ^ (b.toNat % 64)) ∧
    Gives2 (.rol rd ra rb) rd ra rb 1
      (fun a b w => ∀ k, k < 64 → w.getLsbD ((k + b.toNat % 64) % 64) = a.getLsbD k) ∧
    Gives2 (.ror rd ra rb) rd ra rb 1
      (fun a b w => ∀ k, k < 64 → w.getLsbD k = a.getLsbD ((k + b.toNat % 64) % 64)) ∧
    Gives2 (.slt rd ra rb) rd ra rb 1 (fun a b w => w = if a.toInt < b.toInt then 1 else 0) ∧
    Gives2 (.sltu rd ra rb) rd ra rb 1 (fun a b w => w = if a.toNat < b.toNat then 1 else 0) ∧
    Gives2 (.min rd ra rb) rd ra rb 1 (fun a b w => (w = a ∨ w = b) ∧ w.toInt ≤ a.toInt ∧ w.toInt ≤ b.toInt) ∧
    Gives2 (.max rd ra rb) rd ra rb 1 (fun a b w => (w = a ∨ w = b) ∧ a.toInt ≤ w.toInt ∧ b.toInt ≤ w.toInt) ∧
    Gives2 (.minu rd ra rb) rd ra rb 1 (fun a b w => (w = a ∨ w = b) ∧ w.toNat ≤ a.toNat ∧ w.toNat ≤ b.toNat) ∧
    Gives2 (.maxu rd ra rb) rd ra rb 1 (fun a b w => (w = a ∨ w = b) ∧ a.toNat ≤ w.toNat ∧ b.toNat ≤ w.toNat)) ∧
  (
  ∀ rd ra : XField,
    Gives1 (.clz rd ra) rd ra (fun a w => w.toNat ≤ 64 ∧ (∀ k, 64 - w.toNat ≤ k → a.getLsbD k = false) ∧
      (w.toNat < 64 → a.getLsbD (63 - w.toNat) = true)) ∧
    Gives1 (.ctz rd ra) rd ra (fun a w => w.toNat ≤ 64 ∧ (∀ k, k < w.toNat → a.getLsbD k = false) ∧
      (w.toNat < 64 → a.getLsbD w.toNat = true)) ∧
    Gives1 (.popc rd ra) rd ra (fun a w => w.toNat = ((List.range 64).filter fun k => a.getLsbD k).length) ∧
    Gives1 (.bswap rd ra) rd ra
      (fun a w => ∀ n k, n < 8 → k < 8 → w.getLsbD (8 * n + k) = a.getLsbD (8 * (7 - n) + k)) ∧
    Gives1 (.sext rd ra .b) rd ra (fun a w => w = (a.setWidth 8).signExtend 64) ∧
    Gives1 (.sext rd ra .h) rd ra (fun a w => w = (a.setWidth 16).signExtend 64) ∧
    Gives1 (.sext rd ra .w) rd ra (fun a w => w = (a.setWidth 32).signExtend 64) ∧
    Gives1 (.zext rd ra .b) rd ra (fun a w => w.toNat = a.toNat % 2 ^ 8) ∧
    Gives1 (.zext rd ra .h) rd ra (fun a w => w.toNat = a.toNat % 2 ^ 16) ∧
    Gives1 (.zext rd ra .w) rd ra (fun a w => w.toNat = a.toNat % 2 ^ 32)) ∧
  (
  (∀ (rd ra rb : XField) s, isQ rd = false → plainRegs [ra, rb] = true → operandsFree s [ra, rb] (.xq rd) = true →
    soundSources s [ra, rb] = false →
    let a := xOf s ra
    let b := xOf s rb
    let ka : Int := resOf (curSlot s) ra.toNat
    let kb : Int := resOf (curSlot s) rb.toNat
    exec (.add rd ra rb) s = .next (predictedTo s rd 1 (a + b) (a.toNat + b.toNat) (ka + kb)) ∧
    exec (.sub rd ra rb) s = .next (predictedTo s rd 1 (a - b) (a.toNat - b.toNat) (ka - kb)) ∧
    exec (.mul rd ra rb) s = .next (predictedTo s rd 3 (a * b) (a.toNat * b.toNat) (ka * kb))) ∧
  (∀ (rd ra : XField) (imm : BitVec 13) s, isQ rd = false → plainRegs [ra] = true → operandsFree s [ra] (.xq rd) = true →
    soundSources s [ra] = false →
    let a := xOf s ra
    let i := imm.signExtend 64
    exec (.addi rd ra imm) s = .next (predictedTo s rd 1 (a + i) (a.toNat + i.toNat)
      (resOf (curSlot s) ra.toNat + ((i.toNat % 15 : Nat) : Int)))) ∧
  (∀ (rd ra : XField) s, isQ ra = false → operandsFree s [ra] (.x rd) = true → soundSources s [ra] = false →
    ∃ t, exec (.jr rd ra) s = .next t ∧ t.cur.ended = .stalled ∧ (getCore t s.cur.core).sealed = true ∧
      SameBytes s t ∧ SameRegisters s t s.cur.core s.cur.slot ∧
      ∃ f ∈ t.flights, f.timed = true ∧ f.due = s.cycle ∧ f.act = .coreSeal s.cur.core))

/-- R164, R165, R167 and R169: immediate forms, bit fields, selection and scaled addition. MOVHI and BFI read their
destination, so only a register may stand there. -/
def Obligations.ImmediateResults : Prop :=
  ∀ (rd ra rb : XField) (imm : BitVec 13) (n : BitVec 6),
    Gives1Sound (.addi rd ra imm) rd ra (fun a w => w = a + imm.signExtend 64) ∧
    Gives1 (.andi rd ra imm) rd ra (fun a w => w = a &&& imm.signExtend 64) ∧
    Gives1 (.ori rd ra imm) rd ra (fun a w => w = a ||| imm.signExtend 64) ∧
    Gives1 (.xori rd ra imm) rd ra (fun a w => w = a ^^^ imm.signExtend 64) ∧
    Gives1 (.slli rd ra n) rd ra (fun a w => w.toNat = a.toNat * 2 ^ n.toNat % 2 ^ 64) ∧
    Gives1 (.srli rd ra n) rd ra (fun a w => w.toNat = a.toNat / 2 ^ n.toNat) ∧
    Gives1 (.srai rd ra n) rd ra (fun a w => w.toInt = a.toInt / 2 ^ n.toNat) ∧
    (∀ i12 : BitVec 12,
      Gives1 (.slti rd ra i12) rd ra (fun a w => w = if a.toInt < i12.toInt then 1 else 0) ∧
      Gives1 (.sltiu rd ra i12) rd ra (fun a w => w = if a.toNat < (i12.signExtend 64).toNat then 1 else 0)) ∧
    (∀ i19 : BitVec 19, GivesX (.movi rd i19) [] rd 1 (fun _ (w : Word) => w.toInt = i19.toInt)) ∧
    (∀ (i19 : BitVec 19) s, isQ rd = false → operandsFree s [] (.xq rd) = true →
      exec (.movhi rd i19) s = .next (lateTo s (.x rd.toNat) 1
        (BitVec.ofNat 512 ((xOf s rd).toNat * 2 ^ 19 % 2 ^ 64 + i19.toNat)) (BitVec.allOnes 512))) ∧
    (∀ pos wm1 : BitVec 6, pos.toNat + wm1.toNat < 64 →
      Gives1 (.bfx rd ra pos wm1) rd ra (fun a w => ∀ k,
        w.getLsbD k = (decide (k ≤ wm1.toNat) && a.getLsbD (pos.toNat + k))) ∧
      (∀ s s1 a (w : Word), isQ rd = false → operandsFree s [ra] (.xq rd) = true → sourceWords [ra] s = some ([a], s1) →
        (∀ k, w.getLsbD k = if pos.toNat ≤ k ∧ k ≤ pos.toNat + wm1.toNat then a.getLsbD (k - pos.toNat)
          else (xOf s1 rd).getLsbD k) →
        exec (.bfi rd ra pos wm1) s = .next (lateTo s1 (.x rd.toNat) 1 (BitVec.ofNat 512 w.toNat) (BitVec.allOnes 512)))) ∧
    (∀ (p : PField) (inv : BitVec 1) s s1 t a b, operandsFree s [ra, rb] (.xq rd) = true →
      sourceWords [ra, rb] s = some ([a, b], s1) →
      resultTo s1 rd 1 (if getP (curSlot s) p.toNat != (inv == 1#1) then a else b) = some t →
      exec (.sel rd ra rb p inv) s = .next t) ∧
    Gives2 (.addsh rd ra rb n) rd ra rb 1 (fun a b w => w.toNat = (a.toNat + b.toNat * 2 ^ n.toNat) % 2 ^ 64)

/-- R166 and R168: CMP, CMPI and PLOG write their predicate one cycle later. -/
def Obligations.PredicateResults : Prop :=
  (∀ (pd : PField) (ra rb : XField) (c : BitVec 3) s s1 a b,
    operandsFree s [ra, rb] (.p pd) = true → sourceWords [ra, rb] s = some ([a, b], s1) → c.toNat < 6 →
    exec (.cmp pd ra rb c) s = .next (lateTo s1 (.p pd.toNat) 1
      (if conditionHolds c a b then 1#512 else 0#512) (BitVec.allOnes 512))) ∧
  (∀ (pd : PField) (ra : XField) (c : BitVec 3) (imm : BitVec 10) s s1 a,
    operandsFree s [ra] (.p pd) = true → sourceWords [ra] s = some ([a], s1) → c.toNat < 6 →
    exec (.cmpi pd ra c imm) s = .next (lateTo s1 (.p pd.toNat) 1
      (if conditionHolds c a (imm.signExtend 64) then 1#512 else 0#512) (BitVec.allOnes 512))) ∧
  (∀ (pd pa pb : PField) (tt : BitVec 4) s,
    exec (.plog pd pa pb tt) s = .next (lateTo s (.p pd.toNat) 1
      (if tt.getLsbD ((getP (curSlot s) pa.toNat).toNat * 2 + (getP (curSlot s) pb.toNat).toNat) then 1#512 else 0#512)
      (BitVec.allOnes 512)))

/-- R172: targets, links and target faults of B, BL, BP and JR. R72: NOP and ANOP change nothing. -/
def Obligations.ControlTransfers : Prop :=
  (
  (∀ (off : BitVec 22) s, (offTarget s off).toNat < 0x200000 → exec (.b off) s = .next (goTo s (offTarget s off))) ∧
  (∀ (off : BitVec 22) s, 0x200000 ≤ (offTarget s off).toNat → Traps (.b off) s ⟨2, 0, 0, offTarget s off⟩) ∧
  (∀ (off : BitVec 22) s, operandsFree s [] (.x 1#6) = true →
    ((offTarget s off).toNat < 0x200000 → exec (.bl off) s = .next
      (lateTo (goTo s (offTarget s off)) (.x 1) 1 (BitVec.ofNat 512 (linkOf s).toNat) (BitVec.allOnes 512))) ∧
    (0x200000 ≤ (offTarget s off).toNat → Traps (.bl off) s ⟨2, 0, 0, offTarget s off⟩)) ∧
  (∀ (p : PField) (n : BitVec 1) (off : BitVec 18) s,
    (getP (curSlot s) p.toNat = (n == 1#1) → exec (.bp p n off) s = .next s) ∧
    (getP (curSlot s) p.toNat ≠ (n == 1#1) →
      ((offTarget s off).toNat < 0x200000 → exec (.bp p n off) s = .next (goTo s (offTarget s off))) ∧
      (0x200000 ≤ (offTarget s off).toNat → Traps (.bp p n off) s ⟨2, 0, 0, offTarget s off⟩))) ∧
  (∀ (rd ra : XField) s s1 a, operandsFree s [ra] (.x rd) = true → soundSources s [ra] = true →
    sourceWords [ra] s = some ([a], s1) →
    (a.toNat < 0x200000 → a.toNat % 4 = 0 → exec (.jr rd ra) s = .next
      (lateTo (goTo s1 a) (.x rd.toNat) 1 (BitVec.ofNat 512 (linkOf s1).toNat) (BitVec.allOnes 512))) ∧
    (0x200000 ≤ a.toNat → Traps (.jr rd ra) s ⟨2, 0, 0, a⟩) ∧
    (a.toNat < 0x200000 → a.toNat % 4 ≠ 0 → Traps (.jr rd ra) s ⟨3, 0, 0, a⟩))) ∧
  (∀ s, exec .nop s = .next s ∧ exec .anop s = .next s)

/-- R334 and R336: taking a trap. The bundle changes no register, queue or byte; its task parks in its slot with its pc at the
bundle, and a message on tag 0xFD with the four words of R336 leaves for the control core (of a control core: for the
die's management core), or stands inside the core behind what waits there for that place (12 R244). -/
def Obligations.TakingATrap : Prop :=
  ∀ s tr,
    let t := takeTrap tr s
    let k := curSlot s
    let c := s.cur.core
    (getSlot t c s.cur.slot) = { k with park := .trapped tr, nextSw := decide (k.park = .switchMark), swPark := false } ∧
    t.cur = { s.cur with ended := .trapped tr } ∧ t.mem = s.mem ∧
    (∀ d j, d ≠ c ∨ j ≠ s.cur.slot → getSlot t d j = getSlot s d j) ∧
    ∃ m,
      LeftFor s t c (msgPlace s (mkHdr 4 0xFD 0xFF (noticeTarget c))) (.messageArrive m) ∧
      hdrTag m.hdr = 0xFD ∧ hdrNpay m.hdr = 4 ∧ hdrDcore m.hdr = (if c < 3072 then 3072 + c / 48 else 3136 + dieOf c) % 4096 ∧
      hdrScore m.hdr = c % 4096 ∧
      m.pay = [k.gtid, k.pc, BitVec.ofNat 64 (c % 4096 * 2 ^ 24 + s.cur.slot % 8 * 2 ^ 21 + tr.level % 8 * 2 ^ 18 +
        tr.detail % 1024 * 2 ^ 8 + tr.cause % 256), tr.value]

/-- R343 and R363: TRAP raises SOFT with its immediate as detail and x[ra] as value; BKPT raises its breakpoint trap. R68 and
R335: the queue misuse of a word's operands is raised as QUEUE with the queue's number, q14 and q15 as ILLEGAL, and a
bundle held back by a queue or a pending destination does not issue; shown for a word with a queue destination and for one
without. -/
def Obligations.OperandTraps : Prop :=
  (
  (∀ (ra : XField) (imm : BitVec 10) s s1 a, operandsFree s [ra] .none = true → sourceWords [ra] s = some ([a], s1) →
    Traps (.trap ra imm) s ⟨13, imm.toNat, 0, a⟩) ∧
  (∀ s, Traps .bkpt s ⟨12, 0, 0, 0⟩)) ∧
  (
  (∀ (rd ra rb : XField) s, sourcesReady s [ra, rb] = true → dstReady s (.xq rd) = true →
    (namesQ1415 [ra, rb] (.xq rd) = true → Traps (.or rd ra rb) s ⟨1, 0, 0, 0⟩) ∧
    (∀ q, namesQ1415 [ra, rb] (.xq rd) = false → misuse s [ra, rb] (.xq rd) = some q →
      Traps (.or rd ra rb) s ⟨10, q, 0, 0⟩)) ∧
  (∀ (rd ra rb : XField) s, (sourcesReady s [ra, rb] && dstReady s (.xq rd)) = false → Waits (.or rd ra rb) s) ∧
  (∀ (rd ra rb : XField) s, sourcesReady s [ra, rb] = true → dstReady s (.x rd) = true →
    namesQ1415 [ra, rb] (.x rd) = false → isQ rd = true → plainRegs [ra, rb] = true →
    (getCore s s.cur.core).divQueue.length < 4 → Traps (.div rd ra rb) s ⟨10, rd.toNat - 48, 0, 0⟩) ∧
  (∀ c q, (isCompute c = true → queueReadable c q = [1, 3, 6, 7, 8, 11].contains q) ∧
    (isControl c = true → queueReadable c q = [1, 3, 6, 7, 13].contains q) ∧
    (isCompute c = true → queueWritable c q = [0, 1, 2, 4, 5, 9, 10, 12].contains q) ∧
    (isControl c = true → queueWritable c q = [0, 1, 2, 4, 5, 12].contains q)))

/-- R163, R170: the quotients and remainders, and how they enter the divider queue; a fifth entry does not issue. R170, R171:
the divider takes the oldest entry when it is free and holds it for its occupancy; its result comes two cycles after that,
into the task's register, whose pending bit it clears; a task that has ended gets nothing. -/
def Obligations.Divisions : Prop :=
  (
  (∀ (rd ra rb : XField) s s1 a b, operandsFree s [ra, rb] (.x rd) = true → sourceWords [ra, rb] s = some ([a, b], s1) →
    ((getCore s s.cur.core).divQueue.length < 4 →
      (∀ q : Word, (b = 0 → q = 0) → (b ≠ 0 → q = BitVec.ofInt 64 (a.toInt.tdiv b.toInt)) →
        exec (.div rd ra rb) s = .next (divJobOf s1 (.x rd.toNat) q 36)) ∧
      (∀ q : Word, (b = 0 → q = 0) → (b ≠ 0 → q.toNat = a.toNat / b.toNat) →
        exec (.divu rd ra rb) s = .next (divJobOf s1 (.x rd.toNat) q 36)) ∧
      (∀ m : Word, (b = 0 → m = a) → (b ≠ 0 → m = BitVec.ofInt 64 (a.toInt.tmod b.toInt)) →
        exec (.rem rd ra rb) s = .next (divJobOf s1 (.x rd.toNat) m 36)) ∧
      (∀ m : Word, (b = 0 → m = a) → (b ≠ 0 → m.toNat = a.toNat % b.toNat) →
        exec (.remu rd ra rb) s = .next (divJobOf s1 (.x rd.toNat) m 36))) ∧
    (4 ≤ (getCore s s.cur.core).divQueue.length → Waits (.div rd ra rb) s ∧ Waits (.divu rd ra rb) s ∧
      Waits (.rem rd ra rb) s ∧ Waits (.remu rd ra rb) s)) ∧
  (∀ a b : Word, divS a b * b + remS a b = a ∧ divU a b * b + remU a b = a)) ∧
  (
  (∀ s c j r, (getCore s c).divQueue = j :: r → (getCore s c).divFree ≤ s.cycle →
    ∃ t, exec (.dividerStart c) s = .next t ∧ (getCore t c).divQueue = r ∧ (getCore t c).divRun = (getCore s c).divRun ++ [j] ∧
      (getCore t c).divFree = s.cycle + j.occ ∧ t.mem = s.mem ∧
      ∃ f, t.flights = s.flights ++ [f] ∧ f.timed = true ∧ f.due = s.cycle + j.occ + 2 ∧ f.act = .dividerResult c) ∧
  (∀ s c j r n w, (getCore s c).divRun = j :: r → j.dst = .x n → n ≠ 0 → j.val = w → j.who.core = c →
    holdsTask (getSlot s c j.who.slot) j.who.gtid = true →
    ∃ t, exec (.dividerResult c) s = .next t ∧ (getCore t c).divRun = r ∧ getX (getSlot t c j.who.slot) n = w ∧
      isPending (getSlot t c j.who.slot) (.x n) = false) ∧
  (∀ s c j r, (getCore s c).divRun = j :: r →
    locate (modCore s c fun k => { k with divRun := r }) j.who.core j.who.slot j.who.gtid = none →
    exec (.dividerResult c) s = .next (modCore s c fun k => { k with divRun := r })))

/-- R176: the basic and fused operations form one exact result and round it once; FDIV and FSQRT go through the divider. -/
def Obligations.FloatArithmetic : Prop :=
  ∀ (fm : Fmt) (rm : BitVec 3) (fd fa fb fc : FField),
    GivesF (.fadd fm rm fd fa fb) fm rm fd (fun s r => exAdd r (fVal s fm fa) (fVal s fm fb)) ∧
    GivesF (.fsub fm rm fd fa fb) fm rm fd (fun s r => exAdd r (fVal s fm fa) (negV (fVal s fm fb))) ∧
    GivesF (.fmul fm rm fd fa fb) fm rm fd (fun s _ => exMul (fVal s fm fa) (fVal s fm fb)) ∧
    GivesF (.fma fm rm fd fa fb fc) fm rm fd (fun s r => exFma r (fVal s fm fa) (fVal s fm fb) (fVal s fm fc)) ∧
    GivesF (.fms fm rm fd fa fb fc) fm rm fd (fun s r => exFma r (fVal s fm fa) (fVal s fm fb) (negV (fVal s fm fc))) ∧
    GivesF (.fnma fm rm fd fa fb fc) fm rm fd (fun s r => exFma r (negV (fVal s fm fa)) (fVal s fm fb) (fVal s fm fc)) ∧
    GivesF (.fnms fm rm fd fa fb fc) fm rm fd
      (fun s r => exFma r (negV (fVal s fm fa)) (fVal s fm fb) (negV (fVal s fm fc))) ∧
    (∀ s r, operandsFree s [] (.f fd) = true → curRm s rm.toNat = some r →
      (getCore s s.cur.core).divQueue.length < 4 →
      let occ := match fm with | .d => 28 | .s => 16 | .h => 10 | .bf => 10
      (let e := exDiv ((fmtFF fm).mbits + 1) (fVal s fm fa) (fVal s fm fb)
       let d := deliver (fmtFF fm) r false e.1
       exec (.fdiv fm rm fd fa fb) s =
         .next (divJobOf (mergeFlags 0 (e.2 ||| d.2) s) (.f fd.toNat) (box fm d.1) occ)) ∧
      (let e := exSqrt ((fmtFF fm).mbits + 1) (fVal s fm fa)
       let d := deliver (fmtFF fm) r false e.1
       exec (.fsqrt fm rm fd fa) s =
         .next (divJobOf (mergeFlags 0 (e.2 ||| d.2) s) (.f fd.toNat) (box fm d.1) occ)))

/-- The exact sum and product of finite values are exact: in units of any 2^d at or below every exponent, the sum of the
operands, and their product (R176). -/
def Obligations.ExactSumsAndProducts : Prop :=
  (∀ rm n1 m1 e1 n2 m2 e2, ∃ n m e, exAdd rm (.fin n1 m1 e1) (.fin n2 m2 e2) = (.fin n m e false, 0) ∧
    ∀ d : Int, d ≤ e → d ≤ e1 → d ≤ e2 → scaledInt n m e d = scaledInt n1 m1 e1 d + scaledInt n2 m2 e2 d) ∧
  (∀ n1 m1 e1 n2 m2 e2, exMul (.fin n1 m1 e1) (.fin n2 m2 e2) = (.fin (n1 != n2) (m1 * m2) (e1 + e2) false, 0)) ∧
  (∀ p n1 m1 e1 n2 m2 e2, m1 ≠ 0 → m2 ≠ 0 → ∃ n m e more, exDiv p (.fin n1 m1 e1) (.fin n2 m2 e2) = (.fin n m e more, 0) ∧
    n = (n1 != n2) ∧ e ≤ e1 - e2 ∧ 2 ^ (p + 3) ≤ m ∧
    m * m2 ≤ m1 * 2 ^ (e1 - e2 - e).toNat ∧ m1 * 2 ^ (e1 - e2 - e).toNat < (m + 1) * m2 ∧
    (more = false ↔ m * m2 = m1 * 2 ^ (e1 - e2 - e).toNat))

/-- R35: the five rounding modes on a magnitude m in units 2^-k of the last place: the multiple chosen, and when it is
inexact. A finite value a format holds is delivered to that format unchanged and without a flag, whatever the rounding
mode and the saturation choice (R42). -/
def Obligations.RoundingModes : Prop :=
  (
  ∀ (neg : Bool) (m k : Nat) (e : Int), 0 < k →
    let R := fun rm => roundAt rm neg m e false (e + k)
    (∀ rm, (R rm).2 = true ↔ (R rm).1 * 2 ^ k ≠ m) ∧
    (∀ rm, (R rm).1 * 2 ^ k < m + 2 ^ k ∧ m < (R rm).1 * 2 ^ k + 2 ^ k) ∧
    (2 * ((R .rne).1 * 2 ^ k) ≤ 2 * m + 2 ^ k ∧ 2 * m ≤ 2 * ((R .rne).1 * 2 ^ k) + 2 ^ k ∧
      (m % 2 ^ k = 2 ^ (k - 1) → (R .rne).1 % 2 = 0)) ∧
    (2 * ((R .rmm).1 * 2 ^ k) ≤ 2 * m + 2 ^ k ∧ 2 * m < 2 * ((R .rmm).1 * 2 ^ k) + 2 ^ k) ∧
    (R .rtz).1 * 2 ^ k ≤ m ∧
    (if neg then (R .rup).1 * 2 ^ k ≤ m else m ≤ (R .rup).1 * 2 ^ k) ∧
    (if neg then m ≤ (R .rdn).1 * 2 ^ k else (R .rdn).1 * 2 ^ k ≤ m)) ∧
  (
  ∀ F ∈ [fp64, fp32, fp16, bf16, fe5m2, fe4m3, fe2m1], ∀ rm sat b neg m e, b < 2 ^ ffWidth F →
    ffDecode F b = .fin neg m e → deliver F rm sat (.fin neg m e false) = (b, 0))

/-- R177-R183: minimum and maximum, signs, comparisons, classes, conversions and moves. -/
def Obligations.FloatOtherForms : Prop :=
  (∀ (fm : Fmt) (v : BitVec 3) (fd fa fb : FField) s, operandsFree s [] (.f fd) = true →
    (let r := fminmaxBits (fmtFF fm) v.toNat (fBits s fm fa) (fBits s fm fb)
     exec (.fminmax fm v fd fa fb) s = .next (lateTo (mergeFlags 0 r.2 s) (.f fd.toNat) 4
      (BitVec.ofNat 512 (box fm r.1).toNat) (BitVec.allOnes 512))) ∧
    (∀ r, fsgnBits (fmtFF fm) v.toNat (fBits s fm fa) (fBits s fm fb) = some r →
      exec (.fsgn fm v fd fa fb) s = .next (lateTo s (.f fd.toNat) 4
        (BitVec.ofNat 512 (box fm r).toNat) (BitVec.allOnes 512)))) ∧
  (∀ (fm : Fmt) (c : BitVec 3) (pd : PField) (fa fb : FField) s b fl,
    fcmpV c.toNat (fVal s fm fa) (fVal s fm fb) = some (b, fl) →
    exec (.fcmp fm c pd fa fb) s = .next (lateTo (mergeFlags 0 fl s) (.p pd.toNat) 4
      (if b then 1#512 else 0#512) (BitVec.allOnes 512))) ∧
  (∀ (fm : Fmt) (rd : XField) (fs : FField) s t, operandsFree s [] (.xq rd) = true →
    resultTo s rd 4 (BitVec.ofNat 64 (fclassBits (fmtFF fm) (fBits s fm fs))) = some t → exec (.fclass fm rd fs) s = .next t) ∧
  (∀ (dst src : Fmt) (rm : BitVec 3) (fd fa : FField),
    GivesF (.fcvt dst src rm fd fa) dst rm fd (fun s _ => (exOf (fVal s src fa), 0))) ∧
  (∀ (fm : Fmt) (rm : BitVec 3) (ty : BitVec 2) (x : XField) (f : FField) s r, curRm s rm.toNat = some r →
    (∀ s1 a, operandsFree s [x] (.f f) = true → sourceWords [x] s = some ([a], s1) →
      let i : Int := if ty = 0 then (a.setWidth 32).toInt else if ty = 1 then (a.setWidth 32).toNat
        else if ty = 2 then a.toInt else a.toNat
      exec (.fcvti fm rm 1 ty x f) s = .next (deliveredTo s1 fm f r (exInt i, 0))) ∧
    (∀ t, operandsFree s [] (.xq x) = true →
      let w := if ty.toNat < 2 then 32 else 64
      let n := toIntegerR44 w (ty.toNat % 2 == 0) r (fVal s fm f)
      let v : Word := if ty = 0 then (BitVec.ofNat 32 n.1).signExtend 64 else if ty = 1 then BitVec.ofNat 64 (n.1 % 2 ^ 32)
        else BitVec.ofNat 64 n.1
      resultTo (mergeFlags 0 n.2 s) x 4 v = some t → exec (.fcvti fm rm 0 ty x f) s = .next t)) ∧
  (∀ (fm : Fmt) (x : XField) (f : FField) s,
    (∀ s1 a, operandsFree s [x] (.f f) = true → sourceWords [x] s = some ([a], s1) →
      exec (.fmv fm 1 x f) s = .next (lateTo s1 (.f f.toNat) 4
        (BitVec.ofNat 512 (box fm (a.toNat % 2 ^ ffWidth (fmtFF fm))).toNat) (BitVec.allOnes 512))) ∧
    (∀ t, operandsFree s [] (.xq x) = true →
      resultTo s x 4 (BitVec.ofNat 64 ((getF (curSlot s) f.toNat).toNat % 2 ^ ffWidth (fmtFF fm))) = some t →
      exec (.fmv fm 0 x f) s = .next t))

/-- R188-R190, R197-R200: the element-wise vector forms. R188: the VINT operations on elements of width w, as integers modulo
2^w or clamped with SAT. -/
def Obligations.VectorElementwise : Prop :=
  (
  ∀ a : Av, let w := 8 * 2 ^ a.ew.toNat
    GivesV (.vint a) a 2 (fun _ x y _ _ => vintElem a.fn.toNat w x y) ∧
    GivesV (.vfp a) a 4 (fun s x y _ _ => vfpElem (vfmt a.ew (a.fn.getLsbD 3)) s (a.fn.toNat % 8) (a.fn.getLsbD 4) x y) ∧
    GivesV (.vfma a) a 4 (fun s x y d _ => vfmaElem (vfmt a.ew (a.fn.getLsbD 3)) s (a.fn.toNat % 4) (a.fn.getLsbD 4) x y d) ∧
    (∀ s, operandsFree s [] (.v a.vd) = true →
      let el := fun (n : FField) (j : Nat) => velem (getV (curSlot s) n.toNat) w j
      let elems_ := fun (f : Nat → Nat) => (.next (elementsTo s a.vd 2 w
        ((actives s a.vm (elems a.ew)).map fun j => (j, f j, 0))) : Host.Outcome State Fault Refusal)
      let k := a.fn.toNat % 2 * 32 + a.vb.toNat
      exec (.vperm a) s = elems_ (fun j => if el a.vb j < elems a.ew then el a.va (el a.vb j) else 0) ∧
      exec (.vslide a) s = elems_ (fun j =>
        if a.fn.getLsbD 1 then (if k ≤ j then el a.va (j - k) else 0)
        else if j + k < elems a.ew then el a.va (j + k) else 0) ∧
      exec (.vbcast a) s = elems_ (fun _ => el a.va k) ∧
      exec (.viota a) s = elems_ (fun j => if a.fn.toNat = 0 then j
        else ((List.range j).filter fun n => (getV (curSlot s) a.va.toNat).getLsbD n).length)) ∧
    (∀ s, operandsFree s [] (.v a.vd) = true →
      exec (.vscale a) s = .next (elementsTo s a.vd 4 w ((actives s a.vm (elems a.ew)).map fun j =>
        (j, deliverV (vfmt a.ew (a.fn.getLsbD 2)) s (a.fn.getLsbD 3)
          (exMul (ffDecode (vfmt a.ew (a.fn.getLsbD 2)) (velem (getV (curSlot s) a.va.toNat) w j))
            (e8m0Decode (velem (getV (curSlot s) a.vb.toNat) 8 (j / scaleBlock (a.fn.toNat % 4)))))))))) ∧
  (
  ∀ w ∈ [8, 16, 32, 64], ∀ x y : BitVec w,
    let op := fun fn => vintElem fn w x.toNat y.toNat
    let lo : Int := -(2 ^ (w - 1))
    let hi : Int := 2 ^ (w - 1) - 1
    let clamped := fun (r : Nat × Flags) (i l h : Int) (v : Int) =>
      v = max l (min h i) ∧ (r.2 = fSAT ↔ (i < l ∨ h < i)) ∧ (r.2 = fSAT ∨ r.2 = 0)
    op 0 = ((x + y).toNat, 0) ∧ op 1 = ((x - y).toNat, 0) ∧ op 2 = ((x * y).toNat, 0) ∧
    op 3 = ((BitVec.ofInt w (x.toInt * y.toInt / 2 ^ w)).toNat, 0) ∧ op 4 = (x.toNat * y.toNat / 2 ^ w, 0) ∧
    op 5 = ((if x.toInt ≤ y.toInt then x else y).toNat, 0) ∧ op 6 = ((if x.toInt ≤ y.toInt then y else x).toNat, 0) ∧
    op 7 = (min x.toNat y.toNat, 0) ∧ op 8 = (max x.toNat y.toNat, 0) ∧
    op 9 = ((x &&& y).toNat, 0) ∧ op 10 = ((x ||| y).toNat, 0) ∧ op 11 = ((x ^^^ y).toNat, 0) ∧
    op 12 = ((x &&& ~~~y).toNat, 0) ∧ op 13 = ((x <<< (y.toNat % w)).toNat, 0) ∧ op 14 = ((x >>> (y.toNat % w)).toNat, 0) ∧
    op 15 = ((x.sshiftRight (y.toNat % w)).toNat, 0) ∧
    clamped (op 16) (x.toInt + y.toInt) lo hi (BitVec.ofNat w (op 16).1).toInt ∧
    clamped (op 17) (x.toInt - y.toInt) lo hi (BitVec.ofNat w (op 17).1).toInt ∧
    clamped (op 18) (x.toInt * y.toInt) lo hi (BitVec.ofNat w (op 18).1).toInt ∧
    clamped (op 19) (x.toNat + y.toNat) 0 (2 ^ w - 1) (op 19).1 ∧
    clamped (op 20) (x.toNat - y.toNat) 0 (2 ^ w - 1) (op 20).1)

/-- R191-R196, R199, R200: comparisons, selection, reductions, dot products, conversions, moves between x and v registers and
mask logic. R205: VXCH gives each active element of the partner's va; outside a gang, or with d not below the size, it is
illegal. -/
def Obligations.VectorOtherForms : Prop :=
  (
  ∀ (a : Av) s, operandsFree s [] (.v a.vd) = true →
    let w := 8 * 2 ^ a.ew.toNat
    let n := elems a.ew
    let V := fun (k : FField) => getV (curSlot s) k.toNat
    let act := actives s a.vm n
    let cmp := fun (lat : Nat) (f : Nat → Nat → Bool × Flags) =>
      let es := act.map fun j => (j, f (velem (V a.va) w j) (velem (V a.vb) w j))
      (.next (lateTo (mergeFlags 0 (es.foldl (fun m e => m ||| e.2.2) 0) s) (.v a.vd.toNat) lat
        (BitVec.ofNat 512 (vplace 1 (es.map fun e => (e.1, if e.2.1 then 1 else 0))))
        (vbits 1 act ||| BitVec.ofNat 512 ((2 ^ 512 - 1) / 2 ^ n * 2 ^ n))) : Host.Outcome State Fault Refusal)
    exec (.vcmp a) s = cmp 2 (fun x y => (vcmpElem a.fn.toNat w x y, 0)) ∧
    exec (.vfcmp a) s = cmp 4 (vfcmpElem (vfmt a.ew (a.fn.getLsbD 3)) (a.fn.toNat % 8)) ∧
    exec (.vsel a) s = .next (elementsTo s a.vd 2 w ((List.range n).map fun j =>
      (j, velem (if vactive s a.vm j then V a.va else V a.vb) w j, 0))) ∧
    (let fp := a.fn.getLsbD 4
     let F := vfmt a.ew (fp && a.fn.getLsbD 3)
     let f := if fp then vredFp F s (a.fn.toNat % 8) else vredInt (a.fn.toNat % 8) w
     let es := (List.range n).map fun i => if vactive s a.vm i then some (velem (V a.va) w i, (0 : Flags)) else none
     let b0 := velem (V a.vb) w 0
     let r := match treeReduce f (6 - a.ew.toNat) es with
       | none => vredAlone fp F b0
       | some e => ((f e.1 b0).1, e.2 ||| (f e.1 b0).2)
     exec (.vred a) s = .next (elementsTo s a.vd (if fp then 4 else 2) w [(0, r)])) ∧
    (let k := 32 / w
     let int := a.fn.getLsbD 2
     let ps := fun (j : Nat) => (List.range k).map fun i => (velem (V a.va) w (j * k + i), velem (V a.vb) w (j * k + i))
     let lane := fun (j : Nat) =>
       if int then vdotInt w (a.fn.getLsbD 0) (a.fn.getLsbD 1) (a.fn.getLsbD 3) (ps j) (velem (V a.vd) 32 j)
       else vdotFp s (vfmt a.ew (a.fn.getLsbD 0)) (vfmt a.ew (a.fn.getLsbD 1)) (ps j) (velem (V a.vd) 32 j)
     exec (.vdot a) s = .next (elementsTo s a.vd (if int then 2 else 4) 32 ((actives s a.vm 16).map fun j => (j, lane j)))) ∧
    (∀ rm, curRm s (a.vb.toNat % 8) = some rm →
      let D := (vcvtPair a.fn.toNat).1
      let S := (vcvtPair a.fn.toNat).2
      let wd := vtBits D
      let ws := vtBits S
      let part := a.vb.toNat / 8 * (512 / max wd ws)
      let place := fun (j : Nat) => if wd < ws then part + j else j
      let source := fun (j : Nat) => if ws < wd then part + j else j
      exec (.vcvt a) s = .next (elementsTo s a.vd 4 wd
        (((List.range (512 / max wd ws)).filter fun j => vactive s a.vm (place j)).map fun j =>
          (place j, vcvtElem D S rm (a.ew.getLsbD 1 || curSatn s) (a.ew.getLsbD 0) (velem (V a.va) ws (source j)))))) ∧
    (∀ v : Vec, (∀ k, k < 512 → v.getLsbD k =
        a.fn.getLsbD (((V a.va).getLsbD k).toNat * 2 + ((V a.vb).getLsbD k).toNat)) →
      exec (.vmask a) s = .next (lateTo s (.v a.vd.toNat) 2 v (BitVec.allOnes 512))) ∧
    (∀ (x : XField) (e : BitVec 6), e.toNat < n →
      (∀ t, operandsFree s [] (.x x) = true →
        (resultTo s x 2 (sext64 w (velem (V a.vd) w e.toNat)) = some t → exec (.vmovx x a.vd e a.ew 0) s = .next t) ∧
        (resultTo s x 2 (BitVec.ofNat 64 (velem (V a.vd) w e.toNat)) = some t → exec (.vmovx x a.vd e a.ew 1) s = .next t)) ∧
      (∀ s1 b, operandsFree s [x] (.v a.vd) = true → sourceWords [x] s = some ([b], s1) →
        exec (.vmovx x a.vd e a.ew 2) s = .next (elementsTo s1 a.vd 2 w [(e.toNat, b.toNat % 2 ^ w, 0)]) ∧
        exec (.vmovx x a.vd e a.ew 3) s =
          .next (elementsTo s1 a.vd 2 w ((List.range n).map fun j => (j, b.toNat % 2 ^ w, 0)))))) ∧
  (
  ∀ (a : Av) s,
    (∀ g, (getCore s s.cur.core).gang = some g → operandsFree s [] (.v a.vd) = true → a.vb.toNat < g.size →
      a.fn.toNat < 3 → g.base ≤ s.cur.core → s.cur.core < g.base + g.size →
      let m := s.cur.core - g.base
      let d := a.vb.toNat
      ∀ p, (a.fn.toNat = 0 → p = m ^^^ d) → (a.fn.toNat = 1 → (p : Int) = ((m : Int) - d) % g.size) → (a.fn.toNat = 2 → p = d) →
      let w := 8 * 2 ^ a.ew.toNat
      exec (.vxch a) s = .next (elementsTo s a.vd 2 w ((actives s a.vm (elems a.ew)).map fun j =>
        (j, velem (getV (getSlot s (g.base + p) (g.slots.getD p 0)) a.va.toNat) w j, 0)))) ∧
    (operandsFree s [] (.v a.vd) = true → (getCore s s.cur.core).gang = none → Traps (.vxch a) s ⟨1, 0, 0, 0⟩) ∧
    (∀ g, operandsFree s [] (.v a.vd) = true → (getCore s s.cur.core).gang = some g → g.size ≤ a.vb.toNat →
      Traps (.vxch a) s ⟨1, 0, 0, 0⟩))

/-- R210, R211: an MMA becomes pending at its cluster's engine with the addresses of its three records and the tensor scales
as they stand, and its task parks; a record address that is not 64-byte aligned traps. R211, R220-R222, R227: the engine's
acceptance of an MMA, the rows of a block it writes, the arrivals and the retirement after its last block, and the end of
an idle time. -/
def Obligations.MatrixEngine : Prop :=
  (
  ∀ (k : Nat) (f : Am → Instr) (m : Am) s s1 a b d, mmaForms[k]? = some f → isCompute s.cur.core = true →
    s.cur.cIsNop = true → wellFormed (f m) = true →
    operandsFree s [m.xa, m.xb, m.xd] .none = true → soundSources s [m.xa, m.xb, m.xd] = true →
    sourceWords [m.xa, m.xb, m.xd] s = some ([a, b, d], s1) →
    (a.toNat % 64 = 0 → b.toNat % 64 = 0 → d.toNat % 64 = 0 →
      a.toNat + 64 ≤ 0x7C000 → b.toNat + 64 ≤ 0x7C000 → d.toNat + 64 ≤ 0x7C000 →
      exec (f m) s = .next (mmaPendingAt s1 m k a b d)) ∧
    (a.toNat % 64 ≠ 0 → Traps (f m) s ⟨3, 0, 0, a⟩)) ∧
  (
  (∀ cl s, ((getCluster s cl).mmaRun.isSome = true ∨ (getCluster s cl).mmaIdle = true) →
    exec (.mmaAccept cl) s = .next s) ∧
  (∀ cl s, (getCluster s cl).mmaRun = none → (getCluster s cl).mmaIdle = false →
    let drawn := match (getCluster s cl).mmaChosen with
      | some q => some (q, s)
      | none => mmaDraw s cl
    (drawn = none → exec (.mmaAccept cl) s = .next s) ∧
    (∀ q s1, drawn = some (q, s1) →
      (mmaReady s1 q = false → ∃ t, exec (.mmaAccept cl) s = .next t ∧ (getCluster t cl).mmaChosen = some q ∧
        (getCluster t cl).mmaRun = none ∧ t.cores = s.cores ∧ t.mem = s.mem) ∧
      (∀ c i, mmaReady s1 q = true → mmaSlot s1 q.who = some (c, i) →
        let recd := fun (a : Nat) => leNat (spRead s1 c a 64)
        let blk := (getSlot s1 c i).mprog.toNat % 2 ^ 9
        ([q.xa, q.xb, q.xd].all fun a => !spBad s1 c a 64) = true →
        (∀ v, shapeFault s1 cl q.kind blk (recd q.xa) (recd q.xb) (recd q.xd) = some v →
          ∃ t, exec (.mmaAccept cl) s = .next t ∧ trapOf (getSlot t c i) = some (tShape (BitVec.ofNat 64 v)) ∧
            (getCluster t cl).mmaRun = none ∧ t.mem = s1.mem) ∧
        (shapeFault s1 cl q.kind blk (recd q.xa) (recd q.xb) (recd q.xd) = none →
          ∃ s2 r, (getCluster s2 cl).mmaRun = some r ∧ r.req = q ∧ r.recA = recd q.xa ∧ r.recB = recd q.xb ∧
            r.recO = recd q.xd ∧ r.blk = blk ∧ r.writing = false ∧ s2.mem = s1.mem ∧ s2.flights = s1.flights ∧
            (∀ x ∈ (getCluster s2 cl).mmaPending, x.order ≠ q.order) ∧
            exec (.mmaAccept cl) s = .next (mmaTry s2 cl) ∧ exec (.rowBlockComplete cl) s2 = .next (mmaTry s2 cl))))) ∧
  (∀ cl s, (getCluster s cl).mmaRun = none → exec (.rowBlockComplete cl) s = .next s) ∧
  (∀ cl s r c i, (getCluster s cl).mmaRun = some r → r.writing = false → (getCluster s cl).mmaIdle = false →
    slotsComing s cl r = false → r.line = none → mmaSlot s r.req.who = some (c, i) →
    let f : MxFor := ⟨cl, c, i, r.req.region⟩
    let r1 : MmaRun := { r with line := none, since := if r.pieces = [] then s.cycle else r.since }
    (∀ bs s1, mxCompute f r (s, r.pieces) = .error (.more bs s1) → ∃ t, exec (.rowBlockComplete cl) s = .next t ∧
      (getCluster t cl).mmaRun = some { r1 with pieces := r.pieces ++ [bs] } ∧ t.mem = s1.mem ∧ t.cores = s1.cores) ∧
    (∀ tr s1, mxCompute f r (s, r.pieces) = .error (.trap tr s1) →
      exec (.rowBlockComplete cl) s = .next (mmaTrap s1 cl r1 tr)) ∧
    (∀ rows p, mxCompute f r (s, r.pieces) = .ok (rows, p) →
      (∀ tr, mxRefused s c (mxBytes (oFmt r.recO) (rExt r.recB)) rows = some tr →
        exec (.rowBlockComplete cl) s = .next (mmaTrap s cl r1 tr)) ∧
      (mxRefused s c (mxBytes (oFmt r.recO) (rExt r.recB)) rows = none →
        (twinSays f r1 rows s = .agrees → ∃ t, exec (.rowBlockComplete cl) s = .next t ∧ blockWritten t cl r rows ∧
          t.mem = s.mem ∧ t.cores = s.cores) ∧
        (twinSays f r1 rows s = .differs → r.again = false → ∃ t r2, exec (.rowBlockComplete cl) s = .next t ∧
          (getCluster t cl).mmaRun = some r2 ∧ r2.again = true ∧ r2.pieces = [] ∧ r2.blk = r.blk) ∧
        (twinSays f r1 rows s = .differs → r.again = true → exec (.rowBlockComplete cl) s =
          .next (mmaTrap (countError s (dieOf r.req.who.core) 5) cl r1 ⟨15, 1, 0, 0⟩))))) ∧
  (∀ cl s r, (getCluster s cl).mmaRun = some r → r.writing = true → r.waits ≠ [] →
    exec (.rowBlockComplete cl) s = .next s) ∧
  (∀ cl s r c i, (getCluster s cl).mmaRun = some r → r.writing = true → r.waits = [] → mmaSlot s r.req.who = some (c, i) →
    (rExt r.recA + 15) / 16 ≤ r.blk + 1 → (getSlot s c i).fpen = 0 → (getSlot s c i).trapNext = none →
    (getCore s r.req.who.core).heldRel = [] →
    ∃ t, exec (.rowBlockComplete cl) s = .next t ∧ (getCluster t cl).mmaRun = none ∧ (getSlot t c i).mprog = 0 ∧
      (getSlot t c i).pc = (getSlot s c i).nextPc ∧
      (getSlot t c i).park = (if (getSlot s c i).nextSw then .switchMark else .none) ∧ t.mem = s.mem ∧
      ∀ a ∈ r.arrivals, ∃ m, inFlight t (.messageArrive m) ∧ m.pay = [a.2.1, a.2.2] ∧ hdrDcore m.hdr = a.1 % 4096 ∧
        hdrTag m.hdr = oTag r.recO % 256) ∧
  (∀ cl s, (getCluster s cl).mmaRun = none →
    exec (.dutyIdleEnd cl) s = .next (modCluster s cl fun k => { k with mmaIdle := false })) ∧
  (∀ cl s r, (getCluster s cl).mmaRun = some r → r.writing = false → exec (.dutyIdleEnd cl) s =
    exec (.rowBlockComplete cl) (modCluster s cl fun k => { k with mmaIdle := false })))

/-- R230, R231: the function word, the second operand and a request of the SFU; their misuse traps, and a full request FIFO
holds the bundle back. R233, R234: the SFU serves the FIFO its cyclic order picks; the result comes after the latency of
function and format, in request order; a pop gives it, merges its flags and puts its status word into q3, discarding the
oldest of eight. -/
def Obligations.SfuRequestsAndResults : Prop :=
  (
  ∀ s v, queueWritable s.cur.core 0 = true →
    (v.toNat < 256 → v.toNat % 16 ≠ 15 → v.toNat / 16 % 4 = 0 →
      exec (.q0Push v) s = .next (pushedTo s fun t => { t with q0 := v })) ∧
    (256 ≤ v.toNat ∨ v.toNat % 16 = 15 ∨ v.toNat / 16 % 4 ≠ 0 → Traps (.q0Push v) s ⟨10, 0, 0, 0⟩) ∧
    exec (.q2Push v) s = .next (pushedTo s fun t => { t with q2 := v }) ∧
    (let q0 := (curSlot s).q0.toNat
     (q0 % 16 = 0 → Traps (.q1Push v) s ⟨10, 1, 0, 0⟩) ∧
     (q0 % 16 ≠ 0 → 8 ≤ (curSlot s).sfuReq.length → Waits (.q1Push v) s) ∧
     (q0 % 16 ≠ 0 → (curSlot s).sfuReq.length < 8 →
       exec (.q1Push v) s = .next (pushedTo s fun t => { t with
         sfuReq := t.sfuReq ++ [⟨q0 % 16, q0 / 64 % 4, v, if q0 % 16 = 13 ∨ q0 % 16 = 14 then (curSlot s).q2 else 0,
           pushTime s⟩] })))) ∧
  (
  (∀ s cl n r rest, sfuPick s cl = some n →
    let c := sfuCoreAt cl (n / 8)
    let i := n % 8
    (getSlot s c i).sfuReq = r :: rest →
    let due := s.cycle + sfuLatency r.func r.fmt
    let res := sfuCompute r.func r.fmt r.a r.b
    ∃ t, exec (.sfuStart cl) s = .next t ∧ (getSlot t c i).sfuReq = rest ∧
      (getSlot t c i).sfuFly = (getSlot s c i).sfuFly ++ [⟨r.func, r.fmt, res.1, res.2.toNat, due⟩] ∧
      (getCluster t cl).sfuLast = some s.cycle ∧ (getCluster t cl).sfuNext = (n + 1) % 392 ∧ t.mem = s.mem ∧
      ∃ f, t.flights = s.flights ++ [f] ∧ f.timed = true ∧ f.due = due ∧ f.act = .sfuResult c i) ∧
  (∀ s c i r rest, (getSlot s c i).sfuFly = r :: rest → r.doneAt ≤ s.cycle →
    ∃ t more, exec (.sfuResult c i) s = .next t ∧ (getSlot t c i).sfuRes = (getSlot s c i).sfuRes ++ r :: more ∧
      ∃ k, more = rest.take k ∧ (getSlot t c i).sfuFly = rest.drop k) ∧
  (∀ s c i r rest, (getSlot s c i).sfuFly = r :: rest → s.cycle < r.doneAt →
    ∃ t, exec (.sfuResult c i) s = .next t ∧ (getSlot t c i).sfuRes = (getSlot s c i).sfuRes ∧
      (getSlot t c i).sfuFly = r :: rest) ∧
  (∀ s r rest, queueReadable s.cur.core 1 = true → (curSlot s).sfuRes = r :: rest →
    let st := BitVec.ofNat 64 (r.func % 16 * 256 + r.fmt % 4 * 64 + r.flags % 64)
    exec .q1Pop s = .next
      { mergeFlags 1 (BitVec.ofNat 6 r.flags) (modCur s fun t => { t with
          sfuRes := rest
          q3 := if t.q3.length < 8 then t.q3 ++ [st] else t.q3.drop 1 ++ [st] }) with
        cur := { (mergeFlags 1 (BitVec.ofNat 6 r.flags) (modCur s fun t => { t with
          sfuRes := rest
          q3 := if t.q3.length < 8 then t.q3 ++ [st] else t.q3.drop 1 ++ [st] })).cur with
            popped := s.cur.popped ++ [r.val] } }) ∧
  (∀ s, queueReadable s.cur.core 1 = true → (curSlot s).sfuRes = [] → Waits .q1Pop s) ∧
  (sfuLatency 5 0 = 24 ∧ sfuLatency 6 0 = 28 ∧ sfuLatency 1 0 = 40 ∧ sfuLatency 3 0 = 44 ∧ sfuLatency 10 0 = 56 ∧
    sfuLatency 12 0 = 60 ∧ sfuLatency 8 0 = 64 ∧ sfuLatency 13 0 = 80 ∧ sfuLatency 14 0 = 96 ∧ sfuLatency 14 1 = 52 ∧
    sfuLatency 14 2 = 32 ∧ sfuLatency 7 1 = 18 ∧ sfuLatency 9 3 = 24))

/-- R229, R301, R303, R280: pops of q3, q6, q7 and q11 give the oldest word; an empty q6 is queue misuse, the others hold the
bundle back. R298: a header with payload is staged, one without leaves; the last payload word sends the message; misuse
traps. R280 and R101: q8 gives an index of the free pool and reserves it, q9 takes a reserved one back and q10 a pair in
two pushes, which the node unit returns and pushes into the bag once they are produced, q13 gives both words of the oldest
notification. R364: a record enters the slot's trace FIFO of eight, or is discarded where the die accepts none. -/
def Obligations.QueueRegisters : Prop :=
  (
  ∀ s, (queueReadable s.cur.core 3 = true →
    (∀ v r, (curSlot s).q3 = v :: r → exec .q3Pop s = .next (poppedFrom s v fun t => { t with q3 := r })) ∧
    ((curSlot s).q3 = [] → Waits .q3Pop s) ∧
    (∀ v r, (curSlot s).q6 = v :: r →
      exec .q6Pop s = .next (poppedFrom s v fun t => { t with q6 := r, q6Popped := t.q6Popped + 1 })) ∧
    ((curSlot s).q6 = [] → Traps .q6Pop s ⟨10, 6, 0, 0⟩) ∧
    (∀ v r, (curSlot s).q7 = v :: r → exec .q7Pop s = .next (poppedFrom s v fun t => { t with q7 := r })) ∧
    ((curSlot s).q7 = [] → Waits .q7Pop s)) ∧
  (isCompute s.cur.core = true →
    (∀ v r, (curSlot s).q11 = v :: r → exec .q11Pop s = .next (poppedFrom s v fun t => { t with q11 := r })) ∧
    ((curSlot s).q11 = [] → Waits .q11Pop s)) ∧
  (isCompute s.cur.core = false → Traps .q11Pop s ⟨10, 11, 0, 0⟩ ∧ Traps .q8Pop s ⟨10, 8, 0, 0⟩)) ∧
  (
  ∀ s v, queueWritable s.cur.core 4 = true →
    ((curSlot s).stagedHdr ≠ none ∨ 0xFC ≤ hdrTag v → Traps (.q4Push v) s ⟨10, 4, 0, 0⟩) ∧
    ((curSlot s).stagedHdr = none → hdrTag v < 0xFC →
      (hdrNpay v ≠ 0 → exec (.q4Push v) s = .next (pushedTo s fun t => { t with stagedHdr := some v, stagedPay := [] })) ∧
      (hdrNpay v = 0 → canSend s v = true → oscOf (curSlot s) < 1024 →
        ∃ t, exec (.q4Push v) s = .next t ∧ MessageLeft s t v []) ∧
      (hdrNpay v = 0 → (canSend s v = false ∨ 1024 ≤ oscOf (curSlot s)) → Waits (.q4Push v) s)) ∧
    ((curSlot s).stagedHdr = none → Traps (.q5Push v) s ⟨10, 5, 0, 0⟩) ∧
    (∀ h, (curSlot s).stagedHdr = some h →
      ((curSlot s).stagedPay.length + 1 ≠ hdrNpay h →
        exec (.q5Push v) s = .next (pushedTo s fun t => { t with stagedPay := (curSlot s).stagedPay ++ [v] })) ∧
      ((curSlot s).stagedPay.length + 1 = hdrNpay h → canSend s h = true → oscOf (curSlot s) < 1024 →
        ∃ t, exec (.q5Push v) s = .next t ∧ MessageLeft s t h ((curSlot s).stagedPay ++ [v])) ∧
      ((curSlot s).stagedPay.length + 1 = hdrNpay h → (canSend s h = false ∨ 1024 ≤ oscOf (curSlot s)) → Waits (.q5Push v) s))) ∧
  (
  (∀ s i g s1, isCompute s.cur.core = true → poolHas s s.cur.core (curSlot s).region 1 = true →
    takeLines s s.cur.core (curSlot s).region = [] → poolTake s s.cur.core (curSlot s).region = some (i, g, s1) →
    exec .q8Pop s = .next (poppedFrom s1 (refWord 1 g i) fun t => { t with reserved := t.reserved ++ [refWord 1 g i] })) ∧
  (∀ s, isCompute s.cur.core = true → poolHas s s.cur.core (curSlot s).region 1 = false → Waits .q8Pop s) ∧
  (∀ s v, isCompute s.cur.core = true →
    (16 ≤ (curSlot s).q9.length → Waits (.q9Push v) s) ∧
    ((curSlot s).q9.length < 16 → (curSlot s).reserved.contains v = true → exec (.q9Push v) s =
      .next (pushedTo s fun t => { t with reserved := t.reserved.erase v, q9 := t.q9 ++ [(v, pushTime s)] })) ∧
    ((curSlot s).q9.length < 16 → (curSlot s).reserved.contains v = false → Traps (.q9Push v) s ⟨9, 3, 0, v⟩)) ∧
  (∀ s v, isCompute s.cur.core = true →
    (2 ≤ (curSlot s).q10.length → Waits (.q10Push v) s) ∧
    ((curSlot s).q10.length < 2 → wTag v ≠ 1 ∨ v.toNat / 2 ^ 56 % 32 ≠ 0 → Traps (.q10Push v) s ⟨9, 6, 0, v⟩) ∧
    ((curSlot s).q10.length < 2 → wTag v = 1 → v.toNat / 2 ^ 56 % 32 = 0 →
      exec (.q10Push v) s = .next (pushedTo s fun t => { t with q10 := t.q10 ++ [(v, pushTime s)] }))) ∧
  (∀ s c i a b now, (getSlot s c i).q10 = [a, b] → (getSlot s c i).q9 = [] →
    (now < b.2 → getSlot (drainPushes s c i now) c i = getSlot s c i ∧
      (getCore (drainPushes s c i now) c).bag = (getCore s c).bag) ∧
    (b.2 ≤ now → (getCore s c).bag.length < 768 → (getSlot (drainPushes s c i now) c i).q10 = [] ∧
      (getCore (drainPushes s c i now) c).bag = (getCore s c).bag ++ [((getSlot s c i).region, a.1, b.1)])) ∧
  (∀ s, isControl s.cur.core = true →
    (∀ w, (curSlot s).q13Half = some w → exec .q13Pop s = .next (poppedFrom s w fun t => { t with q13Half := none })) ∧
    (∀ w0 w1 s1, (curSlot s).q13Half = none → ringWords s ≠ 0 → ringTake s = some (w0, w1, s1) →
      exec .q13Pop s = .next (poppedFrom s1 w0 fun t => { t with q13Half := some w1 })) ∧
    ((curSlot s).q13Half = none → ringWords s = 0 → Waits .q13Pop s)) ∧
  (∀ s, isControl s.cur.core = false → Traps .q13Pop s ⟨10, 13, 0, 0⟩)) ∧
  (
  (∀ s v, queueWritable s.cur.core 12 = true →
    (traceOn s s.cur.core = false → exec (.q12Push v) s = .next (pushedTo s id)) ∧
    (traceOn s s.cur.core = true → 8 ≤ (curSlot s).q12.length → Waits (.q12Push v) s) ∧
    (traceOn s s.cur.core = true → (curSlot s).q12.length < 8 →
      exec (.q12Push v) s = .next (pushedTo s fun t => { t with q12 := t.q12 ++ [⟨pushTime s, 1, s.cycle, s.cur.pc, v⟩] }))) ∧
  (∀ (ra : XField) s s1 v, operandsFree s [ra] .none = true → sourceWords [ra] s = some ([v], s1) →
    (traceOn s s.cur.core = false → traceOn s1 s1.cur.core = false → exec (.trace ra) s = .next s1) ∧
    (traceOn s1 s1.cur.core = true → (curSlot s).q12.length < 8 → (curSlot s1).q12.length < 8 →
      exec (.trace ra) s = .next (modCur s1 fun t => { t with q12 := t.q12 ++ [⟨s1.cycle, 2, s1.cycle, s1.cur.pc, v⟩] })) ∧
    (traceOn s s.cur.core = true → 8 ≤ (curSlot s).q12.length → Waits (.trace ra) s)))

/-- R149, R151, R153: every scalar, indexed, floating-point and whole-vector load. -/
def Obligations.Loads : Prop :=
  (∀ m : Cm,
    let cm := fun i n sg => LoadsFrom i m.p [m.ra] (.x m.rd) n (.scalar n sg) fun vs => cmEa m.imm n (vs.headD 0)
    cm (.ldb m) 1 true ∧ cm (.ldbu m) 1 false ∧ cm (.ldh m) 2 true ∧ cm (.ldhu m) 2 false ∧ cm (.ldw m) 4 true ∧
      cm (.ldwu m) 4 false ∧ cm (.ldd m) 8 false) ∧
  (∀ m : CmF,
    LoadsFrom (.fldS m) m.p [m.ra] (.f m.fd) 4 (.float 4) (fun vs => cmEa m.imm 4 (vs.headD 0)) ∧
    LoadsFrom (.fldD m) m.p [m.ra] (.f m.fd) 8 (.float 8) (fun vs => cmEa m.imm 8 (vs.headD 0)) ∧
    LoadsFrom (.vld m) m.p [m.ra] (.v m.fd) 64 (.vector 0) (fun vs => cmEa m.imm 64 (vs.headD 0))) ∧
  (∀ (rd ra rb : XField) (sc sx : BitVec 1) (sz : BitVec 2),
    LoadsFrom (.ldx rd ra rb sc sx sz) 0 [ra, rb] (.x rd) (2 ^ sz.toNat) (.scalar (2 ^ sz.toNat) (sx == 1)) fun vs =>
      vs.headD 0 + (if sc = 1 then vs.getD 1 0 * BitVec.ofNat 64 (2 ^ sz.toNat) else vs.getD 1 0)) ∧
  (∀ d : Nat, d < 2 ^ 512 →
    formValue (.scalar 1 true) (d % 2 ^ 8) = BitVec.ofNat 512 ((BitVec.ofNat 8 d).signExtend 64).toNat ∧
    formValue (.scalar 2 true) (d % 2 ^ 16) = BitVec.ofNat 512 ((BitVec.ofNat 16 d).signExtend 64).toNat ∧
    formValue (.scalar 4 true) (d % 2 ^ 32) = BitVec.ofNat 512 ((BitVec.ofNat 32 d).signExtend 64).toNat ∧
    formValue (.scalar 4 false) (d % 2 ^ 32) = BitVec.ofNat 512 (d % 2 ^ 32) ∧
    formValue (.float 4) (d % 2 ^ 32) = BitVec.ofNat 512 (0xFFFFFFFF00000000 + d % 2 ^ 32) ∧
    formValue (.vector 0) d = BitVec.ofNat 512 d)

/-- R149, R151, R152, R153: every scalar, indexed, floating-point, whole-vector and nibble store, and the bytes it writes.
R148: SPBAD keeps the first access it records. -/
def Obligations.Stores : Prop :=
  (
  (∀ m : Cm,
    let low := fun (n : Nat) (_ : State) (vs : List Word) => natLe n (vs.headD 0).toNat
    let cm := fun i n => StoresTo i m.p [m.rd, m.ra] n (fun _ => none) (fun vs => cmEa m.imm n (vs.getD 1 0)) (low n) (low n)
    cm (.stb m) 1 ∧ cm (.sth m) 2 ∧ cm (.stw m) 4 ∧ cm (.std m) 8 ∧
    (let at_ := fun (vs : List Word) => (vs.getD 1 0).sshiftRight 1 + m.imm.signExtend 64
     let hi := fun (vs : List Word) => (vs.getD 1 0).getLsbD 0
     StoresTo (.stn m) m.p [m.rd, m.ra] 1 (fun vs => some (hi vs)) at_
       (fun s vs =>
         let old := (mget (getCore s s.cur.core).sp (at_ vs).toNat).toNat
         let v := (vs.headD 0).toNat % 16
         [BitVec.ofNat 8 (if hi vs then old % 16 + 16 * v else old / 16 * 16 + v)])
       (fun _ vs => [BitVec.ofNat 8 ((vs.headD 0).toNat % 16)]))) ∧
  (∀ m : CmF,
    let fp := fun (n : Nat) (s : State) (_ : List Word) => natLe n (getF (curSlot s) m.fd.toNat).toNat
    let vec := fun (s : State) (_ : List Word) => natLe 64 (getV (curSlot s) m.fd.toNat).toNat
    let ea := fun (n : Nat) (vs : List Word) => cmEa m.imm n (vs.headD 0)
    StoresTo (.fstS m) m.p [m.ra] 4 (fun _ => none) (ea 4) (fp 4) (fp 4) ∧
    StoresTo (.fstD m) m.p [m.ra] 8 (fun _ => none) (ea 8) (fp 8) (fp 8) ∧
    StoresTo (.vst m) m.p [m.ra] 64 (fun _ => none) (ea 64) vec vec) ∧
  (∀ (rd ra rb : XField) (sc : BitVec 1) (sz : BitVec 2),
    let low := fun (_ : State) (vs : List Word) => natLe (2 ^ sz.toNat) (vs.headD 0).toNat
    StoresTo (.stx rd ra rb sc sz) 0 [rd, ra, rb] (2 ^ sz.toNat) (fun _ => none)
      (fun vs => vs.getD 1 0 + (if sc = 1 then vs.getD 2 0 * BitVec.ofNat 64 (2 ^ sz.toNat) else vs.getD 2 0)) low low)) ∧
  (
  ∀ s wr a, ((curSlot s).spbad.getLsbD 63 = true → curSlot (recordSpbad s wr a) = curSlot s) ∧
    ((curSlot s).spbad.getLsbD 63 = false → (curSlot (recordSpbad s wr a)).spbad =
      BitVec.ofNat 64 (2 ^ 63 + (if wr then 2 ^ 62 else 0) + a % 2 ^ 32)) ∧
    SameBytes s (recordSpbad s wr a) ∧ SameRegisters s (recordSpbad s wr a) s.cur.core s.cur.slot)

/-- R154: strided and indexed vector loads and stores whose active addresses all lie in the local scratchpad, or all in
scratchpads of live cores through the cluster window, and the trap of the lowest-indexed misaligned element. -/
def Obligations.VectorElementAccesses : Prop :=
  ∀ (vd : FField) (ra rb : XField) (vi : FField) (mask ew : BitVec 2) s s1 vs,
    let w := 8 * 2 ^ ew.toNat
    let n := 2 ^ ew.toNat
    let acts := fun (s : State) => actives s mask (elems ew)
    let strided := acts s1 |>.map fun j => (j, vs.headD 0 + vs.getD 1 0 * BitVec.ofNat 64 j)
    let indexed := acts s1 |>.map fun j =>
      (j, vs.headD 0 + BitVec.ofNat 64 (velem (getV (curSlot s1) vi.toNat) w j * n))
    let aligned := fun (e : Nat × Word) => e.2.toNat % n = 0
    let localFor := fun (e : Nat × Word) => e.2.toNat + n ≤ 0x7C000 ∧ spBad s1 s1.cur.core e.2.toNat n = false ∧
      windowRefusal s1 s1.cur.core e.2.toNat n true = none
    let loaded := fun (es : List (Nat × Word)) => (.next (lateTo s1 (.v vd.toNat) 4
      (BitVec.ofNat 512 (vplace w (es.map fun e => (e.1, leNat (spRead s1 s1.cur.core e.2.toNat n)))))
      (vbits w (es.map fun e => e.1))) : Host.Outcome State Fault Refusal)
    let stored := fun (es : List (Nat × Word)) (t : State) =>
      (getCore t s1.cur.core).sp = es.foldl (fun m e =>
        msets m e.2.toNat (natLe n (velem (getV (curSlot s1) vd.toNat) w e.1))) (getCore s1 s1.cur.core).sp ∧
      (∀ c, c ≠ s1.cur.core → getCore t c = getCore s1 c) ∧ t.mem = s1.mem ∧ t.flights = s1.flights ∧
      SameRegisters s1 t s1.cur.core s1.cur.slot
    let room := fun (es : List (Nat × Word)) =>
      oscOf (curSlot s1) + countsOut s1 (es.map fun e => e.2.toNat) ≤ 1024 ∧ elementAhead s1 = false
    let place := fun (e : Nat × Word) => Loc.sp (windowCore s1.cur.core e.2.toNat) (windowAddr e.2.toNat)
    let inWindow := fun (e : Nat × Word) => 0x1000000 ≤ e.2.toNat ∧ e.2.toNat < 0x2800000 ∧
      liveCore s1 (windowCore s1.cur.core e.2.toNat) = true ∧
      spBad s1 (windowCore s1.cur.core e.2.toNat) (windowAddr e.2.toNat) n = false
    let writable := fun (e : Nat × Word) => windowAddr e.2.toNat + n ≤ 0x7C000 ∧
      (windowCore s1.cur.core e.2.toNat = s1.cur.core → windowRefusal s1 s1.cur.core (windowAddr e.2.toNat) n true = none)
    let requested := fun (es : List (Nat × Word)) =>
      let c := s1.cur.core
      let sent := es.foldl (fun s e =>
        taskSend s c (curSlot s1).gtid (locPlace (place e)) (.remoteRead ⟨curWho s1, place e, none, e.2, n, e.1⟩)) s1
      let waits := addOut sent c s1.cur.slot .load (es.map fun e => locPlace (place e)) [] (.v vd.toNat) (.vector w)
        es.length false
      (.next (modCur waits fun t => setPending { t with out := t.out.map fun o =>
        if o.id == (curSlot s1).nextItem then
          { o with value := BitVec.ofNat 512 (vplace w []), mask := vbits w (es.map fun e => e.1) }
        else o } (.v vd.toNat)) : Host.Outcome State Fault Refusal)
    let posted := fun (es : List (Nat × Word)) => (.next (es.foldl (fun s e =>
      writePosted s none (place e) none e.2 (natLe n (velem (getV (curSlot s1) vd.toNat) w e.1))) s1) :
        Host.Outcome State Fault Refusal)
    behindOwn s1 = false →
    (operandsFree s [ra, rb] (.v vd) = true → soundSources s [ra, rb] = true → sourceWords [ra, rb] s = some (vs, s1) →
      ((∀ e ∈ strided, aligned e ∧ localFor e) → exec (.vlds vd ra rb mask ew) s = loaded strided) ∧
      (∀ pre e post, strided = pre ++ e :: post → (∀ x ∈ pre, aligned x ∧ localFor x) → ¬ aligned e →
        Traps (.vlds vd ra rb mask ew) s ⟨3, 0, 0, e.2⟩) ∧
      (strided ≠ [] → (∀ e ∈ strided, aligned e ∧ inWindow e) → exec (.vlds vd ra rb mask ew) s = requested strided)) ∧
    (operandsFree s [ra] (.v vd) = true → soundSources s [ra] = true → sourceWords [ra] s = some (vs, s1) →
      ((∀ e ∈ indexed, aligned e ∧ localFor e) → exec (.vgath vd ra vi mask ew) s = loaded indexed) ∧
      (∀ pre e post, indexed = pre ++ e :: post → (∀ x ∈ pre, aligned x ∧ localFor x) → ¬ aligned e →
        Traps (.vgath vd ra vi mask ew) s ⟨3, 0, 0, e.2⟩) ∧
      (indexed ≠ [] → (∀ e ∈ indexed, aligned e ∧ inWindow e) → exec (.vgath vd ra vi mask ew) s = requested indexed)) ∧
    (operandsFree s [ra, rb] .none = true → soundSources s [ra, rb] = true → sourceWords [ra, rb] s = some (vs, s1) →
      room strided →
      ((∀ e ∈ strided, aligned e ∧ localFor e) →
        ∃ t, exec (.vsts vd ra rb mask ew) s = .next t ∧ stored strided t) ∧
      (∀ pre e post, strided = pre ++ e :: post → (∀ x ∈ pre, aligned x ∧ localFor x) → ¬ aligned e →
        Traps (.vsts vd ra rb mask ew) s ⟨3, 0, 0, e.2⟩) ∧
      ((∀ e ∈ strided, aligned e ∧ inWindow e ∧ writable e) → exec (.vsts vd ra rb mask ew) s = posted strided)) ∧
    (operandsFree s [ra] .none = true → soundSources s [ra] = true → sourceWords [ra] s = some (vs, s1) → room indexed →
      ((∀ e ∈ indexed, aligned e ∧ localFor e) →
        ∃ t, exec (.vscat vd ra vi mask ew) s = .next t ∧ stored indexed t) ∧
      (∀ pre e post, indexed = pre ++ e :: post → (∀ x ∈ pre, aligned x ∧ localFor x) → ¬ aligned e →
        Traps (.vscat vd ra vi mask ew) s ⟨3, 0, 0, e.2⟩) ∧
      ((∀ e ∈ indexed, aligned e ∧ inWindow e ∧ writable e) → exec (.vscat vd ra vi mask ew) s = posted indexed))

/-- R242, R244: how the AMO and RED forms issue. An AMO's checks are precise; a RED retires after its alignment check; a
source with 64 unacknowledged atomics to the home waits. -/
def Obligations.AtomicIssue : Prop :=
  (∀ (k : Nat) (form : XField → XField → XField → AmoOp → Instr) (aq rl : Bool) (rd ra rb : XField) (op : AmoOp) s s1 ea b,
    amoForms[k]? = some (form, aq, rl) → operandsFree s [ra, rb] (.x rd) = true →
    soundSources s (if op = .cas then [ra, rb, rd] else [ra, rb]) = true →
    sourceWords [ra, rb] s = some ([ea, b], s1) →
    let n := amoWidth op
    let a := ea.toNat
    let c := s1.cur.core
    (a % n ≠ 0 → Traps (form rd ra rb op) s ⟨3, 0, 0, ea⟩) ∧
    (a % n = 0 → (0x7C000 ≤ a ∧ a < 0x80000 ∨ classify a = .progView ∨ classify a = .hole) →
      Traps (form rd ra rb op) s ⟨4, 0, 0, ea⟩) ∧
    (a % n = 0 → 2 ^ 56 ≤ a → Traps (form rd ra rb op) s ⟨5, 0, 0, ea⟩) ∧
    (∀ tr, a % n = 0 → 2 ^ 32 ≤ a → a < 2 ^ 56 → refusedWith s1 .amo a n tr → TurnedAway (form rd ra rb op) s tr) ∧
    (∀ s2 l home phys, a % n = 0 → atomPlace s1 c (curSlot s1).region .amo ea n = .ok (s2, l) →
      homeOf s2 l ea = some (home, phys) →
      (atomsTo s1 c (keyOf l home) < 64 →
        exec (form rd ra rb op) s = .next (amoIssued s2 rd op aq rl ea b (xOf s1 rd) l home phys)) ∧
      (64 ≤ atomsTo s1 c (keyOf l home) → Waits (form rd ra rb op) s)) ∧
    (a < 0x7C000 → a % n = 0 → atomPlace s1 c (curSlot s1).region .amo ea n = .ok (s1, .sp c a) ∧
      homeOf s1 (.sp c a) ea = some (c, c))) ∧
  (∀ (k : Nat) (form : XField → XField → RedOp → Instr) (rl : Bool) (ra rb : XField) (op : RedOp) s s1 ea b,
    redForms[k]? = some (form, rl) → operandsFree s [ra, rb] .none = true → soundSources s [ra, rb] = true →
    sourceWords [ra, rb] s = some ([ea, b], s1) →
    let n := amoWidth (redAmo op)
    let c := s1.cur.core
    (1024 ≤ oscOf (curSlot s1) → Waits (form ra rb op) s) ∧
    (oscOf (curSlot s1) < 1024 → ea.toNat % n ≠ 0 → Traps (form ra rb op) s ⟨3, 0, 0, ea⟩) ∧
    (ea.toNat % n = 0 → oscOf (curSlot s1) < 1024 →
      (∀ s2 l home phys, atomPlace s1 c (curSlot s1).region .red ea n = .ok (s2, l) → l ≠ noLoc →
        homeOf s2 l ea = some (home, phys) →
        (atomsTo s1 c (keyOf l home) < 64 → exec (form ra rb op) s = .next (redIssued s2 op rl ea b l home phys)) ∧
        (64 ≤ atomsTo s1 c (keyOf l home) → Waits (form ra rb op) s)) ∧
      (∀ e, atomPlace s1 c (curSlot s1).region .red ea n = .error e →
        exec (form ra rb op) s = .next (redIssued s1 op rl ea b noLoc c c))))

/-- R243, R245: the new value of every operation. R241, R243, R246: an atomic message at the scratchpad word of a core that
answers is applied once: the word takes the new value, every other byte stays, the record takes its number and old value,
and the old value (for a RED the acknowledgement) goes back. A duplicate changes nothing; one of the number last applied
is answered from the record. -/
def Obligations.AtomicsApplyOnce : Prop :=
  (
  ∀ m b c : Word,
    atomNew .add m b c = m + b ∧ atomNew .swap m b c = b ∧ atomNew .cas m b c = (if m = c then b else m) ∧
    (∀ w, (w = m ∨ w = b) → (w.toInt ≤ m.toInt ∧ w.toInt ≤ b.toInt → atomNew .min m b c = w) ∧
      (m.toInt ≤ w.toInt ∧ b.toInt ≤ w.toInt → atomNew .max m b c = w) ∧
      (w.toNat ≤ m.toNat ∧ w.toNat ≤ b.toNat → atomNew .minu m b c = w) ∧
      (m.toNat ≤ w.toNat ∧ b.toNat ≤ w.toNat → atomNew .maxu m b c = w)) ∧
    (∀ k, (atomNew .and m b c).getLsbD k = (m.getLsbD k && b.getLsbD k) ∧
      (atomNew .or m b c).getLsbD k = (m.getLsbD k || b.getLsbD k) ∧
      (atomNew .xor m b c).getLsbD k = (m.getLsbD k != b.getLsbD k)) ∧
    atomNew .faddD m b c = BitVec.ofNat 64
      (deliver fp64 .rne false (exAdd .rne (ffDecode fp64 m.toNat) (ffDecode fp64 b.toNat)).1).1 ∧
    atomNew .faddS m b c = BitVec.ofNat 64
      (deliver fp32 .rne false (exAdd .rne (ffDecode fp32 (m.toNat % 2 ^ 32)) (ffDecode fp32 (b.toNat % 2 ^ 32))).1).1) ∧
  (
  ∀ (a : AtomPkt) s c x, a.loc = .sp c x → c ≠ 4095 → servesAtoms s c = true →
    let r := appliedRec s a
    let n := amoWidth a.op
    let m := BitVec.ofNat 64 (leNat (spRead s c x n))
    (isDuplicate r.1 a.seq = true → (a.red = true ∨ r.1 ≠ a.seq) → exec (.atomicMessage a) s = .next s) ∧
    (isDuplicate r.1 a.seq = true → a.red = false → r.1 = a.seq →
      exec (.atomicMessage a) s = .next (later s (.amoReturn a.who r.2))) ∧
    (isDuplicate r.1 a.seq = false → undoHolds s c x n = false → spBad s c x n = false →
      (getCore s c).pair = none → (getCore s c).sp.wf = true →
      ∃ t, exec (.atomicMessage a) s = .next t ∧
        spRead t c x n = natLe n (atomNew a.op m a.b a.c).toNat ∧
        (∀ j, j < x ∨ x + n ≤ j → mget (getCore t c).sp j = mget (getCore s c).sp j) ∧
        appliedRec t a = (a.seq, m) ∧ t.mem = s.mem ∧ (∀ e i, SameRegisters s t e i) ∧
        inFlight t (if a.red then .writeAck a.who else .amoReturn a.who m) ∧
        (a.red = true → (∀ e i, getSlot t e i = getSlot s e i) ∧ OneSent s t (.writeAck a.who))))

/-- R243: the old value returns into x[rd], whose pending bit clears; the AMO is no longer outstanding. From another chip, the
interface records it and answers (R247). R247: the scale-out interface passes a new operation of another chip to its home
under its own number, once; a duplicate is dropped, or answered when its value is known. -/
def Obligations.AtomicReturn : Prop :=
  (
  (∀ s w v o n, itemAt s w o → w.core < 8192 → o.dst = .x n → n ≠ 0 →
    ∃ t, exec (.amoReturn w v) s = .next t ∧ getX (getSlot t w.core w.slot) n = v ∧
      isPending (getSlot t w.core w.slot) (.x n) = false ∧ itemGone t w) ∧
  (∀ s (w : Who) v, 8192 ≤ w.core →
    let key := foreignKey w.core
    let r := tget s.soRecords key ⟨0, 0, true⟩
    ∃ t, exec (.amoReturn w v) s = .next t ∧ t.cores = s.cores ∧ t.mem = s.mem ∧
      (r.last = foreignSeq w.core → tget t.soRecords key ⟨0, 0, true⟩ = { r with val := v, done := true }) ∧
      (r.last ≠ foreignSeq w.core → t.soRecords = s.soRecords) ∧
      ∃ a, t.outbox = s.outbox ++ [.chipAtomic (key / 4096) a] ∧ a.who.core = key % 4096 ∧ a.seq = foreignSeq w.core ∧
        a.b = v ∧ a.red = false)) ∧
  (
  ∀ chip core (a : AtomPkt) s,
    let key := chip * 4096 + core
    let r := tget s.soRecords key ⟨0, 0, true⟩
    (isDuplicate r.last a.seq = true → (a.red = true ∨ r.last ≠ a.seq ∨ r.done = false) →
      exec (.scaleOutAtomic chip core a) s = .next s) ∧
    (isDuplicate r.last a.seq = true → a.red = false → r.last = a.seq → r.done = true →
      exec (.scaleOutAtomic chip core a) s =
        .next { s with outbox := s.outbox ++ [.chipAtomic chip { a with b := r.val }] }) ∧
    (∀ home phys, isDuplicate r.last a.seq = false → homeOf s a.loc a.va = some (home, phys) →
      64 ≤ soTo s (keyOf a.loc home) → exec (.scaleOutAtomic chip core a) s = .next (later s (.scaleOutAtomic chip core a))) ∧
    (∀ home phys, isDuplicate r.last a.seq = false → homeOf s a.loc a.va = some (home, phys) →
      soTo s (keyOf a.loc home) < 64 →
      ∃ t f m, exec (.scaleOutAtomic chip core a) s = .next t ∧ t.soRecords = tset s.soRecords key ⟨a.seq, 0, a.red⟩ ∧
        t.flights = s.flights ++ [f] ∧ f.act = .atomicMessage m ∧ m.source = 3144 ∧ m.home = home ∧
        m.seq = tget s.soAtoms (keyOf a.loc home) 1 ∧ m.op = a.op ∧ m.loc = a.loc ∧ m.b = a.b ∧ t.cores = s.cores ∧ t.mem = s.mem))

/-- R150, R152, R237: posted writes, nibble messages, reads, their acknowledgements and replies at a scratchpad that answers,
and at a controller whose lines the host does not hold. R107: the host gives a line back, with its data if it changed it,
and the line is no longer tracked. -/
def Obligations.MemoryTraffic : Prop :=
  (
  (∀ s (w : WritePkt) c a, w.loc = .sp c a → w.kind = .store → answering s c = true → w.who.core ≠ c → w.acc = none →
    (getCore s c).pair = none → (getCore s c).sp.wf = true →
    ∃ t, exec (.remoteWrite w) s = .next t ∧ spRead t c a w.data.length = w.data ∧
      (∀ j, j < a ∨ a + w.data.length ≤ j → mget (getCore t c).sp j = mget (getCore s c).sp j) ∧ t.mem = s.mem ∧
      ∃ f, t.flights = s.flights ++ [f] ∧ f.act = .writeAck w.who) ∧
  (∀ s (w : WritePkt) pa, w.loc = .phys pa 0 → w.kind = .store → writeWaits s w = false → w.acc = none →
    s.regions.all (fun e => decide (pa + w.data.length ≤ e.2.rcbPa ∨ e.2.rcbPa + 2 ^ 16 ≤ pa)) = true → s.mem.wf = true →
    ∃ t, exec (.remoteWrite w) s = .next t ∧ mgets t.mem pa w.data.length = w.data ∧
      (∀ j, j < pa ∨ pa + w.data.length ≤ j → mget t.mem j = mget s.mem j) ∧ t.cores = s.cores ∧
      ∃ f, t.flights = s.flights ++ [f] ∧ f.act = .writeAck w.who) ∧
  (∀ s (w : WritePkt) c a hi b, w.loc = .sp c a → w.kind = .stn hi → w.data = [b] → answering s c = true → w.who.core ≠ c →
    w.acc = none → undoHolds s c a 1 = false → (getCore s c).pair = none → (getCore s c).sp.wf = true →
    ∃ t, exec (.stnMessage w) s = .next t ∧
      (mget (getCore t c).sp a).toNat =
        (if hi then (mget (getCore s c).sp a).toNat % 16 + 16 * (b.toNat % 16)
          else (mget (getCore s c).sp a).toNat / 16 * 16 + b.toNat % 16) ∧
      (∀ j, j ≠ a → mget (getCore t c).sp j = mget (getCore s c).sp j) ∧ t.mem = s.mem ∧
      ∃ f, t.flights = s.flights ++ [f] ∧ f.act = .writeAck w.who) ∧
  (∀ s (r : ReadPkt) c a, r.loc = .sp c a → answering s c = true → r.acc = none → (getCore s c).pair = none →
    ∃ t, exec (.remoteRead r) s = .next t ∧ SameBytes s t ∧ (∀ e i, SameRegisters s t e i) ∧
      inFlight t (.loadReply ⟨r.who, r.idx, BitVec.ofNat 512 (leNat (spRead s c a r.size)), spBad s c a r.size⟩)) ∧
  (∀ s (w : Who) o, itemAt s w o → w.core < 8192 → w.item < rowItem →
    ∃ t, exec (.writeAck w) s = .next t ∧ itemGone t w ∧ (getSlot t w.core w.slot).x = (getSlot s w.core w.slot).x) ∧
  (∀ s (l : LoadPkt) o, itemAt s l.who o → l.bad = false → o.left = 1 →
    (∀ n k sg, o.dst = .x n → n ≠ 0 → o.form = .scalar k sg →
      ∃ t, exec (.loadReply l) s = .next t ∧ isPending (getSlot t l.who.core l.who.slot) (.x n) = false ∧
        getX (getSlot t l.who.core l.who.slot) n = BitVec.ofNat 64 (formValue (.scalar k sg) l.data.toNat).toNat ∧
        itemGone t l.who) ∧
    (∀ n k, o.dst = .f n → o.form = .float k →
      ∃ t, exec (.loadReply l) s = .next t ∧ isPending (getSlot t l.who.core l.who.slot) (.f n) = false ∧
        getF (getSlot t l.who.core l.who.slot) n = BitVec.ofNat 64 (formValue (.float k) l.data.toNat).toNat)) ∧
  (∀ s (l : LoadPkt) o n, itemAt s l.who o → l.bad = true → o.dst = .x n → n ≠ 0 →
    ∃ t, exec (.loadReply l) s = .next t ∧ getX (getSlot t l.who.core l.who.slot) n = 0 ∧
      (getSlot t l.who.core l.who.slot).trapNext = some ⟨11, 0, 0, 0⟩)) ∧
  (
  ∀ s die ctl line data, s.mem.wf = true → die < 8 → ctl < 8 →
    ∃ t, exec (.backInvalidateResponse die ctl line data) s = .next t ∧
      (data.length = 64 → mgets t.mem (64 * line) 64 = data ∧
        ∀ j, j < 64 * line ∨ 64 * line + 64 ≤ j → mget t.mem j = mget s.mem j) ∧
      (data.length ≠ 64 → t.mem = s.mem) ∧ t.cores = s.cores ∧
      ∀ k, k = ctl ∨ k = 8 + ctl → line ∉ tget (getDie t die).snoop k [] ∧
        (∀ x ∈ tget (getDie s die).snoop k [], x ≠ line → x ∈ tget (getDie t die).snoop k []))

/-- R259, R261, R344: FENCE parks its task until the accesses in its scope have ended and halts the region whose log is not
clear; WAITR parks until the named registers' pending bits clear. -/
def Obligations.FencesAndWaits : Prop :=
  (∀ (ra : XField) s s1 w, operandsFree s [ra] .none = true → sourceWords [ra] s = some ([w], s1) →
    (scopeBad w.toNat = true → Traps (.fence ra) s ⟨1, 0, 0, 0⟩) ∧
    (scopeBad w.toNat = false → ∃ t, exec (.fence ra) s = .next t ∧
      let waits := fenceWaits s1 (curSlot s1) w.toNat
      (curSlot t) = { curSlot s1 with park := .fence w waits } ∧ t.mem = s1.mem ∧
      (∀ n, n ∈ waits ↔ ∃ o ∈ (curSlot s1).out, o.id = n ∧
        ∃ p ∈ itemPlaces s1 (curSlot s1).gtid o, inScope w.toNat p = true) ∧
      (waits = [] → ∃ f, t.flights = s1.flights ++ [f] ∧ f.timed = true ∧ f.due = s1.cycle + 1 ∧
        f.act = .fenceComplete s1.cur.core s1.cur.slot))) ∧
  (∀ s c i, fenceDone s c i = true →
    (getRegion s (getSlot s c i).region = none → exec (.fenceComplete c i) s = .next (modSlot s c i completePark)) ∧
    (∀ r, getRegion s (getSlot s c i).region = some r → logCount s r = 0 →
      exec (.fenceComplete c i) s = .next (modSlot s c i completePark)) ∧
    (∀ r, getRegion s (getSlot s c i).region = some r → logCount s r ≠ 0 →
      ∃ t, exec (.fenceComplete c i) s = .next t ∧
        (getSlot t c i).park = .trapped ⟨16, (firstLogged s r).1, 0, (firstLogged s r).2⟩)) ∧
  (∀ s c i, fenceDone s c i = false → exec (.fenceComplete c i) s = .next s) ∧
  (∀ (file : BitVec 2) (rd ra rb : XField) s, wellFormed (.waitr file rd ra rb) = true →
    let rs := [rd, ra, rb].filterMap fun f =>
      if file = 0 then (if f = 0 then none else some (RegId.x f.toNat))
      else if f.toNat < 32 then some (if file = 1 then RegId.f f.toNat else RegId.v f.toNat) else none
    ((∃ r ∈ rs, isPending (curSlot s) r = true) → exec (.waitr file rd ra rb) s = .next (parkIn (.waitr rs) s)) ∧
    ((∀ r ∈ rs, isPending (curSlot s) r = false) → exec (.waitr file rd ra rb) s = .next s))

/-- R155, R156: CPY and CPY2 read their descriptor, set the token's pending bit and register a copy, counted in OSC; a ninth
copy waits, and a descriptor that is misaligned or outside the scratchpad traps. R157-R161: a copy that may start performs
its bytes, at most 64 in a step (log 11), and after the last completes: its word reaches the token, whose pending bit
clears, and it is no longer outstanding. Shown in full for bytes of one unit within the scratchpad of its core. -/
def Obligations.Copies : Prop :=
  (
  (∀ (two : Bool) (ra : XField) s, operandsFree s [ra] (.x 0) = true → oscOf (curSlot s) < 1024 → coreCopies s s.cur.core < 8 →
    Traps (if two then .cpy2 0 ra else .cpy 0 ra) s ⟨1, 0, 0, 0⟩) ∧
  ∀ (two : Bool) (rd ra : XField) s s1 d, operandsFree s [ra] (.x rd) = true → soundSources s [ra] = true → rd ≠ 0 →
    sourceWords [ra] s = some ([d], s1) →
    let i := if two then Instr.cpy2 rd ra else Instr.cpy rd ra
    let n := if two then 64 else 32
    let w := fun k => BitVec.ofNat 64 (leNat (spRead s1 s1.cur.core (d.toNat + 8 * k) 8))
    (1024 ≤ oscOf (curSlot s) ∨ 8 ≤ coreCopies s s.cur.core → Waits i s) ∧
    (oscOf (curSlot s) < 1024 → coreCopies s s.cur.core < 8 →
      (d.toNat % n ≠ 0 → Traps i s ⟨3, 0, 0, d⟩) ∧
      (d.toNat % n = 0 → 0x7C000 < d.toNat + n → Traps i s ⟨4, 0, 0, d⟩) ∧
      (d.toNat % n = 0 → d.toNat + n ≤ 0x7C000 → spBad s s.cur.core d.toNat n = false →
        ∃ t cp, exec i s = .next t ∧ tfind t.copies s1.nextCopy = some cp ∧ cp.dst = w 0 ∧ cp.src = w 1 ∧
          cp.len = (w 2).toNat % 2 ^ 40 ∧ cp.rows = (if two then (w 3).toNat % 2 ^ 16 else 1) ∧
          (two = true → cp.dpitch = (w 4).toInt ∧ cp.spitch = (w 5).toInt) ∧ cp.token = rd.toNat ∧ cp.started = false ∧
          isPending (curSlot t) (.x rd.toNat) = true ∧ oscOf (curSlot t) = oscOf (curSlot s1) + 1 ∧
          (∀ j, getX (curSlot t) j = getX (curSlot s1) j)))) ∧
  (
  (∀ s id c s1 n, tfind s.copies id = some c → copyReady s c = true → copyRun c s = .more s1 n →
    c.pos < n ∧ n ≤ c.pos + 64 ∧ ∃ t, exec (.copyStart id) s = .next t ∧ t.cores = s1.cores ∧ t.mem = s1.mem ∧
      tfind t.copies id = some { c with pos := n, line := none } ∧ t.flights = s1.flights) ∧
  (∀ s id c s1 w va, tfind s.copies id = some c → copyReady s c = true → copyRun c s = .ends s1 w va →
    ∃ t, exec (.copyStart id) s = .next t ∧ t.cores = s1.cores ∧ t.mem = s1.mem ∧
      tfind t.copies id = some { c with started := true, result := w, failVa := va } ∧
      ∃ f, t.flights = s1.flights ++ [f] ∧ f.act = .copyComplete id) ∧
  (∀ s (c : Copy), c.bad = false → c.phys = false → c.pos = 0 → c.rows = 1 → (getCore s c.who.core).sealed = false →
    0 < c.len → c.src.toNat % 64 + c.len ≤ 64 → c.dst.toNat % 64 + c.len ≤ 64 →
    c.src.toNat < 0x80000 → c.dst.toNat < 0x7C000 → spBad s c.who.core c.src.toNat c.len = false →
    windowRefusal s c.who.core c.dst.toNat c.len true = none → (getCore s c.who.core).pair = none →
    (getCore s c.who.core).sp.wf = true →
    ∃ s1, copyRun c s = .ends s1 (BitVec.ofNat 64 (2 ^ 63 + c.len)) 0 ∧
      spRead s1 c.who.core c.dst.toNat c.len = spRead s c.who.core c.src.toNat c.len ∧
      (∀ j, j < c.dst.toNat ∨ c.dst.toNat + c.len ≤ j →
        mget (getCore s1 c.who.core).sp j = mget (getCore s c.who.core).sp j) ∧ s1.mem = s.mem) ∧
  (∀ s id c o, tfind s.copies id = some c → c.started = true → c.token ≠ 0 → itemAt s c.who o → o.kind = .copy →
    ∃ t, exec (.copyComplete id) s = .next t ∧ tfind t.copies id = none ∧
      getX (getSlot t c.who.core c.who.slot) c.token = c.result ∧
      isPending (getSlot t c.who.core c.who.slot) (.x c.token) = false ∧ itemGone t c.who))

/-- R113, R114, R116, R117, R128, R129: what BIND, UNBIND, GFLUSH and GSTAT ask of the Capo, and what the core answers itself. -/
def Obligations.GuardRequests : Prop :=
  (∀ s rd va st, let t := refuseGuard rd va st s
    waitsForAnswer s t rd ∧ OneSent s t (.guardAnswer (curWho s) (ownPkt s 0 va) (guardWord st 0 0)) ∧ t.mem = s.mem) ∧
  (∀ s rd pa va f op, let t := askCapo rd pa va f op s
    waitsForAnswer s t rd ∧ OneSent s t (.capoOperation (curWho s) (f (ownPkt s pa va)) op) ∧ t.mem = s.mem) ∧
  (∀ st c v, st < 256 → c < 2 ^ 16 → v < 2 ^ 32 →
    (guardWord st c v).toNat = 2 ^ 63 + st * 2 ^ 48 + c * 2 ^ 32 + v) ∧
  (∀ (i : Instr) (rd ra : XField) s s1 va, i ∈ [.unbind rd ra, .rel rd ra, .relW rd ra, .gflush rd ra, .gstat rd ra] →
    operandsFree s [ra] (.x rd) = true → sourceWords [ra] s = some ([va], s1) →
    (rd = 0 → Traps i s ⟨1, 0, 0, 0⟩) ∧ (rd ≠ 0 → va.toNat % 64 ≠ 0 → Traps i s ⟨3, 0, 0, va⟩)) ∧
  (∀ (rd ra : XField) s s1 va, operandsFree s [ra] (.x rd) = true → rd ≠ 0 → sourceWords [ra] s = some ([va], s1) →
    va.toNat % 64 = 0 →
    let c := s1.cur.core
    let rid := (curSlot s1).region
    (∀ x, walkMeets s1 va x → WaitsForLine (.unbind rd ra) s x ∧ WaitsForLine (.gstat rd ra) s x) ∧
    (walkFree s1 va →
    (∀ s2, guardPlace s1 c rid va true = (s2, none) → exec (.unbind rd ra) s = .next (refuseGuard rd va 3 s2)) ∧
    (∀ s2 pa, guardPlace s1 c rid va true = (s2, some pa) →
      exec (.unbind rd ra) s = .next
        (if guardRanges s1 c rid va = [] then refuseGuard rd va 3 s2 else askCapo rd pa va id .unbind s2)) ∧
    (∀ s2 pa, guardPlace s1 c rid va false = (s2, some pa) → guardRanges s1 c rid va ≠ [] →
      exec (.gstat rd ra) s = .next (askCapo rd pa va id .gstat s2)) ∧
    (∀ s2 o, guardPlace s1 c rid va false = (s2, o) → (o = none ∨ guardRanges s1 c rid va = []) →
      ∃ t, exec (.gstat rd ra) s = .next t ∧ waitsForAnswer s2 t rd ∧
        OneSent s2 t (.guardAnswer (curWho s2) (ownPkt s1 0 va) 0))) ∧
    (∀ pinned, pinned = (getCore s1 c).holds.filter (fun h => h.state == .pinned && !h.flushing && (ra.toNat == 0 || sameGuard s1 rid va h)) →
      (pinned = [] → exec (.gflush rd ra) s = .next (refuseGuard rd va (if ra = 0 then 0 else 7) s1)) ∧
      (pinned ≠ [] → ∃ t, exec (.gflush rd ra) s = .next t ∧
        (curSlot t).park = .flush rd.toNat pinned.length (curSlot s1).nextItem 0) ∧
      (∀ h, pinned = [h] → (getCore s1 c).holds.find? (fun x => x.hix == h.hix) = some h → h.homeLeft = 0 →
        (h.home = true ∨ h.dirty = []) → gProxy s1 (gRefOf s1 h.region h.guardPa h.guardVa) = false →
        ∃ t p, exec (.gflush rd ra) s = .next t ∧ inFlight t (.capoOperation (curWho s1) p .flushed) ∧ p.guardVa = h.guardVa ∧
          ∀ x ∈ (getCore t c).holds, x.hix ≠ h.hix))) ∧
  (∀ (rd ra rb : XField) s s1 va d, operandsFree s [ra, rb] (.x rd) = true → rd ≠ 0 →
    sourceWords [ra, rb] s = some ([va, d], s1) →
    (va.toNat % 64 ≠ 0 → Traps (.bind rd ra rb) s ⟨3, 0, 0, va⟩) ∧
    (va.toNat % 64 = 0 → d.toNat % 32 ≠ 0 → Traps (.bind rd ra rb) s ⟨3, 0, 0, d⟩) ∧
    (va.toNat % 64 = 0 → d.toNat % 32 = 0 → 0x7C000 < d.toNat + 32 → Traps (.bind rd ra rb) s ⟨4, 0, 0, d⟩) ∧
    (∀ x, va.toNat % 64 = 0 → d.toNat % 32 = 0 → d.toNat + 32 ≤ 0x7C000 → walkMeets s1 va x →
      WaitsForLine (.bind rd ra rb) s x) ∧
    (va.toNat % 64 = 0 → d.toNat % 32 = 0 → d.toNat + 32 ≤ 0x7C000 → walkFree s1 va →
      let c := s1.cur.core
      let rid := (curSlot s1).region
      let w := fun k => leNat (spRead s1 c (d.toNat + 8 * k) 8)
      let base := w 0
      let nsb := w 1 % 2 ^ 16
      let sblog := w 1 / 2 ^ 16 % 16
      let hchip := w 1 / 2 ^ 32 % 256
      (2 ^ 56 ≤ base ∨ 2 ^ 40 ≤ w 1 ∨ w 1 / 2 ^ 20 % 2 ^ 12 ≠ 0 ∨ 2 ^ 56 ≤ w 2 ∨ 2 ^ 56 ≤ w 3 ∨ 8 < sblog ∨ nsb = 0 ∨
          32768 < nsb ∨ base % (256 * 2 ^ sblog) ≠ 0 →
        exec (.bind rd ra rb) s = .next (refuseGuard rd va 11 s1)) ∧
      (base < 2 ^ 56 → w 1 < 2 ^ 40 → w 1 / 2 ^ 20 % 2 ^ 12 = 0 → w 2 < 2 ^ 56 → w 3 < 2 ^ 56 → sblog ≤ 8 → 0 < nsb →
        nsb ≤ 32768 → base % (256 * 2 ^ sblog) = 0 →
        (∃ e ∈ guardRanges s1 c rid va, e.base ≤ base ∧ base + nsb * 2 ^ (sblog + 8) ≤ e.base + e.len) →
        ∀ s2 s3 pa, guardPlace s1 c rid va true = (s2, some pa) →
          (reserveGuard s2 rid = none → exec (.bind rd ra rb) s = .next (refuseGuard rd va 8 s2)) ∧
          (reserveGuard s2 rid = some s3 → hchip ≠ 0xFF → hchip ≠ s3.chipId →
            exec (.bind rd ra rb) s =
              .next (askCapo rd pa va (fun g => { g with chip := hchip }) (.bind base (w 2) (w 3) nsb sblog) s3)) ∧
          (reserveGuard s2 rid = some s3 → (hchip = 0xFF ∨ hchip = s3.chipId) →
            exec (.bind rd ra rb) s = .next
              (if bindStructBad s3 c rid (w 2) (4 * nsb) = true ∨ bindStructBad s3 c rid (w 3) 1024 = true then
                refuseGuard rd va 3 (unreserveGuard s3 rid)
              else askCapo rd pa va id (.bind base (w 2) (w 3) nsb sblog) s3)))))

/-- R118-R120: the acquire forms check in the order of R120, track the guard, write its record and ask the Capo; a failure
completes the token (a record with reserved bits by R6 with FORMAT, log 19). R127: REL and REL.W of a guard the core does
not hold are answered at once; of a held one they wait for the task's writes into it, and then the release its hold calls
for leaves, while the task waits for its answer. -/
def Obligations.AcquiresAndReleases : Prop :=
  (
  ∀ (k : Nat) (form : XField → XField → XField → Instr) (x inpl : Bool) (rd ra rb : XField) s s1 va r,
    acqForms[k]? = some (form, x, inpl) → operandsFree s [ra, rb] (.x rd) = true →
    sourceWords [ra, rb] s = some ([va, r], s1) →
    let c := s1.cur.core
    let rid := (curSlot s1).region
    let i := form rd ra rb
    (rd = 0 ∨ inpl = false ∧ isCompute s.cur.core = false → Traps i s ⟨1, 0, 0, 0⟩) ∧
    (rd ≠ 0 → (inpl = true ∨ isCompute s.cur.core = true) →
      (va.toNat % 64 ≠ 0 → Traps i s ⟨3, 0, 0, va⟩) ∧
      (va.toNat % 64 = 0 → r.toNat % 32 ≠ 0 → Traps i s ⟨3, 0, 0, r⟩) ∧
      (va.toNat % 64 = 0 → r.toNat % 32 = 0 → 0x7C000 < r.toNat + 32 → Traps i s ⟨4, 0, 0, r⟩) ∧
      (∀ y, va.toNat % 64 = 0 → r.toNat % 32 = 0 → r.toNat + 32 ≤ 0x7C000 → walkMeets s1 va y → WaitsForLine i s y) ∧
      (va.toNat % 64 = 0 → r.toNat % 32 = 0 → r.toNat + 32 ≤ 0x7C000 → walkFree s1 va →
        let s0 := modCur s1 fun t => setPending t (.x rd.toNat)
        let fails := fun (u : State) (st : Nat) => later u (.guardAnswer (curWho u)
          { ownPkt u 0 va with n := 1000 + rd.toNat } (guardWord st 0 0))
        let k := getCore s1 c
        let window := leNat (spRead s1 c r.toNat 8)
        let wlen := leNat (spRead s1 c (r.toNat + 8) 4)
        let windowOk := if inpl then window = 0 else windowBad s1 c window wlen = false
        let permitted := ∃ e ∈ guardRanges s1 c rid va, e.r = true ∧ (e.w = true ∨ x = false)
        let busy := tracksGuard s1 c rid va = true
        let full := 16 ≤ k.holds.length ∨ inpl = false ∧ 8 ≤ (k.holds.filter fun h => !h.inPlace).length
        (busy → exec i s = .next (fails s0 9)) ∧
        (¬ busy → full → exec i s = .next (fails s0 8)) ∧
        (¬ busy → ¬ full → 2 ^ 19 ≤ window → exec i s = .next (fails s0 11)) ∧
        (¬ busy → ¬ full → window < 2 ^ 19 → ∀ s2 o, guardPlace s0 c rid va false = (s2, o) →
          ((o = none ∨ ¬ permitted ∨ ¬ windowOk) → exec i s = .next (fails s2 3)) ∧
          (∀ pa, o = some pa → permitted → windowOk →
            ∃ t h a, exec i s = .next t ∧ isPending (curSlot t) (.x rd.toNat) = true ∧
              (getCore t c).holds = (getCore s2 c).holds ++ [h] ∧ h.guardVa = va ∧ h.state = .pending ∧ h.excl = x ∧
              h.inPlace = inpl ∧ h.window = window ∧ h.recAddr = r.toNat ∧ h.tokenReg = rd.toNat ∧ h.token = curWho s1 ∧
              OneSent s2 t (.acqreq a) ∧ a.guardVa = va ∧ a.guardPa = pa ∧ a.excl = x ∧ a.inPlace = inpl ∧
              a.hix = h.hix ∧ a.window = window ∧ a.wlen = wlen ∧ a.who = curWho s1 ∧ t.mem = s2.mem))))) ∧
  (
  ∀ (w : Bool) (rd ra : XField) s s1 va, operandsFree s [ra] (.x rd) = true → rd ≠ 0 →
    sourceWords [ra] s = some ([va], s1) → va.toNat % 64 = 0 →
    let i := if w then Instr.relW rd ra else .rel rd ra
    let c := s1.cur.core
    let rid := (curSlot s1).region
    (findHold s1 c rid va = none → exec i s = .next (refuseGuard rd va 7 s1)) ∧
    (∀ h, findHold s1 c rid va = some h →
      (h.state = .pending → exec i s = .next (refuseGuard rd va 9 s1)) ∧
      (h.state = .pinned → exec i s = .next (refuseGuard rd va 7 s1)) ∧
      (h.state = .held → h.releasing = true → exec i s = .next (refuseGuard rd va 7 s1)) ∧
      (h.state = .held → h.releasing = false →
        let ws := drainItems s1 c (curSlot s1) h va
        (ws ≠ [] → ∃ t, exec i s = .next t ∧ t.flights = s1.flights ∧ t.mem = s1.mem ∧
          (curSlot t).park = .releaseDrain rd.toNat (curSlot s1).nextItem ws va w) ∧
        (ws = [] → ∃ t, exec i s = .next t ∧ (curSlot t).park = .answer rd.toNat (curSlot s1).nextItem ∧
          ((∀ l, releaseKind h w ≠ .written l) →
            ∃ p h1, inFlight t (.guardRelease (curWho s1) p (releaseKind h w)) ∧ p.guardVa = h.guardVa ∧ p.guardPa = h.guardPa ∧
              findHold t c rid va = some h1 ∧ h1.releasing = true ∧
              h1.state = (match releaseKind h w with
                | .pinned _ => .pinned
                | _ => .held))))))

/-- R120-R124, R127-R131: the messages between the Capo and the cores. -/
def Obligations.GuardMessages : Prop :=
  -- an answer reaches the slot or the token it is for
  (∀ s who g w rd, g.n = 0 → awaits s who rd →
    ∃ t, exec (.guardAnswer who g w) s = .next t ∧ gotAnswer s t who rd w ∧ t.mem = s.mem ∧ t.flights = s.flights) ∧
  (∀ s who g w r, g.n = 1000 + r → holdsTask (getSlot s who.core who.slot) who.gtid = true →
    ∃ t, exec (.guardAnswer who g w) s = .next t ∧ tokenDone t who r w ∧ t.flights = s.flights) ∧
  (∀ s who (g : GuardPkt) w rd h, g.n = 1 → findHold s who.core g.region g.guardVa = some h → awaits s who rd →
    ∃ t, exec (.guardAnswer who g w) s = .next t ∧ gotAnswer s t who rd w ∧
      (bits w.toNat 55 48 = 0 → h.state ≠ .pinned → findHold t who.core g.region g.guardVa = none) ∧
      (bits w.toNat 55 48 = 0 → h.state = .pinned →
        findHold t who.core g.region g.guardVa = some { h with releasing := false }) ∧
      (bits w.toNat 55 48 ≠ 0 → findHold t who.core g.region g.guardVa =
        some { h with releasing := false, state := if h.state = .pinned then .held else h.state })) ∧
  -- an acquire at the Capo: refused, granted, or queued
  (∀ s (a : AcqPkt), a.chip = s.chipId → answering s a.who.core = true → anySnoop s = false →
    let g := gRefOf s a.region a.guardPa a.guardVa
    let c := getCapo s g.pa
    let size := gNsb s g * gSize s g
    let fits := a.inPlace = true ∨ gNsb s g ≤ 2048 ∧ size ≤ a.wlen ∧ a.window + size ≤ 0x7C000
    (gBound s g = false → exec (.acqreq a) s = .next (refuseAcq s a 2)) ∧
    (gBound s g = true → gProxy s g = false →
      (¬ fits → exec (.acqreq a) s = .next (refuseAcq s a 1)) ∧
      (fits → c.queue = [] → (gMode s g = 0 ∨ gMode s g = 1 ∧ a.excl = false) → s.mem.wf = true → g.key = 0 →
        gPoison s g = false →
        ∃ t p, exec (.acqreq a) s = .next t ∧ gMode t g = 3 ∧
          gV t g = (if a.excl then nextV (gV s g) else gV s g) ∧ (getCapo t g.pa).group.map (fun m => m.acq) = [a] ∧
          inFlight t (.grant p 0 false a) ∧ p.v = gV t g) ∧
      (fits → (gMode s g = 1 ∧ a.excl = true ∨ gMode s g = 2 ∨ gMode s g = 3 ∨ c.queue ≠ []) → c.queue.length < 4 →
        ∃ t, exec (.acqreq a) s = .next t ∧ (getCapo t g.pa).queue = c.queue ++ [a]) ∧
      (fits → c.queue.length = (if gOvfl s g = 0 then 4 else 260) → exec (.acqreq a) s = .next (refuseAcq s a 6)))) ∧
  (∀ s a st, a.chip = s.chipId → OneSent s (refuseAcq s a st) (.grant (guardPkt a 0 0) st false a)) ∧
  -- the grant at the acquirer
  (∀ s (g : GuardPkt) st poison (a : AcqPkt) h,
    (getCore s a.who.core).holds.find? (fun h => h.guardVa == g.guardVa && h.hix == a.hix && h.state == .pending) = some h →
    (st ≠ 0 → holdsTask (getSlot s h.token.core h.token.slot) h.token.gtid = true →
      ∃ t, exec (.grant g st poison a) s = .next t ∧ tokenDone t h.token h.tokenReg (guardWord st 0 0) ∧
        findHold t a.who.core h.region g.guardVa = none) ∧
    (st = 0 → gProxy s (gRefOf s h.region h.guardPa h.guardVa) = false →
      ∃ t p, exec (.grant g st poison a) s = .next t ∧ OneSent s t (.pull p h.inPlace) ∧ p.core = a.who.core ∧
        p.window = h.window ∧ p.vlast = h.vlast ∧ p.v = g.v ∧ t.mem = s.mem)) ∧
  -- PULL at the Capo: with nothing pinned elsewhere an in-place grant is done; a pinned window is asked for
  (∀ s (p : GuardPkt) inpl m, findMember (getCapo s p.guardPa) p.core p.chip = some m → m.pulled = false →
    p.chip = s.chipId → anySnoop s = false →
    let c := getCapo s p.guardPa
    (c.wasDirty = false → inpl = true →
      ∃ t q, exec (.pull p inpl) s = .next t ∧ inFlight t (.done q (if c.poisoned then 5 else 0)) ∧ q.n = 0) ∧
    (c.wasDirty = true → c.poisoned = false → c.lxChip = s.chipId →
      ∃ t f, exec (.pull p inpl) s = .next t ∧ inFlight t (.forward f (p.chip * 4096 + p.core) inpl) ∧ f.core = c.lxCore)) ∧
  -- FORWARD at the last holder, and its FWDDONE
  (∀ s (f : GuardPkt) who inpl, (∀ h, findHold s f.core f.region f.guardVa = some h → h.state ≠ .pinned) →
    forwardFrom s f = capoPlace f.guardPa →
    ∃ t q, exec (.forward f who inpl) s = .next t ∧ OneSent s t (.fwddone q 0 0) ∧ q.core = who % 4096 ∧ q.chip = who / 4096) ∧
  (∀ s (f : GuardPkt) who h, findHold s f.core f.region f.guardVa = some h → h.state = .pinned →
    (∀ inpl, ∃ t h1, exec (.forward f who inpl) s = .next t ∧ findHold t f.core f.region f.guardVa = some h1 ∧
      h1.home = true ∧ t.mem = s.mem) ∧
    (forwardFrom s f = capoPlace f.guardPa → (h.home = true ∨ h.dirty = []) → h.homeLeft = 0 →
      (getCore s f.core).holds.find? (fun x => x.hix == h.hix) = some h →
      ∃ t q, exec (.forward f who true) s = .next t ∧ inFlight t (.fwddone q 0 0) ∧ q.core = who % 4096)) ∧
  (∀ s (p : GuardPkt) lost m, findMember (getCapo s p.guardPa) p.core p.chip = some m → m.due = some [] →
    m.acq.chip = s.chipId → anySnoop s = false →
    ∃ t q st, exec (.fwddone p 0 lost) s = .next t ∧ inFlight t (.done q st) ∧ q.n = m.sent) ∧
  -- DONE at the acquirer: with every sub-block in, the hold is held and the token complete
  (∀ s (g : GuardPkt) st h, findHold s g.core g.region g.guardVa = some h → h.state = .pending →
    (h.got < g.n * (h.sbSize / 64) → ∃ t h1, exec (.done g st) s = .next t ∧
      findHold t g.core g.region g.guardVa = some h1 ∧ h1.state = .pending ∧
      h1.expect = some g.n ∧ h1.status = st ∧ t.mem = s.mem) ∧
    (g.n * (h.sbSize / 64) ≤ h.got → holdsTask (getSlot s h.token.core h.token.slot) h.token.gtid = true →
      gProxy s (gRefOf s h.region h.guardPa h.guardVa) = true →
      ∃ t h1, exec (.done g st) s = .next t ∧ findHold t g.core g.region g.guardVa = some h1 ∧ h1.state = .held ∧ h1.dirty = [] ∧
        tokenDone t h.token h.tokenReg
          (guardWord st (if h.sbSize = 0 then 0 else h.got * 64 / h.sbSize) (if st = 0 ∨ st = 5 then h.v else 0)))) ∧
  (∀ s (g : GuardPkt) h, findHold s g.core g.region g.guardVa = some h → h.state = .pinned → h.flushing = false →
    ∃ t, exec (.unpin g) s = .next t ∧ findHold t g.core g.region g.guardVa = none ∧ t.mem = s.mem ∧ t.flights = s.flights) ∧
  -- a shared release at the home Capo: one holder less, and the answer
  (∀ s who (p : GuardPkt), p.chip = s.chipId → s.mem.wf = true → p.n = 0 → who.slot ≠ 8 → anySnoop s = false →
    let g := gRefOf s p.region p.guardPa p.guardVa
    g.key = 0 → gProxy s g = false → gBound s g = true → gMode s g = 1 → 1 < gField s g 0 47 32 →
    ∃ t q, exec (.guardRelease who p .shared) s = .next t ∧ gField t g 0 47 32 = gField s g 0 47 32 - 1 ∧
      gMode t g = 1 ∧ inFlight t (.guardAnswer who q (guardWord 0 0 (gV s g))) ∧ q.n = 1) ∧
  (∀ s who (p : GuardPkt), p.chip = s.chipId → s.mem.wf = true → p.n = 0 → who.slot ≠ 8 → anySnoop s = false →
    let g := gRefOf s p.region p.guardPa p.guardVa
    g.key = 0 → gProxy s g = false → gBound s g = true → (getCapo s g.pa).queue = [] →
    ∃ t q, exec (.guardRelease who p .none) s = .next t ∧ gMode t g = 0 ∧
      inFlight t (.guardAnswer who q (guardWord 0 0 (gV s g)))) ∧
  -- the Capo's operations on an object
  (∀ s who (p : GuardPkt) base stamps ovfl nsb sblog, p.chip = s.chipId → anySnoop s = false →
    let g := gRefOf s p.region p.guardPa p.guardVa
    gBound s g = false → gReserved s g = false →
    ∃ t, exec (.capoOperation who p (.bind base stamps ovfl nsb sblog)) s = .next t ∧
      (getCapo t g.pa).region = p.region ∧ (getCapo t g.pa).queue = [] ∧
      inFlight t (.guardAnswer who { p with n := 0 } (guardWord 0 0 (nextV (gV s g))))) ∧
  (∀ s who (p : GuardPkt) base stamps ovfl nsb sblog, p.chip < 256 → p.chip ≠ 0xFF → p.chip ≠ s.chipId → s.mem.wf = true →
    nsb < 2 ^ 16 → sblog < 16 → base < 2 ^ 56 → anySnoop s = false →
    let g := gRefOf s p.region p.guardPa p.guardVa
    g.key = 0 → gBound s g = false →
    ∃ t, exec (.capoOperation who p (.bind base stamps ovfl nsb sblog)) s = .next t ∧ gBound t g = true ∧
      gProxy t g = true ∧ gBase t g = base ∧ gNsb t g = nsb ∧ gSize t g = 2 ^ (sblog + 8) ∧ gField t g 1 63 56 = p.chip ∧
      gV t g = 0 ∧ OneSent s t (.guardAnswer who { p with n := 0 } (guardWord 0 0 0))) ∧
  (∀ s who (p : GuardPkt), p.chip = s.chipId → anySnoop s = false →
    let g := gRefOf s p.region p.guardPa p.guardVa
    (gProxy s g = false → OneSent s (capoStep who p .gstat s) (.guardAnswer who { p with n := 0 } (w64 (gWord s g 0))) ∧
      exec (.capoOperation who p .gstat) s = .next (capoStep who p .gstat s)) ∧
    (gBound s g = false → ∃ t, exec (.capoOperation who p .unbind) s = .next t ∧
      OneSent s t (.guardAnswer who { p with n := 0 } (guardWord 2 0 0)) ∧ t.mem = s.mem)) ∧
  -- the bounds of 1 ms
  (∀ s who (p : GuardPkt) h, findHold s who.core p.region p.guardVa = some h → h.state = .pending → h.v = 0 → h.token = who →
    holdsTask (getSlot s who.core who.slot) who.gtid = true →
    ∃ t, exec (.guardHomeTimeout who p) s = .next t ∧ tokenDone t who h.tokenReg (guardWord 4 0 0) ∧
      findHold t who.core p.region p.guardVa = none) ∧
  (∀ s (f : GuardPkt) m, findMember (getCapo s f.guardPa) (f.n % 4096) (f.n / 4096) = some m → m.due ≠ none →
    m.acq.chip = s.chipId →
    ∃ t q, exec (.forwardTimeout f) s = .next t ∧ inFlight t (.done q 4))

/-- R138, R140-R143: the row words: their traps, and the activation, transfer, close and status they start. R136, R137,
R141-R145: the banks' events, each at its moment. -/
def Obligations.RowsAndBanks : Prop :=
  (
  (∀ (ra : XField) s s1 hv, operandsFree s [ra] .none = true → sourceWords [ra] s = some ([hv], s1) →
    let h := hv.toNat
    let cl := clusterOf s1.cur.core
    (handleOf s1 h = none → Traps (.rowact ra) s (harpTrap 3 0 0 0 h) ∧ Traps (.rowclose ra) s (harpTrap 3 0 0 0 h)) ∧
    (∀ e, handleOf s1 h = some e →
      let n := paBank e.pa
      (paCluster e.pa ≠ cl → Traps (.rowact ra) s (harpTrap 3 1 0 0 h) ∧ Traps (.rowclose ra) s (harpTrap 3 1 0 0 h)) ∧
      (paCluster e.pa = cl → rangeCheck s1 s1.cur.core (curSlot s1).region .rowact e.va 8192 = none →
        ∀ key locs s2, rowTranslate h e s1 = .ok ((key, locs), s2) →
          let b := getBank s2 cl n
          let start := match b.st with
            | .precharge => if b.refreshDue then b.until_ + 700 else b.until_
            | .refresh => b.until_
            | _ => s2.cycle
          (bankBusy (getBank s1 cl n) = true → Traps (.rowact ra) s (harpTrap 2 0 0 0 h)) ∧
          (bankBusy (getBank s1 cl n) = false → snooped s2 e.pa 8192 = [] →
            ∃ t, exec (.rowact ra) s = .next t ∧ (getBank t cl n).st = .opening ∧ (getBank t cl n).handle = h ∧
              (getBank t cl n).core = s2.cur.core ∧ (getBank t cl n).ready = start + 36 ∧ (getBank t cl n).rowPa = e.pa ∧
              (getBank t cl n).key = key ∧ (getBank t cl n).locs = locs ∧ (getBank t cl n).va = e.va ∧
              (getBank t cl n).row = none ∧ OneTimed s2 t (start + 36) (.bankReady cl n) ∧
              t.mem = s2.mem)) ∧
      (paCluster e.pa = cl →
        let b := getBank s1 cl n
        (bankBusy b = true → (b.handle ≠ h ∨ b.core ≠ s1.cur.core) → Traps (.rowclose ra) s (harpTrap 2 0 0 0 h)) ∧
        (b.st = .open_ → b.handle = h → b.core = s1.cur.core → b.readEnd ≤ s1.cycle →
          ∃ t, exec (.rowclose ra) s = .next t ∧ bankClosed s1 t cl n b.lost) ∧
        (b.st = .open_ → b.handle = h → b.core = s1.cur.core → s1.cycle < b.readEnd →
          ∃ t, exec (.rowclose ra) s = .next t ∧ (getBank t cl n).closeAsked = some false ∧ (getBank t cl n).st = .open_ ∧
            OneTimed s1 t b.readEnd (.deferredClose cl n)) ∧
        (bankBusy b = false → ∀ cyc, b.lost = some (h, s1.cur.core, cyc) →
          ∃ t, exec (.rowclose ra) s = .next t ∧ getBank t cl n = { b with lost := none } ∧ t.flights = s1.flights)))) ∧
  (∀ (ra rb : XField) s s1 hv sv, operandsFree s [ra, rb] .none = true → sourceWords [ra, rb] s = some ([hv, sv], s1) →
    let h := hv.toNat
    let slot := sv.toNat
    let cl := clusterOf s1.cur.core
    (handleOf s1 h = none → Traps (.rowuse ra rb) s (harpTrap 3 0 0 slot h)) ∧
    (∀ e, handleOf s1 h = some e →
      let n := paBank e.pa
      let ch := bankChannel n
      let b := getBank s1 cl n
      (paCluster e.pa ≠ cl → Traps (.rowuse ra rb) s (harpTrap 3 1 0 slot h)) ∧
      (paCluster e.pa = cl →
        (s1.cycle < tget (getCluster s1 cl).chanUsed ch 0 → Waits (.rowuse ra rb) s) ∧
        ((63 < slot ∨ slot / 4 ≠ ch) → tget (getCluster s1 cl).chanUsed ch 0 ≤ s1.cycle →
          Traps (.rowuse ra rb) s (harpTrap 3 5 0 slot h)) ∧
        (slot ≤ 63 → slot / 4 = ch → tget (getCluster s1 cl).chanUsed ch 0 ≤ s1.cycle →
          (∀ cyc, b.lost = some (h, s1.cur.core, cyc) → Traps (.rowuse ra rb) s (harpTrap 1 0 0 slot h)) ∧
          ((∀ cyc, b.lost ≠ some (h, s1.cur.core, cyc)) →
            (bankBusy b = true → (b.handle ≠ h ∨ b.core ≠ s1.cur.core) → Traps (.rowuse ra rb) s (harpTrap 2 0 0 slot h)) ∧
            (b.st ≠ .open_ → (bankBusy b = true → b.handle = h ∧ b.core = s1.cur.core) →
              Traps (.rowuse ra rb) s (harpTrap 0 0 0 slot h)) ∧
            (b.st = .open_ → b.handle = h → b.core = s1.cur.core →
              (slotRead s1 cl slot = true → Traps (.rowuse ra rb) s (harpTrap 4 0 0 slot h)) ∧
              (slotRead s1 cl slot = false →
                ∃ t tag, exec (.rowuse ra rb) s = .next t ∧ (getRowSlot t cl slot).valid = false ∧
                  (getRowSlot t cl slot).coming = (getRowSlot s1 cl slot).coming ++ [(s1.nextFlight, b.row.getD 0, b.errs)] ∧
                  (getBank t cl n).readEnd = s1.cycle + 4 ∧ tget (getCluster t cl).chanUsed ch 0 = s1.cycle + 16 ∧
                  OneTimed s1 t (s1.cycle + 20) (.rowTransfer cl slot tag) ∧ tag / 64 = s1.nextFlight ∧
                  tag % 64 = n % 64 ∧ t.mem = s1.mem))))))) ∧
  (∀ (rd ra : XField) s s1 hv, operandsFree s [ra] (.x rd) = true → sourceWords [ra] s = some ([hv], s1) →
    let cl := clusterOf s1.cur.core
    (handleOf s1 hv.toNat = none → Traps (.rowstat rd ra) s (harpTrap 3 0 0 0 hv.toNat)) ∧
    (∀ e, handleOf s1 hv.toNat = some e → rd ≠ 0 →
      let n := paBank e.pa
      let b := getBank s1 cl n
      (∃ t w who, exec (.rowstat rd ra) s = .next t ∧ isPending (curSlot t) (.x rd.toNat) = true ∧
        OneSent s1 t (.rowstatStatus who w) ∧ who.item = rd.toNat ∧ who.core = s1.cur.core ∧ who.gtid = (curSlot s1).gtid ∧
        (paCluster e.pa ≠ cl → w = 0xC000000000000000#64) ∧
        (paCluster e.pa = cl → b.lost = none → b.st = .idle → w = BitVec.ofNat 64 (bankChannel n * 2 ^ 32)) ∧
        (paCluster e.pa = cl → b.lost = none → b.st = .open_ → b.handle = hv.toNat → b.core = s1.cur.core →
          w = BitVec.ofNat 64 (3 * 2 ^ 61 + 2 ^ 60 + bankChannel n * 2 ^ 32 + b.ready % 2 ^ 32)) ∧
        ∀ cyc, paCluster e.pa = cl → b.lost = some (hv.toNat, s1.cur.core, cyc) →
          w = BitVec.ofNat 64 (4 * 2 ^ 61 + bankChannel n * 2 ^ 32 + cyc % 2 ^ 32))) ∧
    (∀ e, handleOf s1 hv.toNat = some e → rd = 0 → exec (.rowstat rd ra) s = .next s1))) ∧
  (
  ∀ s cl n, let b := getBank s cl n
    (b.st = .opening → b.ready = s.cycle →
      ∃ t, exec (.bankReady cl n) s = .next t ∧ (getBank t cl n).st = .open_ ∧
        (getBank t cl n).row = some (rowOf (rowBytes s b)) ∧ (getBank t cl n).errs = rowErrors s b.rowPa ∧
        OneTimed s t (s.cycle + 7000) (.autoClose cl n) ∧ t.mem = s.mem) ∧
    (b.st = .precharge → b.until_ = s.cycle → b.refreshDue = false →
      ∃ t, exec (.prechargeEnd cl n) s = .next t ∧ (getBank t cl n).st = .idle ∧ t.flights = s.flights) ∧
    ((b.st = .precharge ∧ b.until_ = s.cycle ∧ b.refreshDue = true → ∃ t, exec (.prechargeEnd cl n) s = .next t ∧
        (getBank t cl n).st = .refresh ∧ (getBank t cl n).until_ = s.cycle + 700 ∧
        OneTimed s t (s.cycle + 700) (.refreshEnd cl n)) ∧
      (b.st = .idle → ∃ t, exec (.refreshWindow cl n) s = .next t ∧ (getBank t cl n).st = .refresh ∧
        (getBank t cl n).until_ = s.cycle + 700 ∧ OneTimed s t (s.cycle + 700) (.refreshEnd cl n))) ∧
    (b.st ≠ .idle → b.st ≠ .refresh → ∃ t, exec (.refreshWindow cl n) s = .next t ∧
      getBank t cl n = { b with refreshDue := true } ∧ t.flights = s.flights) ∧
    (b.st = .refresh → b.until_ = s.cycle → ∃ t, exec (.refreshEnd cl n) s = .next t ∧ (getBank t cl n).st = .idle) ∧
    (b.st = .open_ → b.ready + 7000 = s.cycle → ∃ t, exec (.autoClose cl n) s = .next t ∧
      bankClosed s t cl n (some (b.handle, b.core, s.cycle))) ∧
    (∀ keep, b.closeAsked = some keep → b.st = .open_ → b.readEnd ≤ s.cycle →
      ∃ t, exec (.deferredClose cl n) s = .next t ∧
        bankClosed s t cl n (if keep then some (b.handle, b.core, s.cycle) else b.lost)) ∧
    (b.closeAsked.isSome = true → b.st = .opening → b.ready = s.cycle → b.readEnd ≤ s.cycle →
      ∃ t, exec (.deferredClose cl n) s = .next t ∧ (getBank t cl n).st = .precharge) ∧
    (∀ slot tag e, (getRowSlot s cl slot).coming.find? (fun e => e.1 == tag / 64) = some e →
      (getCluster s cl).mmaRun = none →
      ∃ t, exec (.rowTransfer cl slot tag) s = .next t ∧ (getRowSlot t cl slot).row = e.2.1 ∧ (getRowSlot t cl slot).poison = e.2.2 ∧
        (getRowSlot t cl slot).coming = (getRowSlot s cl slot).coming.filter (fun x => x.1 != e.1) ∧
        ((∀ x ∈ (getRowSlot s cl slot).coming, x.1 = e.1) → (getRowSlot t cl slot).valid = true)) ∧
    (∀ slot tag e, (getRowSlot s cl slot).coming.find? (fun e => e.1 == tag / 64) = some e → e.2.2 ≠ [] →
      (getBank s cl (tag % 64)).st = .open_ → (getCluster s cl).mmaRun = none →
      ∃ t, exec (.rowTransfer cl slot tag) s = .next t ∧ (getRowSlot t cl slot).poison = e.2.2 ∧
        (getBank t cl (tag % 64)).st = .precharge ∧
        (getBank t cl (tag % 64)).lost =
          some ((getBank s cl (tag % 64)).handle, (getBank s cl (tag % 64)).core, s.cycle)) ∧
    (∀ (who : Who) w, holdsTask (getSlot s who.core who.slot) who.gtid = true →
      ∃ t, exec (.rowstatStatus who w) s = .next t ∧ tokenDone t who who.item w ∧ t.flights = s.flights))

/-- R324, R325, R327-R329: the barrier words trap on their address, park their slot and send their operation, an arrival
behind the writes it waits for. -/
def Obligations.BarrierWords : Prop :=
  (∀ (c : Nat) (a : Word),
    (a.toNat % 16 ≠ 0 → barPlace c a = .error ⟨3, 0, 0, a⟩) ∧
    (a.toNat % 16 = 0 → (a.toNat < 0x7C000 → barPlace c a = .ok (c, a.toNat)) ∧
      (0x7C000 ≤ a.toNat → a.toNat < 0x80000 → barPlace c a = .error ⟨4, 0, 0, a⟩) ∧
      (0x1000000 ≤ a.toNat → a.toNat < 0x2800000 → windowAddr a.toNat < 0x7C000 →
        barPlace c a = .ok (windowCore c a.toNat, windowAddr a.toNat)) ∧
      (classify a.toNat ≠ .localSp → classify a.toNat ≠ .window → barPlace c a = .error ⟨4, 0, 0, a⟩))) ∧
  (∀ (rd ra rb : XField) s s1 a v, operandsFree s [ra, rb] (.x rd) = true → soundSources s [ra] = true →
    sourceWords [ra, rb] s = some ([a, v], s1) →
    let c := s1.cur.core
    (∀ tr, barPlace c a = .error tr → Traps (.barinit rd ra rb) s tr ∧ Traps (.bararr rd ra rb) s tr ∧
      Traps (.barwait rd ra rb) s tr ∧ Traps (.bararw rd ra rb) s tr) ∧
    (∀ owner addr, barPlace c a = .ok (owner, addr) → (getCore s1 c).heldRel = [] →
      let op := fun (o : BarOp) => Event.barrierOperation ⟨curWho s1, owner, addr, o⟩
      let ws := arrivalWaits s1
      let held := fun (t : State) (o : BarOp) => ∃ n, (getCore t c).heldRel =
        [⟨n, taskSrc c (curSlot s1).gtid, .core owner, (curSlot s1).gtid, ws, op o⟩]
      let b := boundEnds s1 (v.toNat / 2 ^ 32)
      let waitingIn := fun (t : State) (w : Option Nat) (arw : Bool) =>
        (curSlot t).park = .barrier rd.toNat (curSlot s1).nextItem owner addr w none b arw ∧ t.mem = s1.mem ∧
          ∀ x, b = some x → ∃ f ∈ t.flights, f.act = .barrierBoundExpiry (curWho s1) ∧ f.timed = true ∧ f.due = x + 1
      (∃ t, exec (.barinit rd ra rb) s = .next t ∧ waitsForAnswer s1 t rd ∧ OneSent s1 t (op (.init v)) ∧ t.mem = s1.mem) ∧
      (∃ t, exec (.bararr rd ra rb) s = .next t ∧ waitsForAnswer s1 t rd ∧ t.mem = s1.mem ∧
        (ws = [] → OneSent s1 t (op (.arrive v))) ∧ (ws ≠ [] → t.flights = s1.flights ∧ held t (.arrive v))) ∧
      (∃ t, exec (.barwait rd ra rb) s = .next t ∧ waitingIn t (some (v.toNat % 16)) false ∧ inFlight t (op (.wait v))) ∧
      ((curSlot s1).barPhase = none → ∃ t, exec (.bararw rd ra rb) s = .next t ∧ waitingIn t none true ∧
        (ws = [] → inFlight t (op (.arriveWait v))) ∧
        (ws ≠ [] → held t (.arriveWait v))) ∧
      (∀ p, (curSlot s1).barPhase = some p → ∃ t, exec (.bararw rd ra rb) s = .next t ∧ waitingIn t (some p) true ∧
        inFlight t (op (.wait (BitVec.ofNat 64 (v.toNat / 2 ^ 32 * 2 ^ 32 + p)))))))

/-- R322, R325-R327, 10 R228: what the owner does with each operation, and what its words do at the waiting core. -/
def Obligations.BarrierMessages : Prop :=
  (∀ st ph arr last, (barWord st ph arr last).toNat = barResult st ph arr last) ∧
  (∀ s who owner addr op, answering s owner = false →
    ∃ t, exec (.barrierOperation ⟨who, owner, addr, op⟩) s = .next t ∧
      inFlight t (.barrierAnswer who (BitVec.ofNat 64 (barResult 7 0 0 false)))) ∧
  (∀ s who owner addr, answering s owner = true → undoHolds s owner addr 16 = false → (getCore s owner).sp.wf = true →
    let o := barObj s owner addr
    let run := fun op => exec (.barrierOperation ⟨who, owner, addr, op⟩) s
    let answers := fun (t : State) (st ph arr : Nat) (last : Bool) =>
      OneSent s t (.barrierAnswer who (BitVec.ofNat 64 (barResult st ph arr last)))
    (∀ iw : Word, iw.toNat < 2 ^ 24 → o.hi = 0 → o.lo / 2 ^ 48 = 0 → o.lo / 2 ^ 38 % 4 = 0 → iw.toNat % 2 ^ 16 ≠ 0 →
      (∀ n b, barName s owner n = some b → b.waiters = []) →
      ∃ t, run (.init iw) = .next t ∧ barrierReads t owner addr (iw.toNat % 2 ^ 16) 0 0 (iw.toNat / 2 ^ 16) ∧
        (barObj t owner addr).hi = 0 ∧ barName t owner (iw.toNat / 2 ^ 16) = some ⟨addr, []⟩ ∧ answers t 0 0 0 false) ∧
    (∀ iw : Word, (2 ^ 24 ≤ iw.toNat ∨ o.hi ≠ 0) → ∃ t, run (.init iw) = .next t ∧ answers t 6 0 0 false ∧ t.cores = s.cores) ∧
    (bExp o = 0 → (∀ rb, ∃ t, run (.arrive rb) = .next t ∧ answers t 3 0 0 false ∧ t.cores = s.cores) ∧
      (∀ rb : Word, rb.toNat / 2 ^ 4 % 2 ^ 28 = 0 →
        ∃ t, run (.wait rb) = .next t ∧ answers t 3 0 0 false ∧ t.cores = s.cores)) ∧
    (∀ rb : Word, bExp o ≠ 0 → (rb = 0 ∨ 2 ^ 16 ≤ rb.toNat) →
      ∃ t, run (.arrive rb) = .next t ∧ answers t 4 0 0 false ∧ t.cores = s.cores) ∧
    (∀ rb : Word, bExp o ≠ 0 → 0 < rb.toNat → rb.toNat < 2 ^ 16 →
      (bExp o < bArr o + rb.toNat → ∃ t, run (.arrive rb) = .next t ∧ answers t 1 (bPhase o) (bArr o) false ∧
        barrierReads t owner addr (bExp o) (bArr o) (bPhase o) (bName o) ∧ (barObj t owner addr).lo / 2 ^ 36 % 2 = 1) ∧
      (bArr o + rb.toNat < bExp o → ∃ t, run (.arrive rb) = .next t ∧ answers t 0 (bPhase o) (bArr o + rb.toNat) false ∧
        barrierReads t owner addr (bExp o) (bArr o + rb.toNat) (bPhase o) (bName o)) ∧
      (bArr o + rb.toNat = bExp o → ∃ t, run (.arrive rb) = .next t ∧
        barrierReads t owner addr (bExp o) 0 ((bPhase o + 1) % 16) (bName o) ∧
        inFlight t (.barrierAnswer who (BitVec.ofNat 64 (barResult 0 (bPhase o) 0 true))) ∧
        ∀ b, barName s owner (bName o) = some b → ∀ x ∈ b.waiters, barPassed ((bPhase o + 1) % 16) x.w = true →
          inFlight t (.barrierRelease x.who (BitVec.ofNat 64 (barResult 0 (bPhase o + 1) 0 false))))) ∧
    (∀ rb : Word, bExp o ≠ 0 → rb.toNat / 2 ^ 4 % 2 ^ 28 = 0 →
      (barPassed (bPhase o) (rb.toNat % 16) = true →
        ∃ t, run (.wait rb) = .next t ∧ answers t 0 (bPhase o) (bArr o) false ∧ t.cores = s.cores) ∧
      (barPassed (bPhase o) (rb.toNat % 16) = false → rb.toNat < 2 ^ 32 →
        ∃ t, run (.wait rb) = .next t ∧ answers t 2 (bPhase o) (bArr o) false ∧ t.cores = s.cores) ∧
      (barPassed (bPhase o) (rb.toNat % 16) = false → 2 ^ 32 ≤ rb.toNat →
        ∃ t b, run (.wait rb) = .next t ∧ barName t owner (bName o) = some b ∧ ⟨who, rb.toNat % 16⟩ ∈ b.waiters ∧
          OneSent s t (.barrierAnswer who (parkedWord (bPhase o) (bArr o))))) ∧
    (∀ rb : Word, bExp o ≠ 0 → 0 < rb.toNat % 2 ^ 16 → rb.toNat / 2 ^ 16 % 2 ^ 16 = 0 →
      bArr o + rb.toNat % 2 ^ 16 = bExp o → ∃ t, run (.arriveWait rb) = .next t ∧
        barrierReads t owner addr (bExp o) 0 ((bPhase o + 1) % 16) (bName o) ∧
        inFlight t (.barrierRelease who (BitVec.ofNat 64 (barResult 0 (bPhase o + 1) 0 true))))) ∧
  (∀ s who w rd, awaits s who rd → ∃ t, exec (.barrierAnswer who w) s = .next t ∧ gotAnswer s t who rd w) ∧
  (∀ s (who : Who) w rd owner addr ph seen bound arw, let k := getSlot s who.core who.slot
    holdsTask k who.gtid = true → k.park = .barrier rd who.item owner addr ph seen bound arw →
    (w.toNat < 2 ^ 32 →
      (∃ t, exec (.barrierAnswer who w) s = .next t ∧ goesOnWith s t who.core who.slot rd w) ∧
      ((∀ b, bound = some b → b < s.cycle → seen ≠ none → exec (.barrierRelease who w) s = .next s)) ∧
      ((seen = none ∨ ∀ b, bound = some b → s.cycle ≤ b) → staggerOf s who.core k.region = 0 →
        ∃ t, exec (.barrierRelease who w) s = .next t ∧ goesOnWith s t who.core who.slot rd w) ∧
      ((seen = none ∨ ∀ b, bound = some b → s.cycle ≤ b) → staggerOf s who.core k.region ≠ 0 →
        ∃ t, exec (.barrierRelease who w) s = .next t ∧ awaits t who rd ∧
          OneTimed s t (s.cycle + staggerOf s who.core k.region) (.staggerExpiry who w))) ∧
    (∀ p a, p < 16 → a < 2 ^ 16 → w = parkedWord p a → (∀ b, bound = some b → s.cycle ≤ b) →
      ∃ t, exec (.barrierAnswer who w) s = .next t ∧ t.flights = s.flights ∧
        (getSlot t who.core who.slot).park = .barrier rd who.item owner addr (some (ph.getD p)) (some (a, p)) bound arw) ∧
    (∀ a p, seen = some (a, p) → (getCore s who.core).heldRel = [] → ∃ t, exec (.barrierBoundExpiry who) s = .next t ∧
      goesOnWith s t who.core who.slot rd (BitVec.ofNat 64 (barResult 2 p a false)) ∧
      OneSent s t (.barrierCancel who owner addr))) ∧
  (∀ s who w rd, awaits s who rd → ∃ t, exec (.staggerExpiry who w) s = .next t ∧ gotAnswer s t who rd w) ∧
  (∀ s (core rid : Nat) r, isCompute core = true → getRegion s rid = some r →
    staggerOf s core rid = r.stagger * (core % 48 % 16)) ∧
  (∀ s who owner addr, answering s owner = true →
    (waiterName s owner who = none → exec (.barrierCancel who owner addr) s = .next s) ∧
    (∀ n b, waiterName s owner who = some (n, b) → ∃ t b1, exec (.barrierCancel who owner addr) s = .next t ∧
      barName t owner n = some b1 ∧ b1.waiters = b.waiters.filter (fun x => x.who != who)))

/-- R331-R333: LOOPINIT's status and effect on its counter, GETCHUNK's request, and the chunk it is given. -/
def Obligations.LoopUnit : Prop :=
  (∀ (rd ra rb : XField) s s1 a b, operandsFree s [ra, rb] (.x rd) = true → sourceWords [ra, rb] s = some ([a, b], s1) →
    let cl := clusterOf s1.cur.core
    let rid := (curSlot s1).region
    let n := b.toNat % 16
    let p := b.toNat / 2 ^ 16 % 2 ^ 12
    let mn := b.toNat / 2 ^ 40
    let bad := 2 ^ 40 ≤ a.toNat ∨ b.toNat / 2 ^ 28 % 2 ^ 12 ≠ 0 ∨ b.toNat / 2 ^ 4 % 2 ^ 12 ≠ 0 ∨ p = 0 ∨ mn = 0
    let s2 := serveEarlier s1
    let busy := ∃ k, loopCtr s2 cl n = some k ∧ k.next ≠ k.n ∧ k.region ≠ rid
    let answers := fun (t : State) (st : Nat) => waitsForAnswer s1 t rd ∧
      OneSent s1 t (.barrierAnswer (curWho s1) (BitVec.ofNat 64 st)) ∧ t.mem = s1.mem
    ((∀ f ∈ s1.flights, chunkWho cl f = none) → s2 = s1) ∧
    (bad → ∃ t, exec (.loopinit rd ra rb) s = .next t ∧ answers t 2 ∧ t.clusters = s2.clusters) ∧
    (¬ bad → busy → ∃ t, exec (.loopinit rd ra rb) s = .next t ∧ answers t 1 ∧ t.clusters = s2.clusters) ∧
    (¬ bad → ¬ busy → ∃ t, exec (.loopinit rd ra rb) s = .next t ∧ answers t 0 ∧
      (a ≠ 0 → loopCtr t cl n = some ⟨0, a.toNat, p, mn, rid⟩) ∧ (a = 0 → loopCtr t cl n = none) ∧
      ∀ m, m ≠ n → loopCtr t cl m = loopCtr s2 cl m)) ∧
  (∀ (rd ra : XField) s s1 a, operandsFree s [ra] (.x rd) = true → sourceWords [ra] s = some ([a], s1) →
    (∀ f ∈ s1.flights, chunkWho (clusterOf s1.cur.core) f = none) →
    ∃ t, exec (.getchunk rd ra) s = .next t ∧ (rd ≠ 0 → isPending (curSlot t) (.x rd.toNat) = true) ∧ t.mem = s1.mem ∧
      OneTimed s1 t (s1.cycle + 6) (.getchunkResult (curWho s1) a.toNat)) ∧
  (∀ s (who : Who) counter o r, itemAt s who o → o.dst = .x r → r ≠ 0 →
    let cl := clusterOf who.core
    let n := counter % 16
    (∀ x ∈ (getCluster s cl).chunks, x.1 ≠ who) →
    (∀ k, loopCtr s cl n = some k → k.region = gtidRegion who.gtid →
      let rem := k.n - k.next
      let cnt := min rem (min (max k.min ((rem + k.p - 1) / k.p)) (2 ^ 24 - 1))
      0 < k.p → k.next < 2 ^ 40 →
      ∃ t, exec (.getchunkResult who counter) s = .next t ∧ loopCtr t cl n = some { k with next := k.next + cnt } ∧
        getX (getSlot t who.core who.slot) r = BitVec.ofNat 64 (cnt * 2 ^ 40 + k.next) ∧
        isPending (getSlot t who.core who.slot) (.x r) = false ∧ itemGone t who) ∧
    ((∀ k, loopCtr s cl n = some k → k.region ≠ gtidRegion who.gtid) →
      ∃ t, exec (.getchunkResult who counter) s = .next t ∧ t.clusters = s.clusters ∧
        getX (getSlot t who.core who.slot) r = 0xFFFFFFFFFF#64))

/-- R294-R296, R316, R317: SPAWN, JOIN, TAIL and YIELD. -/
def Obligations.TaskWords : Prop :=
  (∀ (rd ra rb : XField) s s1 w v, operandsFree s [ra, rb] (.x rd) = true → sourceWords [ra, rb] s = some ([w, v], s1) →
    let c := s1.cur.core
    let rid := (curSlot s1).region
    let aff := w.toNat / 2 ^ 24 % 16
    let bad := 2 ^ 28 ≤ w.toNat ∨ w.toNat / 2 ^ 22 % 4 ≠ 0 ∨ w.toNat / 2 ^ 19 % 2 = 1 ∨ (8 ≤ aff ∧ aff ≠ 15)
    (1024 ≤ oscOf (curSlot s) → Waits (.spawn rd ra rb) s) ∧
    (oscOf (curSlot s) < 1024 → bad → Traps (.spawn rd ra rb) s ⟨1, 0, 0, 0⟩) ∧
    (oscOf (curSlot s) < 1024 → ¬ bad →
      let g := BitVec.ofNat 64 (rid % 2 ^ 16 * 2 ^ 48 + c % 4096 * 2 ^ 36 + (getCore s1 c).serial % 2 ^ 36)
      let d := spawnDie s1 c rid aff
      ∃ t who, exec (.spawn rd ra rb) s = .next t ∧ (getCore t c).serial = (getCore s1 c).serial + 1 ∧
        oscOf (curSlot t) = oscOf (curSlot s1) + 1 ∧
        (curSlot t).late = (curSlot s1).late ++
          [⟨s1.cycle + 1, .x rd.toNat, BitVec.ofNat 512 g.toNat, BitVec.allOnes 512, none⟩] ∧
        OneSent s1 t (.spawnPlace d.1 (some who)
          ⟨rid, .spawn g v (w.toNat % 2 ^ 19) (w.toNat / 2 ^ 20 % 4) d.2 s.cycle false⟩) ∧
        who.core = c ∧ who.gtid = (curSlot s1).gtid)) ∧
  (∀ s rid (c aff : Nat) r, getRegion s rid = some r →
    (aff < 8 → bit r.dies aff = true → dieLive s aff = true → spawnDie s c rid aff = (aff, aff)) ∧
    ((8 ≤ aff ∨ bit r.dies aff = false ∨ dieLive s aff = false) → spawnDie s c rid aff = (dieOf c, 15))) ∧
  (∀ (rd ra : XField) s s1 a, operandsFree s [ra] (.x rd) = true → soundSources s [ra] = true →
    sourceWords [ra] s = some ([a], s1) →
    ((getCore s s.cur.core).gang ≠ none → Traps (.join rd ra) s ⟨1, 0, 0, 0⟩) ∧
    ((getCore s s.cur.core).gang = none →
      (a.toNat % 256 ≠ 0 → Traps (.join rd ra) s ⟨3, 0, 0, a⟩) ∧
      (a.toNat % 256 = 0 →
        (∀ tr, refusedWith s1 .load a.toNat 256 tr → TurnedAway (.join rd ra) s tr) ∧
        (∀ s2 l acc, reaches s1 .load a.toNat 256 s2 l acc →
          let rid := (curSlot s2).region
          let rcb := locRead s2 l s2.cur.core rid a.toNat 256
          let st := byteWordAt rcb 0 / 2 ^ 24 % 256
          let parent := byteWordAt rcb 0 / 2 ^ 32 % 2 ^ 16
          let s3 := countUnits s2 acc a.toNat 256
          (locBad s2 l 256 = true → Traps (.join rd ra) s ⟨11, 0, 0, a⟩) ∧
          (locBad s2 l 256 = false → behindAt s2 (locPlace l) = true → Waits (.join rd ra) s) ∧
          (locBad s2 l 256 = false → behindAt s2 (locPlace l) = false → snooped s2 ((locPa l).getD 0) 256 = [] →
            ((st = 0 ∨ st < 4 ∧ parent = rid) → exec (.join rd ra) s = .next (parkIn (.join rd.toNat ((locPa l).getD 0)) s3)) ∧
            (st ≠ 0 → parent ≠ rid → exec (.join rd ra) s = .next (gives s3 rd (joinWord 8 0))) ∧
            (4 ≤ st → parent = rid →
              exec (.join rd ra) s = .next (gives s3 rd (BitVec.ofNat 64 (byteWordAt rcb 27))))))))) ∧
  (∀ s, let c := s.cur.core
    let i := s.cur.slot
    (0 < oscOf (curSlot s) → trackerFull s c = true → Waits .tail s) ∧
    ((oscOf (curSlot s) = 0 ∨ trackerFull s c = false) →
      ((getCore s c).gang ≠ none → Traps .tail s ⟨1, 0, 0, 0⟩) ∧
      ((getCore s c).gang = none →
        ((curSlot s).stagedHdr ≠ none → Traps .tail s ⟨10, 4, 0, 0⟩) ∧
        ((curSlot s).stagedHdr = none →
          (∀ w, unlinked (curSlot s) (pairingOf s c i) = some w → Traps .tail s ⟨9, 7, 0, w⟩) ∧
          (unlinked (curSlot s) (pairingOf s c i) = none →
            (∀ x r, commitLines s c i = x :: r → WaitsForLine .tail s x) ∧
            (commitLines s c i = [] →
              let s1 := commitNodes s c i
              let n := oscOf (getSlot s1 c i)
              ((1024 < n ∨ 0 < n ∧ trackerFull s1 c = true) → Waits .tail s) ∧
              (n ≤ 1024 → (n = 0 ∨ trackerFull s1 c = false) →
                ∃ t, exec .tail s = .next t ∧ getSlot t c i = Slot.empty ∧ t.cur.freed = true ∧
                  t.cur.ended = s.cur.ended ∧ (getCore t c).tailed = some (s.cycle, i)))))))) ∧
  (∀ s, let k := getCore s s.cur.core
    ((k.gang ≠ none ∨ serialTask k (curSlot s).origin = true) → Traps .yield s ⟨1, 0, 0, 0⟩) ∧
    (k.gang = none → serialTask k (curSlot s).origin = false →
      exec .yield s = .next (modCur s fun t => { t with
        stop := some false, stopRequeue := true, stopper := if t.stop.isSome then t.stopper else none })))

/-- R293, R296, R307, R308, R318, R319, R340: dispatch, the ready queues, stealing and the reading back of a context. -/
def Obligations.Dispatching : Prop :=
  (∀ s core i cl lot q rest pc x3 x4, canDispatch s core = true → freeSlot s.cycle (getCore s core) = some i →
    chooseClass s (getCore s core) = some (cl, lot) →
    takeFirst (fun (q : QTask) => q.cls == cl && isRunning s q.region) (getCore s core).runq = some (q, rest) →
    q.from_ = .fresh pc x3 x4 → q.missingRule = none →
    ∃ t, exec (.dispatch core) s = .next t ∧ (getCore t core).rqlot = lot ∧ (getCore t core).dispatchedAt = some s.cycle ∧
      let k := getSlot t core i
      k.held = true ∧ k.gtid = q.gtid ∧ k.region = q.region ∧ k.pc = pc ∧ k.p = 1#8 ∧ k.park = .none ∧
        getX k 3 = x3 ∧ getX k 4 = x4 ∧ getX k 5 = BitVec.ofNat 64 (q.gtid.toNat % 2 ^ 32) ∧ getX k 1 = 0 ∧
        ∀ j, j ≠ i → getSlot t core j = getSlot s core j) ∧
  (∀ s k c, c < 4 → (candidate s k c).isSome = true → tget k.starve c 0 = 4096 →
    (∀ j, j < c → (candidate s k j).isSome = true → tget k.starve j 0 ≠ 4096) →
    chooseClass s k = some (c, k.rqlot)) ∧
  (∀ s core e rest, canPull s core = true →
    takeFirst (fun e => entryFits s core e && (!isPairEntry e || decide ((getCore s core).bag.length < 768)))
      (getDie s (dieOf core)).ready = some (e, rest) →
    ∃ t, exec (.readyQueuePull core) s = .next t ∧ (getDie t (dieOf core)).ready = rest ∧
      (∀ a b, e.item = .pair a b → (getCore t core).bag = (getCore s core).bag ++ [(e.region, a, b)]) ∧
      (∀ g x3 pcw cls aff born, e.item = .spawn g x3 pcw cls aff born false → (getCore t core).runq =
        [⟨g, e.region, cls, .spawn, .fresh (BitVec.ofNat 64 (4 * pcw)) x3 0, born, none⟩]) ∧
      (∀ g x3 pcw cls aff born, e.item = .spawn g x3 pcw cls aff born true → ∃ g1, (getCore t core).runq =
        [⟨g1, e.region, cls, .region, .fresh (BitVec.ofNat 64 (4 * pcw)) x3 0, born, none⟩] ∧
        g1 = BitVec.ofNat 64 (e.region % 2 ^ 16 * 2 ^ 48 + core % 4096 * 2 ^ 36 + (getCore s core).serial % 2 ^ 36))) ∧
  (∀ s die e, regionEnds s e.region = false →
    (readyRoom s die = true → exec (.spawnPlace die none e) s = .next (readyPush s die e)) ∧
    (readyRoom s die = false → exec (.spawnPlace die none e) s = .next (later s (.spawnPlace die none e)))) ∧
  (∀ s die (who : Who) e, regionEnds s e.region = false → readyRoom s die = false →
    exec (.spawnPlace die (some who) e) s =
      .next (putBack s (coreSrc who.core) (.core (3136 + die)) (.spawnPlace die (some who) e))) ∧
  (∀ s die (who : Who) e o, regionEnds s e.region = false → readyRoom s die = true → itemAt s who o →
    ∃ t, exec (.spawnPlace die (some who) e) s = .next t ∧ (getDie t die).ready = (getDie s die).ready ++ [e] ∧ itemGone t who) ∧
  (∀ s d v, dieLive s d = true → dieIdle s d = true → nextNeighbour (neighbours s d) (getDie s d).stealNext = some v →
    ∃ t, exec (.stealTimer d) s = .next t ∧ OneSent s t (.stealRequest d v) ∧ (getDie t d).stealNext = v + 1) ∧
  (∀ s thief victim, let l := (getDie s victim).ready
    ∃ t es, exec (.stealRequest thief victim) s = .next t ∧ OneSent s t (.stealAnswer thief es) ∧
      es = (l.filter (stealable s thief)).take (min ((l.filter (stealable s thief)).length / 2) 64) ∧
      (getDie t victim).ready.length + es.length = l.length ∧ ∀ e ∈ (getDie t victim).ready, e ∈ l) ∧
  (∀ s thief, ∃ t, exec (.stealAnswer thief []) s = .next t ∧ (getDie t thief).tssteal = (getDie s thief).tssteal + 1) ∧
  (∀ s thief e, regionEnds s e.region = false → readyRoom s thief = true →
    exec (.stealAnswer thief [e]) s = .next (readyPush s thief e)) ∧
  (∀ s core i ctx n v, savedAt s (getSlot s core i).region ctx = some (n, v) →
    (getSlot s core i).park = .readBack ctx → v.rest.gtid = (getSlot s core i).gtid →
    ∃ t, exec (.contextReadBack core i ctx) s = .next t ∧ let k := getSlot t core i
      let k0 := savedSlot s v
      k.held = true ∧ k.pc = k0.pc ∧ k.x = k0.x ∧ k.f = k0.f ∧ k.v = k0.v ∧ k.p = k0.p ∧
        k.park = (if k0.swPark then .switchMark else .none) ∧ t.saved = s.saved.eraseIdx n)

/-- R306: the TAG words. -/
def Obligations.TagWords : Prop :=
  (∀ (ra : XField) s s1 v, operandsFree s [ra] .none = true → sourceWords [ra] s = some ([v], s1) →
    let c := s1.cur.core
    let n := v.toNat
    let e := getTag (getCore s1 c) n
    let allowed := n < 256 ∧ tagV e = true ∧ (0xFC ≤ n ∨ ownTag s1 n = true)
    (¬ allowed → Traps (.tagen ra) s ⟨1, 0, 0, 0⟩ ∧ Traps (.tagdis ra) s ⟨1, 0, 0, 0⟩) ∧
    (allowed →
      (∃ t, exec (.tagdis ra) s = .next t ∧ tagEn (getTag (getCore t c) n) = false ∧
        (∀ k, k < 64 → k ≠ 30 → bit (getTag (getCore t c) n) k = bit e k) ∧
        (∀ m, m ≠ n → getTag (getCore t c) m = getTag (getCore s1 c) m) ∧ t.flights = s1.flights ∧ t.mem = s1.mem) ∧
      (∃ t, exec (.tagen ra) s = .next t ∧ tagEn (getTag (getCore t c) n) = true ∧
        (tagQueue (getCore s1 c) n = [] → t.mem = s1.mem ∧ (getCore t c).runq = (getCore s1 c).runq ∧
          ∀ k, k < 64 → k ≠ 30 → bit (getTag (getCore t c) n) k = bit e k)))) ∧
  (∀ (rd : XField) s, operandsFree s [] (.x rd) = true →
    (∀ n, n < 256 → (∀ m, m ≤ n → (m = n ↔ (tagV (getTag (getCore s s.cur.core) m) = true ∧
        tagPend (getTag (getCore s s.cur.core) m) = true ∧ ownTag s m = true))) →
      exec (.tagpend rd) s = .next (gives s rd (BitVec.ofNat 64 n))) ∧
    ((∀ m, m < 256 → ¬ (tagV (getTag (getCore s s.cur.core) m) = true ∧ tagPend (getTag (getCore s s.cur.core) m) = true ∧
        ownTag s m = true)) → exec (.tagpend rd) s = .next (gives s rd (BitVec.allOnes 64)))) ∧
  (∀ (rd ra : XField) s s1 v, operandsFree s [ra] (.x rd) = true → sourceWords [ra] s = some ([v], s1) →
    let c := s1.cur.core
    let n := v.toNat
    let e := getTag (getCore s1 c) n
    (256 ≤ n → Traps (.tagtest rd ra) s ⟨1, 0, 0, 0⟩) ∧
    (n < 256 → exec (.tagtest rd ra) s = .next (gives s1 rd (BitVec.ofNat 64 e))) ∧
    ((256 ≤ n ∨ tagV e = false ∨ 0xFC ≤ n ∨ ownTag s1 n = false) → Traps (.tagclr rd ra) s ⟨1, 0, 0, 0⟩) ∧
    (n < 0xFC → tagV e = true → ownTag s1 n = true →
      ∃ t, exec (.tagclr rd ra) s = .next t ∧
        (curSlot t).late = (curSlot s1).late ++ [⟨s1.cycle + 1, .x rd.toNat,
          BitVec.ofNat 512 (BitVec.ofNat 64 (tagQueue (getCore s1 c) n).length).toNat, BitVec.allOnes 512, none⟩] ∧
        (tagQueue (getCore s1 c) n = [] → tagPend (getTag (getCore t c) n) = false ∧
          tagWaiting (getTag (getCore t c) n) = 0)))

/-- R298-R301, R314, 19 R349, 21 R373: where a message goes when it arrives: refused with its reason, accepted into the lowest
free mailbox slot, taken by firmware or the host's ring; and bounces, statuses and error notices. -/
def Obligations.MessageArrivals : Prop :=
  (∀ s (m : Msg), hdrSchip m.hdr = s.chipId → hdrDcore m.hdr ≠ 4095 →
    let c := hdrDcore m.hdr
    let tag := hdrTag m.hdr
    (3144 ≤ c → exec (.messageArrive m) s = .next (later s (.bounce m 1))) ∧
    (c < 3144 → ownChip s m.hdr = true → answering s c = true →
      (isMgmt c = true → m.counted = false →
        (tag = 0 → exec (.messageArrive m) s = .next (later s (.start m))) ∧
        (tag = 1 → exec (.messageArrive m) s = .next (later s (.kill m))) ∧
        (2 ≤ tag → exec (.messageArrive m) s = .next (later s (.bounce m 3)))) ∧
      (isMgmt c = false →
        let k := getCore s c
        let e := getTag k tag
        let quota := match getRegion s (tagRegion k tag) with
          | some r => r.mboxq
          | none => 240
        let full := tagMaxq e ≠ 0 ∧ tagMaxq e ≤ tagWaiting e
        (tagV e = false → exec (.messageArrive m) s = .next (later s (.bounce m 3))) ∧
        (tagV e = true → quota ≤ quotaUsed k tag → exec (.messageArrive m) s = .next (later s (.bounce m 4))) ∧
        (tagV e = true → quotaUsed k tag < quota → full → exec (.messageArrive m) s = .next (later s (.bounce m 5))) ∧
        (tagV e = true → quotaUsed k tag < quota → ¬ full → freeMbox k 0 240 = none →
          exec (.messageArrive m) s = .next (later s (.bounce m 6))) ∧
        (∀ i, tagV e = true → quotaUsed k tag < quota → ¬ full → freeMbox k 0 240 = some i → m.counted = false →
          replayMode s (dieOf c) (itemRegion s c tag m) = 0 → isDying s (itemRegion s c tag m) = false → k.sp.wf = true →
          m.pay.length ≤ 7 →
          ∃ t, exec (.messageArrive m) s = .next t ∧ tfind (getCore t c).mbox i = some ⟨itemRegion s c tag m, tag⟩ ∧
            mboxHdr t c i = m.hdr ∧
            (∀ j w, m.pay[j]? = some w → leNat (spRead t c (mboxAddr i + 8 + 8 * j) 8) = w.toNat) ∧
            ∀ a, a < mboxAddr i → mget (getCore t c).sp a = mget k.sp a)))) ∧
  (∀ s (m : Msg), hdrSchip m.hdr = s.chipId → ownChip s m.hdr = true → hdrDcore m.hdr = 4095 →
    (ringFull s = true → exec (.messageArrive m) s = .next (later s (.bounce m 6))) ∧
    (ringFull s = false → m.counted = false →
      ∃ t, exec (.messageArrive m) s = .next t ∧
        t.host.hrtail = BitVec.ofNat 64 ((s.host.hrtail.toNat + 1) % s.host.hrsize.toNat) ∧ t.host.intOut = true ∧
        Sent.host m ∈ t.outbox ∧ (s.host.intOut = false → t.host.interrupts = s.host.interrupts + 1))) ∧
  (∀ s (m : Msg) reason i, let c := hdrScore m.hdr
    c < 3136 → answering s c = true → tagV (getTag (getCore s c) 0xFF) = true → m.counted = false →
    hdrSchip m.hdr = s.chipId → freeMbox (getCore s c) 240 256 = some i →
    replayMode s (dieOf c) (itemRegion s c 0xFF m) = 0 →
    (∀ h, isDying s (itemRegion s c 0xFF { m with hdr := h }) = false) → (getCore s c).sp.wf = true →
    ∃ t, exec (.bounce m reason) s = .next t ∧ (tfind (getCore t c).mbox i).isSome = true ∧
      (mboxHdr t c i).toNat / 2 ^ 32 % 2 ^ 12 = reason % 16 ∧ (mboxHdr t c i).toNat % 2 ^ 32 = m.hdr.toNat % 2 ^ 32) ∧
  (∀ s (who : Who) w o, itemAt s who o → ∃ t, exec (.messageStatus who w) s = .next t ∧ itemGone t who ∧
    (getSlot t who.core who.slot).q7 = (getSlot s who.core who.slot).q7 ++ [w]) ∧
  (∀ s (who : Who) w, holdsTask (getSlot s who.core who.slot) who.gtid = true → itemOf s who = none →
    ∃ t, exec (.messageStatus who w) s = .next t ∧
      (getSlot t who.core who.slot).q7 = (getSlot s who.core who.slot).q7 ++ [w] ∧
      (getSlot t who.core who.slot).ackFlying = (getSlot s who.core who.slot).ackFlying - 1 ∧ t.flights = s.flights) ∧
  (∀ s (n : NoticePkt) o r, (n.kind = 2 ∨ n.kind = 3) → isMgmt n.dst = true → itemAt s n.who o → o.dst = .x r → r ≠ 0 →
    ∃ t, exec (.errorNotice n) s = .next t ∧ getX (getSlot t n.who.core n.who.slot) r = 0 ∧
      isPending (getSlot t n.who.core n.who.slot) (.x r) = false ∧
      (getSlot t n.who.core n.who.slot).trapNext = some ⟨11, 0, 0, 0⟩)

/-- R270, R276-R279, R282: the NODE words of a compute core, their RULE traps, and what they stage, read and push. -/
def Obligations.NodeWords : Prop :=
  (∀ (rd ra rb : XField) (i : Instr) srcs d s,
    (i, srcs, d) ∈ [(.nport rd ra, [ra], Dst.x rd), (.npay rd ra, [ra], .x rd), (.nset rd ra, [rd, ra], .none),
      (.nsetp rd ra rb, [rd, ra, rb], .none), (.nlink ra rb, [ra, rb], .none), (.npush ra rb, [ra, rb], .none)] →
    operandsFree s srcs d = true → isCompute s.cur.core = false → Traps i s ⟨1, 0, 0, 0⟩) ∧
  (∀ (rd ra : XField) s s1 v, operandsFree s [ra] (.x rd) = true → isCompute s.cur.core = true →
    sourceWords [ra] s = some ([v], s1) →
    let n := v.toNat
    (claimedNode s1 (n / 8 % 2) = none → Traps (.nport rd ra) s ⟨9, 1, 0, v⟩ ∧ Traps (.npay rd ra) s ⟨9, 1, 0, v⟩) ∧
    (∀ ws, claimedNode s1 (n / 8 % 2) = some ws →
      let ports := fun (k : Nat) => ws.getD k 0#64
      ((16 ≤ n ∨ 4 < n % 8) → Traps (.nport rd ra) s ⟨9, 2, 0, v⟩) ∧
      (n < 16 → n % 8 ≤ 4 → exec (.nport rd ra) s = .next
        (lateTo s1 (.x rd.toNat) 4 (BitVec.ofNat 512 (ports (n % 8)).toNat) (BitVec.allOnes 512))) ∧
      ((16 ≤ n ∨ 3 ≤ n % 8) → Traps (.npay rd ra) s ⟨9, 2, 0, v⟩) ∧
      (n < 16 → n % 8 < 3 → exec (.npay rd ra) s = .next
        (lateTo s1 (.x rd.toNat) 4 (BitVec.ofNat 512 (ports (5 + n % 8)).toNat) (BitVec.allOnes 512))))) ∧
  (∀ (rd ra rb : XField) s s1 kw h, rb ≠ 0 → operandsFree s [ra, rb] (.x rd) = true → isCompute s.cur.core = true →
    sourceWords [ra, rb] s = some ([kw, h], s1) →
    (1024 ≤ kw.toNat → Traps (.nnew rd ra rb) s ⟨9, 6, 0, kw⟩) ∧
    (kw.toNat < 1024 → h ∉ (curSlot s1).reserved → Traps (.nnew rd ra rb) s ⟨9, 3, 0, h⟩) ∧
    (kw.toNat < 1024 → h ∈ (curSlot s1).reserved → 16 ≤ (curSlot s1).staged.length →
      Traps (.nnew rd ra rb) s ⟨9, 5, 0, kw⟩) ∧
    (kw.toNat < 1024 → h ∈ (curSlot s1).reserved → (curSlot s1).staged.length < 16 →
      exec (.nnew rd ra rb) s = .next (gives (modCur s1 (stageNode h kw)) rd h))) ∧
  (∀ (rd ra : XField) s s1 kw, operandsFree s [ra] (.x rd) = true → isCompute s.cur.core = true →
    sourceWords [ra] s = some ([kw], s1) → kw.toNat < 1024 → (curSlot s1).staged.length < 16 →
    (poolHas s1 s1.cur.core (curSlot s1).region 1 = false → Waits (.nnew rd ra 0) s) ∧
    (∀ i g s2, poolHas s1 s1.cur.core (curSlot s1).region 1 = true → takeLines s1 s1.cur.core (curSlot s1).region = [] →
      poolTake s1 s1.cur.core (curSlot s1).region = some (i, g, s2) →
      let h := refWord 1 g i
      exec (.nnew rd ra 0) s = .next (gives (modCur s2 (stageNode h kw)) rd h) ∧
        (getCore s2 s1.cur.core).ncalloc = (getCore s1 s1.cur.core).ncalloc + 1)) ∧
  (∀ (rd ra : XField) s s1 v w, operandsFree s [rd, ra] .none = true → isCompute s.cur.core = true →
    sourceWords [rd, ra] s = some ([v, w], s1) →
    (stagedPort (curSlot s1) w = none → Traps (.nset rd ra) s ⟨9, 3, 0, w⟩) ∧
    (∀ n p, stagedPort (curSlot s1) w = some (n, p) →
      (p ∈ n.wired → Traps (.nset rd ra) s ⟨9, 4, 0, w⟩) ∧
      (p ∉ n.wired → wTag v ≠ 0 → wTag v ≠ 5 → Traps (.nset rd ra) s ⟨9, 6, 0, v⟩) ∧
      (p ∉ n.wired → (wTag v = 0 ∨ wTag v = 5) → exec (.nset rd ra) s = .next (modCur s1 fun t => modStaged t n.node fun n =>
        { n with ports := n.ports.set (p - 1) v, wired := n.wired ++ [p] })))) ∧
  (∀ (rd ra rb : XField) s s1 v w i, operandsFree s [rd, ra, rb] .none = true → isCompute s.cur.core = true →
    sourceWords [rd, ra, rb] s = some ([v, w, i], s1) →
    ((stagedOf (curSlot s1) w = none ∨ wTag w ≠ 1) → Traps (.nsetp rd ra rb) s ⟨9, 3, 0, w⟩) ∧
    (∀ n, stagedOf (curSlot s1) w = some n → wTag w = 1 →
      (2 < i.toNat → Traps (.nsetp rd ra rb) s ⟨9, 2, 0, i⟩) ∧
      (i.toNat ≤ 2 → exec (.nsetp rd ra rb) s = .next (modCur s1 fun t => modStaged t n.node fun n =>
        { n with pay := n.pay.set i.toNat v })))) ∧
  (∀ (ra rb : XField) s s1 a b, operandsFree s [ra, rb] .none = true → isCompute s.cur.core = true →
    sourceWords [ra, rb] s = some ([a, b], s1) →
    (∀ tr, endpointOf s1 a = .error tr → Traps (.nlink ra rb) s tr) ∧
    (∀ ea tr, endpointOf s1 a = .ok ea → endpointOf s1 b = .error tr → Traps (.nlink ra rb) s tr) ∧
    (∀ ea eb, endpointOf s1 a = .ok ea → endpointOf s1 b = .ok eb →
      let t := curSlot s1
      let twice := endpointUsed t eb = true ∨ ea = eb
      (isLiteral ea = true → isLiteral eb = true → Traps (.nlink ra rb) s ⟨9, 6, 0, a⟩) ∧
      ((isLiteral ea = false ∨ isLiteral eb = false) →
        (endpointUsed t ea = true → Traps (.nlink ra rb) s ⟨9, 4, 0, a⟩) ∧
        (endpointUsed t ea = false → twice → Traps (.nlink ra rb) s ⟨9, 4, 0, b⟩) ∧
        (endpointUsed t ea = false → ¬ twice → 32 ≤ t.wires.length → Traps (.nlink ra rb) s ⟨9, 5, 0, a⟩) ∧
        (endpointUsed t ea = false → ¬ twice → t.wires.length < 32 →
          ∃ u, exec (.nlink ra rb) s = .next u ∧ (curSlot u).wires = t.wires ++ [(ea, eb)] ∧
            (∀ n p, ea = .fresh n p → endpointUsed (curSlot u) ea = true) ∧ SameBytes s1 u ∧
            SameRegisters s1 u s1.cur.core s1.cur.slot)))) ∧
  (∀ (ra rb : XField) s s1 a b, operandsFree s [ra, rb] .none = true → isCompute s.cur.core = true →
    sourceWords [ra, rb] s = some ([a, b], s1) →
    let ok := fun (w : Word) => w.toNat / 2 ^ 61 = 1 ∧ w.toNat / 2 ^ 56 % 32 = 0
    (¬ ok a → Traps (.npush ra rb) s ⟨9, 6, 0, a⟩) ∧ (ok a → ¬ ok b → Traps (.npush ra rb) s ⟨9, 6, 0, b⟩) ∧
    (ok a → ok b → exec (.npush ra rb) s = .next (bagPush s1 s1.cur.core (curSlot s1).region a b))) ∧
  (∀ s core rid a b,
    ((getCore s core).bag.length < 768 → (getCore (bagPush s core rid a b) core).bag = (getCore s core).bag ++ [(rid, a, b)]) ∧
    (768 ≤ (getCore s core).bag.length →
      OneSent s (bagPush s core rid a b) (.spawnPlace (dieOf core) none ⟨rid, .pair a b⟩)))

/-- R273-R275, R281-R286: the claiming of pairs and the messages between the owners of nodes. -/
def Obligations.NodeMessages : Prop :=
  (∀ s core i rid a b r, liveCore s core = true → freeBuf (getCore s core) = some i →
    (getCore s core).bag = (rid, a, b) :: r → regionEnds s rid = false →
    let l := if wIdx a ≤ wIdx b then a else b
    let h := if wIdx a ≤ wIdx b then b else a
    ∃ t, exec (.bagPop core) s = .next t ∧ (getCore t core).bag = r ∧
      tfind (getCore t core).claimBufs i = some ⟨rid, a, b, 0, [], [], none, false⟩ ∧
      OneSent s t (.claim ⟨core, i, rid, 0, l, h⟩) ∧ t.mem = s.mem) ∧
  (∀ s (k : ClaimPkt) ws, let idx := wIdx k.word
    let owner := nodeOwner idx
    liveCore s owner = true → anySnoop s = false → nodeInRange s owner k.region idx = true → nodeRead s k.region idx = some ws →
    ws.length = 8 →
    let h := ws.getD 0 0
    let good := unusable ws = false ∧ hState h = 1 ∧ hGen h = wGen k.word ∧
      ws.getD 1 0 = refWord 1 (wGen k.partner) (wIdx k.partner)
    (¬ good → ∃ t, exec (.claim k) s = .next t ∧ OneSent s t (.claimReply k none) ∧ t.mem = (countNode s k.region idx).mem) ∧
    (good → ∃ t ws1, exec (.claim k) s = .next t ∧ OneSent s t (.claimReply k (some ws1)) ∧ ws1.drop 1 = ws.drop 1 ∧
      hState (ws1.getD 0 0) = 2 ∧ hClaimer (ws1.getD 0 0) = k.claimer % 4096 ∧ hGen (ws1.getD 0 0) = hGen h ∧
      t.mem = (countNode (nodeWrite s k.region idx 0 [ws1.getD 0 0]) k.region idx).mem)) ∧
  (∀ s (k : ClaimPkt) b, liveCore s k.claimer = true → tfind (getCore s k.claimer).claimBufs k.buf = some b →
    regionEnds s b.region = false →
    (k.which = 0 → ∃ t, exec (.claimReply k none) s = .next t ∧ tfind (getCore t k.claimer).claimBufs k.buf = none ∧
      (getCore t k.claimer).ncfail = (getCore s k.claimer).ncfail + 1 ∧ t.flights = s.flights) ∧
    (k.which ≠ 0 → ∃ t, exec (.claimReply k none) s = .next t ∧ tfind (getCore t k.claimer).claimBufs k.buf = none ∧
      OneSent s t (.release { k with which := 0, word := k.partner, partner := k.word })) ∧
    (∀ ws, k.which = 0 → ∃ t, exec (.claimReply k (some ws)) s = .next t ∧
      OneSent s t (.claim { k with which := 1, word := k.partner, partner := k.word })) ∧
    (∀ ws, k.which = 1 → (getCore s k.claimer).runq.length < 320 → (getCore s k.claimer).runHold = [] →
      ∃ t q b1, exec (.claimReply k (some ws)) s = .next t ∧ (getCore t k.claimer).runq = (getCore s k.claimer).runq ++ [q] ∧
        q.region = b.region ∧ q.origin = .pair k.buf ∧ (getCore t k.claimer).ncclaim = (getCore s k.claimer).ncclaim + 1 ∧
        tfind (getCore t k.claimer).claimBufs k.buf = some b1 ∧ b1.owner = some q.gtid ∧ b1.got = b.got + 1)) ∧
  (∀ s (k : ClaimPkt) ws, liveCore s (nodeOwner (wIdx k.word)) = true → anySnoop s = false → nodeRead s k.region (wIdx k.word) = some ws →
    let h := ws.getD 0 0
    ((hState h ≠ 2 ∨ hClaimer h ≠ k.claimer) → exec (.release k) s = .next s) ∧
    (hState h = 2 → hClaimer h = k.claimer →
      ∃ t h1, exec (.release k) s = .next t ∧ hState h1 = 1 ∧ hGen h1 = hGen h ∧ hKind h1 = hKind h ∧
        t.mem = (nodeWrite (countNode s k.region (wIdx k.word)) k.region (wIdx k.word) 0 [h1]).mem ∧
        (wTag (ws.getD 1 0) = 1 → (getCore s (nodeOwner (wIdx k.word))).bag.length < 768 →
          (getCore t (nodeOwner (wIdx k.word))).bag = (getCore s (nodeOwner (wIdx k.word))).bag ++
            [(k.region, refWord 1 (hGen h) (wIdx k.word), ws.getD 1 0)]))) ∧
  (∀ s (k : TombPkt), liveCore s (nodeOwner k.node) = true → anySnoop s = false →
    exec (.tomb k) s = .next (endItem (tombify s k.region k.node k.ports k.out) ⟨k.src, k.slot, k.gtid, k.item⟩)) ∧
  (∀ s rid idx ws, nodeRead s rid idx = some ws → hState (ws.getD 0 0) = 3 → hOut (ws.getD 0 0) = 0 →
    hExpect (ws.getD 0 0) = 0 →
    (getCore (settleTomb s rid idx) (nodeOwner idx)).ncfree = (getCore s (nodeOwner idx)).ncfree + 1) ∧
  (∀ s (l : LinkPkt) ws, let owner := nodeOwner l.node
    liveCore s owner = true → anySnoop s = false → nodeInRange s owner l.region l.node = true → nodeRead s l.region l.node = some ws →
    let h := ws.getD 0 0
    unusable ws = false → hGen h = l.gen →
    let put := (nodeWrite (countNode s l.region l.node) l.region l.node l.port [l.word]).mem
    let here := { l with last := owner }
    (hState h = 1 → ∀ i, i ∈ [Instr.link l, .redefer l] → ∃ t, exec i s = .next t ∧ t.mem = put ∧
      (getCore t owner).nclink = (getCore s owner).nclink + 1 ∧
      (∀ o, l.origin = some o → inFlight t (.ack here)) ∧
      (l.port = 1 → wTag l.word = 1 → (getCore s owner).bag.length < 768 → (getCore t owner).bag =
        (getCore s owner).bag ++ [(l.region, refWord 1 (hGen h) l.node, l.word)])) ∧
    (hState h = 2 → ∀ i, i ∈ [Instr.link l, .redefer l] → ∃ t, exec i s = .next t ∧ t.mem = put ∧
      (getCore t owner).ncdefer = (getCore s owner).ncdefer + 1 ∧ OneSent s t (.defer (hClaimer h) here)) ∧
    (hState h = 3 → ∀ i, i ∈ [Instr.link l, .redefer l] → ∃ t, exec i s = .next t ∧
      (getCore t owner).ncdefer = (getCore s owner).ncdefer + 1 ∧
      ∀ o, l.origin = some o → inFlight t (.settle here true))) ∧
  (∀ s claimer (l : LinkPkt), bufHolding s claimer l.region l.node l.gen = none → (getCore s claimer).sealed = false →
    ∃ t, exec (.defer claimer l) s = .next t ∧ OneSent s t (.redefer { l with last := claimer }) ∧ t.mem = s.mem) ∧
  (∀ s claimer (l : LinkPkt) i b first, bufHolding s claimer l.region l.node l.gen = some (i, b, first) → b.owner = none →
    (getCore s claimer).sealed = false →
    ∃ t b1, exec (.defer claimer l) s = .next t ∧ tfind (getCore t claimer).claimBufs i = some b1 ∧
      (first = true → b1.nodeA = b.nodeA.set l.port l.word) ∧ (first = false → b1.nodeB = b.nodeB.set l.port l.word) ∧
      ∀ o, l.origin = some o → inFlight t (.settle { l with last := claimer } false)) ∧
  (∀ s (l : LinkPkt) o, l.origin = some o → liveCore s (nodeOwner o.node) = true → anySnoop s = false →
    isTomb s l.region o.node = false → exec (.ack l) s = .next (later s (.ack l)) ∧
      ∀ ex, exec (.settle l ex) s = .next (later s (.settle l ex))) ∧
  (∀ s (l : LinkPkt) o it, l.origin = some o → anySnoop s = false → itemAt s ⟨l.src, l.slot, l.gtid, l.item⟩ it →
    (liveCore s (nodeOwner o.node) = false ∨ isTomb s l.region o.node = true) →
    (∃ t, exec (.ack l) s = .next t ∧ itemGone t ⟨l.src, l.slot, l.gtid, l.item⟩) ∧
      ∀ ex, ∃ t, exec (.settle l ex) s = .next t ∧ itemGone t ⟨l.src, l.slot, l.gtid, l.item⟩)

/-- R202-R206: GANGFORM's statuses and lock, GANGWAIT, DISBAND, and the gang that forms or times out while its leader waits. -/
def Obligations.Gangs : Prop :=
  (∀ (rd ra rb : XField) s s1 w b, operandsFree s [ra, rb] (.x rd) = true → sourceWords [ra, rb] s = some ([w, b], s1) →
    ((isCompute s.cur.core = false ∨ isMember (getCore s s.cur.core) s.cur.core s.cur.slot = true) →
      Traps (.gangform rd ra rb) s ⟨1, 0, 0, 0⟩) ∧
    (isCompute s.cur.core = true → isMember (getCore s s.cur.core) s.cur.core s.cur.slot = false →
      let c := s1.cur.core
      ((getCore s1 c).gang ≠ none → exec (.gangform rd ra rb) s = .next (gives s1 rd 3)) ∧
      ((getCore s1 c).gang = none →
        (gangShape s1 c w = none → exec (.gangform rd ra rb) s = .next (gives s1 rd 2)) ∧
        (∀ n, gangShape s1 c w = some n →
          (∀ fs, followers s1 c n = some fs → gangFree (getCore s1 c) = true →
            exec (.gangform rd ra rb) s = .next (gives (formGang s1 (gangOf c n s1.cur.slot fs)) rd 0)) ∧
          (followers s1 c n = none → b = 0 → exec (.gangform rd ra rb) s = .next (gives s1 rd 1)) ∧
          (followers s1 c n = none → b ≠ 0 → ∃ t, exec (.gangform rd ra rb) s = .next t ∧
            (curSlot t).park = .gangForm rd.toNat n (s1.cycle + b.toNat) ∧
            OneTimed s1 t (s1.cycle + b.toNat + 1) (.gangformTimeout c)))))) ∧
  (∀ s c (w : Word), (∀ n, gangShape s c w = some n ↔
    ((w = 1 ∧ n = 2) ∨ (w = 2 ∧ n = 4) ∨ (w = 3 ∧ n = 8)) ∧ c % 48 % 8 % n = 0 ∧ ∀ m, m < n → liveCore s (c + m) = true)) ∧
  (∀ s (g : Gang) m, m < g.size → (getCore (formGang s g) (g.base + m)).gang = some g) ∧
  (∀ (rd : XField) s, operandsFree s [] (.x rd) = true →
    let c := s.cur.core
    let ill := isCompute c = false ∨ isMember (getCore s c) c s.cur.slot = true
    (ill → Traps (.gangwait rd) s ⟨1, 0, 0, 0⟩) ∧
    (¬ ill → exec (.gangwait rd) s = .next (parkIn (.gangWait rd.toNat) s)) ∧
    (isCompute c = false → Traps (.disband rd) s ⟨1, 0, 0, 0⟩) ∧
    (isCompute c = true → isMember (getCore s c) c s.cur.slot = false → exec (.disband rd) s = .next (gives s rd 5)) ∧
    (∀ g, isCompute c = true → isMember (getCore s c) c s.cur.slot = true → (getCore s c).gang = some g →
      (c ≠ g.base → Traps (.disband rd) s ⟨1, 0, 0, 0⟩) ∧
      (c = g.base → ∃ t, exec (.disband rd) s = .next t ∧ (∀ m, m < g.size → (getCore t (g.base + m)).gang = none) ∧
        t.mem = s.mem ∧ ∀ m, 0 < m → m < g.size → ∀ r, g.waitRds[m]? = some r → r ≠ 0 →
          getX (getSlot t (g.base + m) (memberSlot g (g.base + m))) r = 0))) ∧
  (∀ s core i rd g, formable s core = some (i, rd, g) → ∃ t, exec (.gangForms core) s = .next t ∧
    getX (getSlot t core i) rd = 0 ∧
    (getSlot t core i).park = (if (getSlot (formGang s g) core i).nextSw then .switchMark else .none) ∧
    ∀ m, m < g.size → g.base + m ≠ core → (getCore t (g.base + m)).gang = some g) ∧
  (∀ s core i rd n due, i < 8 → (getSlot s core i).park = .gangForm rd n due → due < s.cycle →
    ∃ t, exec (.gangformTimeout core) s = .next t ∧ getX (getSlot t core i) rd = (if rd = 0 then 0 else 1) ∧
      (getSlot t core i).park = (if (getSlot s core i).nextSw then .switchMark else .none) ∧ t.flights = s.flights)

/-- R352-R356: PAIRON and PAIROFF, the close of an interval and the exchange of its fingerprints. -/
def Obligations.Pairs : Prop :=
  (∀ (rd ra : XField) s s1 v, operandsFree s [ra] (.x rd) = true → sourceWords [ra] s = some ([v], s1) →
    let c := s1.cur.core
    ((isCompute s.cur.core = false ∨ isMember (getCore s s.cur.core) s.cur.core s.cur.slot = true ∨ 1 < v.toNat) →
      Traps (.pairon rd ra) s ⟨1, 0, 0, 0⟩) ∧
    (isCompute s.cur.core = true → isMember (getCore s s.cur.core) s.cur.core s.cur.slot = false → v.toNat ≤ 1 →
      let x := c % 48 % 8
      let side := fun (n : Nat) => (v = 0 ∧ 0 < x ∧ n = c - 1) ∨ (v = 1 ∧ x < 7 ∧ n = c + 1)
      ((∀ n, side n → liveCore s1 n = false) → exec (.pairon rd ra) s = .next (gives s1 rd 2)) ∧
      (∀ n, side n → liveCore s1 n = true →
        (gangFree (getCore s1 c) = false ∨ gangFree (getCore s1 n) = false ∨ freeSlot s1.cycle (getCore s1 n) = none →
          exec (.pairon rd ra) s = .next (gives s1 rd 1)) ∧
        (∀ j, gangFree (getCore s1 c) = true → gangFree (getCore s1 n) = true → freeSlot s1.cycle (getCore s1 n) = some j →
          ∃ t p, exec (.pairon rd ra) s = .next t ∧ (getCore t c).pair = some p ∧ p.partner = n ∧ p.slot = s1.cur.slot ∧
            p.partnerSlot = j ∧ intervalEmpty p = true ∧ (getCore t n).pairedTo = some c ∧
            (getSlot t n j).x = (curSlot s1).x ∧ (getSlot t n j).pc = (curSlot s1).pc ∧ SameBytes s1 t)))) ∧
  (∀ (rd : XField) s, operandsFree s [] (.x rd) = true →
    let c := s.cur.core
    ((isCompute c = false ∨ isMember (getCore s c) c s.cur.slot = true) → Traps (.pairoff rd) s ⟨1, 0, 0, 0⟩) ∧
    (isCompute c = true → isMember (getCore s c) c s.cur.slot = false →
      (inPair s c s.cur.slot = false → exec (.pairoff rd) s = .next (gives s rd 3)) ∧
      (∀ p, (getCore s c).pair = some p → p.slot = s.cur.slot → p.partner ≠ c →
        ∃ t, exec (.pairoff rd) s = .next t ∧ (getCore t c).pair = none ∧ (getCore t p.partner).pairedTo = none ∧
          getSlot t p.partner p.partnerSlot = Slot.empty ∧ t.mem = s.mem))) ∧
  (∀ s core p, let s1 := syncPair s core
    (getCore s1 core).pair = some p → canClose s1 core = true →
    ∃ t, exec (.intervalClose core) s = .next t ∧ (getCore t core).pair = some { p with exchange := some (s.cycle + 8) } ∧
      OneTimed s t (s.cycle + 8) (.fingerprintExchange core) ∧ SameBytes s t) ∧
  (∀ s core p, (getCore s core).pair = some p → p.exchange ≠ none → fingerprint p.fedSelf = fingerprint p.fedPartner →
    let q := { freshInterval p with agreed := p.serial }
    let s1 := setPair s core q
    intervalEmpty q = true ∧ q.exchange = none ∧
      exec (.fingerprintExchange core) s = .next (openGate s1 core (getSlot s core p.slot).gtid p.gate) ∧
      (∀ f, p.gate = [f] → f.chan = none → OneSent s1 (openGate s1 core (getSlot s core p.slot).gtid p.gate) f.act)) ∧
  (∀ s core p, (getCore s core).pair = some p → p.exchange ≠ none → fingerprint p.fedSelf ≠ fingerprint p.fedPartner →
    p.retried = false →
    p.partner ≠ core →
    ∃ t q, exec (.fingerprintExchange core) s = .next t ∧ (getCore t core).pair = some q ∧ intervalEmpty q = true ∧
      q.retried = true ∧ q.partner = p.partner ∧
      (getCore t core).sp = p.undo.reverse.foldl (fun m e => mwrite m e.1 8 e.2.toNat) (getCore s core).sp ∧
      (getSlot t core p.slot).pc = p.ckSelf.pc ∧ (getSlot t p.partner p.partnerSlot).pc = p.ckPartner.pc)

/-- R345: SRRD, SRWR, SRSET and SRCLR: what is illegal, what waits, what a register holds afterwards, and their frame. -/
def Obligations.SpecialRegisterWords : Prop :=
  (∀ (rd : XField) (sr : BitVec 12) s, operandsFree s [] (.x rd) = true →
    (srRead s s.cur.core s.cur.slot sr.toNat = none → Traps (.srrd rd sr) s ⟨1, 0, 0, 0⟩) ∧
    (∀ w, srRead s s.cur.core s.cur.slot sr.toNat = some w →
      (sr ≠ 0x00F → exec (.srrd rd sr) s = .next (gives s rd w)) ∧
      (sr = 0x00F → ∃ t, exec (.srrd rd sr) s = .next t ∧ exec (.l2prdRead rd) s = .next t ∧
        (curSlot t).late = (curSlot s).late ++
          [⟨s.cycle + 1, .x rd.toNat, BitVec.ofNat 512 w.toNat, BitVec.allOnes 512, none⟩] ∧
        (curSlot t).l2psel.toNat % 2 ^ 9 = ((curSlot s).l2psel.toNat + 1) % 2 ^ 9 ∧
        (curSlot t).l2psel.toNat / 2 ^ 9 = (curSlot s).l2psel.toNat / 2 ^ 9))) ∧
  (∀ (k : Nat) (f : SrForm) (form : XField → BitVec 12 → Instr) (rs : XField) (sr : BitVec 12) s,
    writeForms[k]? = some (f, form) → operandsFree s [rs] .none = true →
    let n := sr.toNat
    let old := srRead s s.cur.core s.cur.slot n
    let ill := old = none ∨ (f ≠ .write ∧ srWo n = true) ∨ (isCompute s.cur.core = true ∧ srCtl n = true)
    (ill → Traps (form rs sr) s ⟨1, 0, 0, 0⟩) ∧
    (¬ ill → srBusy s n = true → Waits (form rs sr) s) ∧
    (¬ ill → srBusy s n = false → ∀ s1 v w, sourceWords [rs] s = some ([v], s1) → old = some w →
      let new := match f with
        | .write => v
        | .set => w ||| v
        | .clear => w &&& ~~~v
      exec (form rs sr) s = .next (srPut n new s1) ∧ exec (.registerWrite false sr new) s1 = .next (srPut n new s1))) ∧
  (∀ e ∈ plainRegisters, ∀ s v, srRead (srPut e.1 v s) s.cur.core s.cur.slot e.1 = some (v &&& e.2)) ∧
  (∀ n ∈ fixedRegisters, ∀ s v m, srRead (srPut n v s) s.cur.core s.cur.slot m = srRead s s.cur.core s.cur.slot m) ∧
  (∀ n ∈ [0x031, 0x032], ∀ s v, srRead (srPut n v s) s.cur.core s.cur.slot n =
    some (if v.toNat % 2 ^ 32 = 0 then 1 else BitVec.ofNat 64 (v.toNat % 2 ^ 32))) ∧
  (∀ s (v : Word), srRead (srPut 0x012 v s) s.cur.core s.cur.slot 0x012 = some (BitVec.ofNat 64
    ((if v.toNat % 8 < 5 then v.toNat % 8 else (curSlot s).fpctl.toNat % 8) + v.toNat / 8 % 2 * 8))) ∧
  (∀ s (v : Word), srRead (srPut 0x060 v s) s.cur.core s.cur.slot 0x060 =
    some (BitVec.ofNat 64 (max 2000 (min 3600 (v.toNat % 4096))))) ∧
  (∀ n s v, n ≠ 0x041 → SameBytes s (srPut n v s) ∧ ∀ c i, SameRegisters s (srPut n v s) c i)

/-- R94, R104, R106, R386, R308, R47, R390, R420: the steps that a register access consists of. -/
def Obligations.RegisterSteps : Prop :=
  (∀ (vpn : BitVec 44) s, let rid := (curSlot s).region
    let a := 4096 * vpn.toNat
    let hit := fun (e : TlbEntry) => e.region = rid ∧ e.va ≤ a ∧ a < e.va + e.size
    ∃ t, exec (.tlbinvPage vpn) s = .next t ∧ (getCore t s.cur.core).tlbBusy = some s.nextFlight ∧
      (∀ c e, e ∈ (getCore t c).tlb ↔ e ∈ (getCore s c).tlb ∧ ¬ hit e) ∧
      (∀ k e, e ∈ (getCluster t k).tlb ↔ e ∈ (getCluster s k).tlb ∧ ¬ hit e) ∧
      (∀ k e, e ∈ (getCluster t k).mxTlb ↔ e ∈ (getCluster s k).mxTlb ∧ ¬ hit e) ∧ SameBytes s t) ∧
  (∀ s, let rid := (curSlot s).region
    ∃ t, exec .tlbinvRegion s = .next t ∧ (getCore t s.cur.core).tlbBusy = some s.nextFlight ∧
      (∀ c e, e ∈ (getCore t c).tlb ↔ e ∈ (getCore s c).tlb ∧ e.region ≠ rid) ∧
      (∀ k e, e ∈ (getCluster t k).mxTlb ↔ e ∈ (getCluster s k).mxTlb ∧ e.region ≠ rid) ∧ SameBytes s t) ∧
  (∀ s, ∃ t, exec .tlbinvEveryRegion s = .next t ∧ (getCore t s.cur.core).tlbBusy = some s.nextFlight ∧
    (∀ c, (getCore t c).tlb = []) ∧ (∀ k, (getCluster t k).tlb = [] ∧ (getCluster t k).mxTlb = []) ∧ SameBytes s t) ∧
  (∀ s core n, (getCore s core).tlbBusy = some n → accessesLeft s n = false →
    ∃ t, exec (.tlbInvalidationDone core) s = .next t ∧ (getCore t core).tlbBusy = none ∧ SameBytes s t) ∧
  (∀ (vpn : BitVec 44) s lf d c, let rid := (curSlot s).region
    pageNow s rid (4096 * vpn.toNat) = some (lf, d, c) →
    ((∃ h ∈ holdQueue s d c, heldOf (rootOf s rid) lf h = true) → ∃ t, exec (.holdrel vpn) s = .next t ∧
      (getCore t s.cur.core).holdBusy = some (rid, 4096 * vpn.toNat) ∧ t.mem = s.mem) ∧
    ((∀ h ∈ holdQueue s d c, heldOf (rootOf s rid) lf h = false) →
      let r : Released := ⟨c, rootOf s rid, lf.va, lf.size⟩
      ∃ t, exec (.holdrel vpn) s = .next t ∧
      (stillBlocked s r = true → r ∉ (getDie s d).released → (getDie t d).released = (getDie s d).released ++ [r]) ∧
      ((stillBlocked s r = false ∨ r ∈ (getDie s d).released) → (getDie t d).released = (getDie s d).released) ∧
      t.mem = s.mem)) ∧
  (∀ s core rid va lf d c, (getCore s core).holdBusy = some (rid, va) → pageNow s rid va = some (lf, d, c) →
    ∃ t, exec (.holdReleaseDone core) s = .next t ∧ (getCore t core).holdBusy = none ∧
      ∀ h ∈ holdQueue t d c, heldOf (rootOf s rid) lf h = false) ∧
  (∀ (v : Word) s, let pa := v.toNat / 2 ^ 7 % 2 ^ 45 * 128
    let img := tableImage s pa
    ((inDram s pa = false ∨ tableOk s img = false) → ∃ t, exec (.ctreq v) s = .next t ∧
      (getCore t s.cur.core).ctResult = true ∧ t.ctChange = s.ctChange ∧ SameBytes s t) ∧
    (inDram s pa = true → tableOk s img = true → ∃ t, exec (.ctreq v) s = .next t ∧
      (getCore t s.cur.core).ctBusy = true ∧ t.ctChange = some ⟨s.cur.core, img, 0⟩ ∧ SameBytes s t)) ∧
  (∀ s core c, s.ctChange = some c → c.left = 0 → networkEmpty s = true →
    ∃ t, exec (.connectionTableSwitch core) s = .next t ∧
      (∀ d e, d < 8 → e < 16 → (getCircuit t d e).dir = tableDir c.table d e) ∧
      ((∀ p ∈ tableCircuits c.table, p ∈ tableCircuits (currentTable s)) → t.ctChange = none ∧ (getCore t core).ctBusy = false) ∧
      ((∃ p ∈ tableCircuits c.table, p ∉ tableCircuits (currentTable s)) →
        ∃ f ∈ t.flights, f.act = .circuitRetrained core ∧ f.timed = true ∧ f.due = s.cycle + 40000)) ∧
  (∀ s core c, s.ctChange = some c →
    (c.left ≤ 1 → ∃ t, exec (.circuitRetrained core) s = .next t ∧ t.ctChange = none ∧ (getCore t core).ctBusy = false ∧
      (getCore t core).ctResult = false ∧ ∀ f ∈ t.flights, f.stopped = false) ∧
    (2 ≤ c.left → ∃ t, exec (.circuitRetrained core) s = .next t ∧ t.ctChange = some { c with left := c.left - 1 } ∧
      OneTimed s t (s.cycle + 40000) (.circuitRetrained core))) ∧
  (∀ (v : Word) s, exec (.mxlotWrite v) s = .next (srPut 0x032 v s) ∧ exec (.rqlotWrite v) s = .next (srPut 0x031 v s) ∧
    exec (.fpctlWrite v) s = .next (srPut 0x012 v s) ∧ exec (.pwrcapWrite v) s = .next (srPut 0x060 v s) ∧
    exec (.ctreq v) s = .next (srPut 0x042 v s)) ∧
  (∀ s rid r, getRegion s rid = some r → s.mem.wf = true →
    ∃ t, exec (.alogcntClear rid) s = .next t ∧ logCount t r = 0 ∧ (regStatus s r = 3 → regStatus t r = 2) ∧
      (regStatus s r ≠ 3 → regStatus t r = regStatus s r) ∧ t.cores = s.cores)

/-- R341, R342: the TSYS words: illegal on a compute core, their statuses, and their effects on a task in a slot. R337-R340,
R342: the stop of a task that may stop: a kill empties its slot, a pre-emption saves it into the lowest free context, and
the form that asked is answered. -/
def Obligations.TaskControl : Prop :=
  (
  (∀ s rd st, tsysAnswered s (tsysAnswer rd st s) rd st ∧ (tsysAnswer rd st s).mem = s.mem) ∧
  (∀ (rd ra rb : XField) s, isCompute s.cur.core = true →
    (operandsFree s [ra, rb] (.x rd) = true → Traps (.tctxrd rd ra rb) s ⟨1, 0, 0, 0⟩ ∧
      Traps (.tctxwr rd ra rb) s ⟨1, 0, 0, 0⟩ ∧ Traps (.tresume rd ra rb) s ⟨1, 0, 0, 0⟩ ∧
      Traps (.tpreempt rd ra rb) s ⟨1, 0, 0, 0⟩) ∧
    (operandsFree s [ra] (.x rd) = true → Traps (.tkill rd ra) s ⟨1, 0, 0, 0⟩)) ∧
  (∀ (rd ra rb : XField) s s1 g b, isCompute s.cur.core = false → operandsFree s [ra, rb] (.x rd) = true →
    soundSources s [rb] = true → sourceWords [ra, rb] s = some ([g, b], s1) →
    let c := s1.cur.core
    let a := b.toNat
    (a % 64 ≠ 0 → Traps (.tctxrd rd ra rb) s ⟨3, 0, 0, b⟩ ∧ Traps (.tctxwr rd ra rb) s ⟨3, 0, 0, b⟩) ∧
    (a % 64 = 0 → 0x7C000 < a + 3328 → Traps (.tctxrd rd ra rb) s ⟨4, 0, 0, b⟩ ∧ Traps (.tctxwr rd ra rb) s ⟨4, 0, 0, b⟩) ∧
    (a % 64 = 0 → a + 3328 ≤ 0x7C000 → spBad s s.cur.core a 3328 = true → Traps (.tctxwr rd ra rb) s ⟨11, 0, 0, b⟩) ∧
    (a % 64 = 0 → a + 3328 ≤ 0x7C000 → stallBehind g s1 = .error .stall →
      Waits (.tctxrd rd ra rb) s ∧ (spBad s s.cur.core a 3328 = false → Waits (.tctxwr rd ra rb) s)) ∧
    (a % 64 = 0 → a + 3328 ≤ 0x7C000 → stallBehind g s1 = .ok ((), s1) →
      let im := wordsOf 352 (spRead s1 c a 2816)
      let q := wordsOf 64 (spRead s1 c (a + 2816) 512)
      let sound := spBad s s.cur.core a 3328 = false
      (findTarget s1 c g = none → exec (.tctxrd rd ra rb) s = .next (tsysAnswer rd 1 s1) ∧
        (sound → bufferBad im q = false → exec (.tctxwr rd ra rb) s = .next (tsysAnswer rd 1 s1))) ∧
      (sound → bufferBad im q = true → exec (.tctxwr rd ra rb) s = .next (tsysAnswer rd 5 s1)) ∧
      (∀ t0, findTarget s1 c g = some t0 → contextOf s1 t0 = none →
        exec (.tctxrd rd ra rb) s = .next (tsysAnswer rd 2 s1)) ∧
      (∀ t0 x y, findTarget s1 c g = some t0 → contextOf s1 t0 = some (x, y) → (getCore s1 c).sp.wf = true →
        ∃ t, exec (.tctxrd rd ra rb) s = .next t ∧ tsysAnswered s1 t rd 0 ∧
          spRead t c a (8 * (x ++ y).length) = bytesOf (x ++ y) ∧ t.mem = s1.mem) ∧
      (∀ d i, targetSlot s1 g d i → sound → bufferBad im q = false →
        (isStopped (getSlot s1 d i) = false → exec (.tctxwr rd ra rb) s = .next (tsysAnswer rd 2 s1)) ∧
        (isStopped (getSlot s1 d i) = true → (d ≠ c ∨ i ≠ s1.cur.slot) →
          ∃ t, exec (.tctxwr rd ra rb) s = .next t ∧ tsysAnswered s1 t rd 0 ∧ let k := getSlot t d i
            k.pc = BitVec.ofNat 64 ((im.getD 1 0).toNat % 2 ^ 21) ∧ k.gtid = (getSlot s1 d i).gtid ∧
            (∀ n, 0 < n → n < 48 → getX k n = im.getD (16 + n) 0) ∧ (∀ n, n < 32 → getF k n = im.getD (64 + n) 0) ∧
            k.spbad = im.getD 4 0 &&& 0xC0000000FFFFFFFF#64)))) ∧
  (∀ (rd ra rb : XField) s s1 g m, isCompute s.cur.core = false → operandsFree s [ra, rb] (.x rd) = true →
    sourceWords [ra, rb] s = some ([g, m], s1) →
    let c := s1.cur.core
    let core := m.toNat / 2 ^ 16 % 2 ^ 12
    let bad := 2 ^ 28 ≤ m.toNat ∨ m.toNat / 2 % 2 ^ 15 ≠ 0 ∨ resumeCoreOk s1 (gtidRegion g) core = false
    let free := stallBehind g s1 = .ok ((), s1)
    (free → bad → exec (.tresume rd ra rb) s = .next (tsysAnswer rd 5 s1)) ∧
    (free → ¬ bad → findTarget s1 c g = none → exec (.tresume rd ra rb) s = .next (tsysAnswer rd 1 s1)) ∧
    (∀ d i, free → ¬ bad → targetSlot s1 g d i →
      ((isStopped (getSlot s1 d i) = false ∨ core ≠ 0xFFF) → exec (.tresume rd ra rb) s = .next (tsysAnswer rd 2 s1)) ∧
      (isStopped (getSlot s1 d i) = true → core = 0xFFF → (d ≠ c ∨ i ≠ s1.cur.slot) →
        ∃ t, exec (.tresume rd ra rb) s = .next t ∧ tsysAnswered s1 t rd 0 ∧ let k := getSlot s1 d i
          (getSlot t d i).park = (if k.nextSw then .switchMark else .none) ∧ (getSlot t d i).x = k.x ∧
          (getSlot t d i).pc = (if m.toNat % 2 = 1 then k.pc + BitVec.ofNat 64 (Sys2Proof.Machine.bundleSize s1 d k.pc)
            else k.pc))) ∧
    (stallBehind g s1 = .error .stall → Waits (.tresume rd ra rb) s ∧ Waits (.tpreempt rd ra rb) s) ∧
    (free →
      (2 ≤ m.toNat → exec (.tpreempt rd ra rb) s = .next (tsysAnswer rd 5 s1)) ∧
      (m.toNat < 2 → findTarget s1 c g = none → exec (.tpreempt rd ra rb) s = .next (tsysAnswer rd 1 s1)) ∧
      (∀ d i, m.toNat < 2 → targetSlot s1 g d i →
        (serialTask (getCore s1 d) (getSlot s1 d i).origin = true → exec (.tpreempt rd ra rb) s = .next (tsysAnswer rd 3 s1)) ∧
        (serialTask (getCore s1 d) (getSlot s1 d i).origin = false → d = c → i = s1.cur.slot →
          exec (.tpreempt rd ra rb) s = .next (tsysAnswer rd 2 s1)) ∧
        (serialTask (getCore s1 d) (getSlot s1 d i).origin = false → (d ≠ c ∨ i ≠ s1.cur.slot) →
          ∃ t, exec (.tpreempt rd ra rb) s = .next t ∧ waitsForAnswer s1 t rd ∧ (getSlot t d i).stop = some false ∧
            (getSlot t d i).stopRequeue = (m.toNat == 1) ∧ (getSlot t d i).stopper = some (curWho s1) ∧
            (getSlot t d i).x = (getSlot s1 d i).x ∧ t.flights = s1.flights)))) ∧
  (∀ (rd ra : XField) s s1 g, isCompute s.cur.core = false → operandsFree s [ra] (.x rd) = true →
    sourceWords [ra] s = some ([g], s1) →
    let c := s1.cur.core
    (stallBehind g s1 = .error .stall → Waits (.tkill rd ra) s) ∧
    (stallBehind g s1 = .ok ((), s1) →
      (findTarget s1 c g = none → exec (.tkill rd ra) s = .next (tsysAnswer rd 1 s1)) ∧
      (∀ q d, findTarget s1 c g = some (.queued d q) → exec (.tkill rd ra) s = .next (tsysAnswer rd 0 (killQueued s1 d q))) ∧
      (∀ d i, targetSlot s1 g d i →
        (d = c → i = s1.cur.slot → exec (.tkill rd ra) s = .next (tsysAnswer rd 2 s1)) ∧
        ((d ≠ c ∨ i ≠ s1.cur.slot) → ∃ t, exec (.tkill rd ra) s = .next t ∧ waitsForAnswer s1 t rd ∧
          (getSlot t d i).stop = some true ∧ (getSlot t d i).stopper = some (curWho s1) ∧ t.flights = s1.flights))))) ∧
  (
  ∀ s c i who, stopReady s c i = true → (getSlot s c i).trapNext = none → (getCore s c).gang = none →
    (getSlot s c i).stopper = some who →
    ((getSlot s c i).stop = some true → ∃ t, exec (.taskStop c i) s = .next t ∧ getSlot t c i = Slot.empty ∧
      inFlight t (.barrierAnswer who 0)) ∧
    ((getSlot s c i).stop = some false → ∀ r n, getRegion s (getSlot s c i).region = some r →
      (freeContext s r = some n → ∃ t v, exec (.taskStop c i) s = .next t ∧ getSlot t c i = Slot.empty ∧
        t.saved = s.saved ++ [v] ∧ v.ctx = n ∧ v.region = (getSlot s c i).region ∧ v.core = c ∧
        v.rest.gtid = (getSlot s c i).gtid ∧ v.rest.pc = (getSlot s c i).pc ∧ inFlight t (.barrierAnswer who 0)) ∧
      (freeContext s r = none → ∃ t, exec (.taskStop c i) s = .next t ∧ (getSlot t c i).stop = none ∧
        (getSlot t c i).pc = (getSlot s c i).pc ∧ (getSlot t c i).x = (getSlot s c i).x ∧
        inFlight t (.barrierAnswer who 4))))

/-- R314, R315, R317: START, KILL and completion: a refused START changes no memory and is answered with its result; one that
is not lists its region with one start task for each granted die; KILL begins the end of a region; a completed region is
gone, its joiners resume with its final status, and the host is answered. -/
def Obligations.Regions : Prop :=
  (∀ (m : Msg) s, startPlace s m = none →
    ∃ t, exec (.start m) s = .next t ∧ t.mem = s.mem ∧ t.regions = s.regions ∧
      (bit (m.pay.getD 1 0#64).toNat 8 = true → startReplied t m [m.pay.getD 0 0#64, 1#64])) ∧
  (∀ (m : Msg) s pa va n, startPlace s m = some (pa, va) → startOutcome s m pa va = .error n → startLines s m = [] →
    ∃ t, exec (.start m) s = .next t ∧ t.mem = s.mem ∧ t.regions = s.regions ∧
      (bit (m.pay.getD 1 0#64).toNat 8 = true → startReplied t m [m.pay.getD 0 0#64,
        BitVec.ofNat 64 ((startOf s m pa va).id % 2 ^ 16 * 2 ^ 48 + n % 256)]) ∧
      (mread s.mem pa 8 / 2 ^ 24 % 256 = 0 → ∀ c i rd, (getSlot s c i).park = .join rd pa →
        goesOnWith s t c i rd (BitVec.ofNat 64 (0xFF * 2 ^ 56 + n % 256 * 2 ^ 48)))) ∧
  (∀ (m : Msg) s pa va l, startPlace s m = some (pa, va) → startOutcome s m pa va = .ok l → startLines s m = [] →
    let r := startOf s m pa va
    ∃ t g, exec (.start m) s = .next t ∧ getRegion t r.id = some g ∧ g.dies = r.dies ∧ g.clusters = r.clusters ∧
      g.rcbPa = pa ∧ g.entry = r.entry ∧ g.dying = false ∧
      (r.replay = 0 → regStatus t g = 2) ∧
      (∀ d ∈ regionDies t g, inFlight t (.spawnPlace d none ⟨r.id, .spawn 0 (BitVec.ofNat 64 va) r.entry 0 d s.cycle true⟩)) ∧
      (bit (m.pay.getD 1 0#64).toNat 8 = true →
        startReplied t m [m.pay.getD 0 0#64, BitVec.ofNat 64 (r.id % 2 ^ 16 * 2 ^ 48)])) ∧
  (∀ (m : Msg) s pa va r, startPlace s m = some (pa, va) → regionAt s pa = some r → getRegion s r.id = some r →
    let may := fromHost m = true ∨ (r.parent ≠ 0 ∧ r.parent = gtidRegion m.who.gtid)
    (¬ may → exec (.kill m) s = .next s) ∧
    (may → ∃ t g, exec (.kill m) s = .next t ∧ getRegion t r.id = some g ∧ g.dying = true ∧ g.killCause.isSome = true ∧
      (r.killCause.isSome = true → g.killCause = r.killCause) ∧
      ∀ c i, (getSlot t c i).held = true → (getSlot t c i).region = r.id → (getSlot t c i).stop = some true)) ∧
  (∀ (m : Msg) s, (startPlace s m = none ∨ ∀ p, startPlace s m = some p → regionAt s p.1 = none) →
    exec (.kill m) s = .next s) ∧
  (∀ rid s, canComplete s rid = false → exec (.regionComplete rid) s = .next s) ∧
  (∀ rid s r, getRegion s rid = some r → r.id = rid → canComplete s rid = true → r.parent = 0 →
    let f := if logCount s r ≠ 0 then (6, if rcbField s r 4 60 60 = 1 then 5 else 4) else r.killCause.getD (4, 0)
    ∃ t, exec (.regionComplete rid) s = .next t ∧ getRegion t rid = none ∧
      startReplied t r.startedBy [if r.conf then 0#64 else r.startedBy.pay.getD 0 0#64,
        BitVec.ofNat 64 (rid % 2 ^ 16 * 2 ^ 48 + (0x80 + f.1) % 256)] ∧
      ∃ w : Word, w.toNat / 2 ^ 56 = f.1 % 256 ∧ w.toNat / 2 ^ 48 % 256 = f.2 % 256 ∧
        ∀ c i rd, (getSlot s c i).park = .join rd r.rcbPa → goesOnWith s t c i rd w)

/-- R371-R374, R108: the host's reads, writes and messages, its writes to the control page, and a snoop from an expander.
R376-R380: the security processor: one request at a time, its results, the report of ATTEST with the advanced leaf
counter, the key that KEYLOAD installs and KEYFREE removes. -/
def Obligations.HostPort : Prop :=
  (
  (∀ port addr s, exec (.expanderSnoop port addr) s = .next { s with outbox := s.outbox ++ [.snoopReply port addr] }) ∧
  (∀ pa (d : List Byte) len cached s, s.mem.wf = true →
    (inHostWindow pa = true ∨ (inDram s pa = true ∧ inReserved pa = false)) →
    ∃ t, exec (.hostMemoryAccess pa (some d) len cached) s = .next t ∧ mgets t.mem pa d.length = d ∧
      (∀ j, j < pa ∨ pa + d.length ≤ j → mget t.mem j = mget s.mem j) ∧ t.cores = s.cores ∧ t.outbox = s.outbox) ∧
  (∀ pa w len cached s, inHostWindow pa = false → (inDram s pa = false ∨ inReserved pa = true) →
    exec (.hostMemoryAccess pa w len cached) s = .next s) ∧
  (∀ pa len cached s, inHostWindow pa = true → exec (.hostMemoryAccess pa none len cached) s = .next s) ∧
  (∀ pa len s, inHostWindow pa = false → inDram s pa = true → inReserved pa = false →
    exec (.hostMemoryAccess pa none len false) s = .next { s with outbox := s.outbox ++ [.hostData pa (mgets s.mem pa len)] } ∧
    ∃ t, exec (.hostMemoryAccess pa none len true) s = .next t ∧ t.mem = s.mem ∧ t.cores = s.cores ∧
      t.outbox.getLast? = some (.hostData pa (mgets s.mem pa len)) ∧
      ∀ x, 64 * x < pa + len → pa < 64 * x + 64 → x ∈ snoopLines t (64 * x)) ∧
  (∀ off (words : List Word) s, let h := words.getD 0 0#64
    let good := off % 64 = 0 ∧ words.length = 8 ∧ hdrTag h < 0xFC
    (s.host.stage < 5 → exec (.hostMessageWrite off words) s = .next s) ∧
    (5 ≤ s.host.stage → ¬ good → exec (.hostMessageWrite off words) s =
      .next { s with host := { s.host with hmdrop := (s.host.hmdrop + 1) &&& 0xFFFFFFFF#64 } }) ∧
    (5 ≤ s.host.stage → good → ∃ t m, exec (.hostMessageWrite off words) s = .next t ∧ OneSent s t (.messageArrive m) ∧
      m.pay = (words.drop 1).take (hdrNpay h) ∧ hdrScore m.hdr = 4095 ∧ hdrSchip m.hdr = s.chipId % 256 ∧
      m.hdr.toNat % 2 ^ 32 = h.toNat % 2 ^ 31 ∧ m.counted = false ∧ t.mem = s.mem)) ∧
  (∀ (v : Word) s, exec (.hrheadWrite v) s = .next { s with host := { s.host with hrhead := v &&& 0xFFFF#64, intOut := false } }) ∧
  (∀ (v : Word) s, let w := fun (off : BitVec 12) => exec (.registerWrite true off v) s
    w 0x000 = .next { s with host := { s.host with hrbase := v &&& 0xFFFFFFFFFFFFF000#64 } } ∧
    w 0x008 = .next { s with host := { s.host with hrsize := v &&& 0x1FFFF#64 } } ∧
    w 0x010 = exec (.hrheadWrite v) s ∧
    w 0x038 = .next { s with host := { s.host with secbuf := v &&& 0xFFFFFFFFFFFFF000#64 } } ∧
    w 0x048 = .next { s with host := { s.host with rssel := v &&& 0xFFFF#64 } } ∧
    (s.host.busy = true → w 0x030 = .next s) ∧
    (s.host.busy = false → v.toNat % 16 = 1 → w 0x030 = exec (.attest (v.toNat / 2 ^ 4 % 2 ^ 16)) s) ∧
    (s.host.busy = false → v.toNat % 16 = 2 →
      w 0x030 = exec (.keyload (v.toNat / 2 ^ 4 % 2 ^ 16) (v.getLsbD 29)) s) ∧
    (s.host.busy = false → v.toNat % 16 = 3 →
      w 0x030 = exec (.keyfree (v.toNat / 2 ^ 4 % 2 ^ 16) (v.toNat / 2 ^ 20 % 2 ^ 9)) s) ∧
    (s.host.busy = false → (v.toNat % 16 = 0 ∨ 3 < v.toNat % 16) → ∃ t, w 0x030 = .next t ∧ secAnswered t 1 0 ∧ t.mem = s.mem) ∧
    (∀ off : BitVec 12, off ∉ ([0x000, 0x008, 0x010, 0x030, 0x038, 0x048] : List (BitVec 12)) → w off = .next s))) ∧
  (
  (∀ region s, (s.host.busy = true → exec (.attest region) s = .next s) ∧
    (s.host.busy = false → region ≠ 0 → getRegion s region = none →
      ∃ t, exec (.attest region) s = .next t ∧ secAnswered t 5 0 ∧ t.mem = s.mem ∧ t.host.leaf = s.host.leaf) ∧
    (s.host.busy = false → (region = 0 ∨ (getRegion s region).isSome = true) → 2 ^ 20 ≤ s.host.leaf →
      ∃ t, exec (.attest region) s = .next t ∧ secAnswered t 3 0 ∧ t.mem = s.mem ∧ t.host.leaf = s.host.leaf) ∧
    (s.host.busy = false → (region = 0 ∨ (getRegion s region).isSome = true) → s.host.leaf < 2 ^ 20 → s.mem.wf = true →
      let at_ := 2 ^ 49 + s.host.secbuf.toNat
      ∃ t, exec (.attest region) s = .next t ∧ secAnswered t 0 0 ∧ t.host.leaf = s.host.leaf + 1 ∧ t.cores = s.cores ∧
        mgets t.mem (at_ + 64) 8 = natLe 8 1 ∧ mgets t.mem (at_ + 72) 32 = mgets s.mem at_ 32 ∧
        (∀ j, j < at_ + 64 → mget t.mem j = mget s.mem j))) ∧
  (∀ region dbg s, (s.host.busy = true → exec (.keyload region dbg) s = .next s) ∧
    (s.host.busy = false →
      (region = 0 → ∃ t, exec (.keyload region dbg) s = .next t ∧ secAnswered t 1 0 ∧ t.host.keys = s.host.keys) ∧
      (region ≠ 0 →
        let got := Config.kemDecapsulate (mgets s.mem (2 ^ 49 + s.host.secbuf.toNat) 1568)
        (got = none → ∃ t, exec (.keyload region dbg) s = .next t ∧ secAnswered t 4 0 ∧ t.host.keys = s.host.keys) ∧
        (∀ k, got = some k → (∀ n, 0 < n → n < 512 → (tfind s.host.keys n).isSome = true) →
          ∃ t, exec (.keyload region dbg) s = .next t ∧ secAnswered t 2 0 ∧ t.host.keys = s.host.keys) ∧
        (∀ k n, got = some k → 0 < n → n < 512 → tfind s.host.keys n = none →
          (∀ m, 0 < m → m < n → (tfind s.host.keys m).isSome = true) →
          ∃ t, exec (.keyload region dbg) s = .next t ∧ secAnswered t 0 n ∧
            tfind t.host.keys n = some ⟨region, shake256 (k ++ Config.slotBytes n), dbg⟩ ∧ t.mem = s.mem)))) ∧
  (∀ region slot s, (s.host.busy = true → exec (.keyfree region slot) s = .next s) ∧
    (s.host.busy = false →
      (tfind s.host.keys slot = none → ∃ t, exec (.keyfree region slot) s = .next t ∧ secAnswered t 1 0) ∧
      (∀ k, tfind s.host.keys slot = some k → (getRegion s k.region).isSome = true →
        ∃ t, exec (.keyfree region slot) s = .next t ∧ secAnswered t 1 0 ∧ t.host.keys = s.host.keys) ∧
      (∀ k, tfind s.host.keys slot = some k → getRegion s k.region = none →
        ∃ t, exec (.keyfree region slot) s = .next t ∧ secAnswered t 0 0 ∧ tfind t.host.keys slot = none))) ∧
  (∀ result rslot s, exec (.securityRequestDone result rslot) s =
    .next { s with host := { s.host with busy := false, result := result, rslot := rslot } }))

/-- R389, R390, R375, R376: the governor's duty by the last ten readings, the samples of power and energy, and a package
reset, which keeps the leaf counters, and at which each die signs with a leaf of its key or is excluded. What firmware
reports of a boot comes in from outside (log 4). -/
def Obligations.PowerAndBoot : Prop :=
  (∀ watts s, let l := (s.pwrSum ++ [watts]).drop (s.pwrSum.length + 1 - 10)
    let total := l.foldl (· + ·) 0
    let cap := s.pwrcap.toNat
    ∃ t, exec (.governorTick watts) s = .next t ∧ t.pwrSum = l ∧ t.mem = s.mem ∧ t.cores = s.cores ∧
      (cap * l.length < total → t.duty = max 16 (s.duty - 16)) ∧
      (total ≤ cap * l.length → total + 100 * l.length < cap * l.length → t.duty = min 256 (s.duty + 8)) ∧
      (total ≤ cap * l.length → cap * l.length ≤ total + 100 * l.length → t.duty = s.duty)) ∧
  (∀ pkg (die : List Nat) s, ∃ t, exec (.telemetrySample pkg die) s = .next t ∧ t.pkgPwr = pkg ∧ t.mem = s.mem ∧
    t.cores = s.cores ∧ ∀ d w, die[d]? = some w → (getDie t d).pwr = w ∧
      (getDie t d).energy = (getDie s d).energy + BitVec.ofNat 64 (w * 1000)) ∧
  (∀ (k : BootPkt) s, ∃ t, exec (.packageReset k) s = .next t ∧ t.mem = [] ∧ t.cores = [] ∧ t.clusters = [] ∧ t.regions = [] ∧
    t.cycle = 0 ∧ (∀ f ∈ t.flights, f.timed = true ∧ f.due = 0 ∧ ∃ ch, ch < 64 ∧ f.act = .refreshWindow ch 0) ∧ t.chipId = k.chip ∧ t.pwrcap = 3600#64 ∧ t.host.leaf = s.host.leaf ∧
    (k.err ≠ 0 → ∀ d, (getDie t d).leaf = (getDie s d).leaf) ∧
    t.host.keys = [] ∧ t.host.err = k.err ∧
    (k.err ≠ 0 → t.host.stage = 1) ∧
    (k.err = 0 → t.host.stage = 5 ∧ ∀ d, d < 8 → ∀ b, k.dies.find? (fun e => e.die == d) = some b →
      (getDie t d).fused = b.fused ∧ (getDie t d).leaf = min (2 ^ 20) ((getDie s d).leaf + 1) ∧
      ((getDie t d).excluded = true ↔ b.live = false ∨ 2 ^ 20 ≤ (getDie s d).leaf) ∧
      (b.live = true → (getDie s d).leaf < 2 ^ 20 → (∀ ch, ch < 8 → inFlight t (.refreshWindow (8 * d + ch) 0)) ∧
        (getDie t d).table = liveCores t d ∧ (getDie t d).live = (liveCores t d).length ∧ (getDie t d).gen = 1 ∧
        (getDie t d).homes = (liveCores t d).map fun c => (c, c))))

/-- R348, R351: an error found by scrubbing is corrected and counted, or poisons its line or unit and is counted; a failed
core is sealed: it is live no more, its scratchpad and slots are gone, its die's core table is rebuilt. -/
def Obligations.ScrubbingAndSealing : Prop :=
  (∀ core addr s, (∃ t, exec (.sramScrub core addr false) s = .next t ∧ countedOne s t (dieOf core) 0 ∧ t.mem = s.mem ∧
      t.cores = s.cores) ∧
    (∃ t, exec (.sramScrub core addr true) s = .next t ∧ countedOne s t (dieOf core) 1 ∧ t.mem = s.mem ∧
      spBad t core (64 * (addr / 64)) 1 = true ∧ (getCore t core).sp = (getCore s core).sp ∧
      (tget (getCore s core).lineOwner (addr / 64) 0 ≠ 0 → ∃ q, inFlight t (.errorNotice
        ⟨controlOf core, ⟨core, 8, 0, 0⟩, 8, 4, core, tget (getCore s core).lineOwner (addr / 64) 0,
          BitVec.ofNat 64 (64 * (addr / 64)), core, q⟩)))) ∧
  (∀ pa s, (inDram s pa = false → ∀ bad, exec (.dramScrub pa bad) s = .next s) ∧
    (inDram s pa = true →
      (∃ t, exec (.dramScrub pa false) s = .next t ∧ countedOne s t (paDie pa) 2 ∧ t.mem = s.mem ∧
        t.dramPoison = s.dramPoison) ∧
      (∃ t, exec (.dramScrub pa true) s = .next t ∧ countedOne s t (paDie pa) 3 ∧ t.mem = s.mem ∧ physBad t pa 1 = true))) ∧
  (∀ core s, (3136 ≤ core ∨ (getDie s (dieOf core)).excluded = true) → exec (.coreSeal core) s = .next s) ∧
  (∀ core s, core < 3136 → (getDie s (dieOf core)).excluded = false →
    ∃ t, exec (.coreSeal core) s = .next t ∧ (getCore t core).sealed = true ∧ liveCore t core = false ∧
      (getCore t core).sp = [] ∧ (getDie t (dieOf core)).table = liveCores t (dieOf core) ∧
      (∀ i, (getSlot t core i).held = true → (getSlot t core i).stop = some true) ∧ (getCore t core).mbox = [] ∧
      (getDie t (dieOf core)).gen = ((getDie s (dieOf core)).gen + 1) % 65536)

/-- R383-R385: a damaged flit is retried and counted, a stalled output spills and drains, a circuit pauses for its
calibration. R387, R388: what a port does with a frame, its retransmission, a port that goes down, one that comes up, and
a chip that no port reaches. -/
def Obligations.PackageNetwork : Prop :=
  (
  (∀ n s, exec (.flitReceive n true) s = .next s) ∧
  (∀ n s f c d, s.flights.find? (fun f => f.id == n) = some f → f.chan = some c → placeDie c.dst = some d →
    ∃ t, exec (.flitReceive n false) s = .next t ∧ countedOne s t d 7 ∧ t.flights = s.flights ∧ t.mem = s.mem ∧
      t.cores = s.cores) ∧
  (∀ die ep s, ∃ t, exec (.outputSpill die ep) s = .next t ∧ (getCircuit t die ep).spilling = true ∧
    (∀ e, e ≠ ep → getCircuit t die e = getCircuit s die e) ∧ t.mem = s.mem ∧ t.cores = s.cores ∧ t.flights = s.flights) ∧
  (∀ die ep s, let c := getCircuit s die ep
    ((c.paused = true ∨ c.retraining = true) → exec (.spillDrain die ep) s = .next s) ∧
    (c.paused = false → c.retraining = false → ∃ t, exec (.spillDrain die ep) s = .next t ∧
      getCircuit t die ep = { c with spilling := false } ∧ t.mem = s.mem ∧ t.cores = s.cores ∧ t.flights = s.flights)) ∧
  (∀ die ep s, ∃ t, exec (.calibrationPause die ep) s = .next t ∧
    (∀ n ∈ circuitEnds s die ep, (getCircuit t (n / 16) (n % 16)).paused = true) ∧
    OneTimed s t (s.cycle + 4000) (.calibrationEnd die ep) ∧ t.mem = s.mem ∧ t.cores = s.cores) ∧
  (∀ die ep s, ∃ t, exec (.calibrationEnd die ep) s = .next t ∧
    (∀ n ∈ circuitEnds s die ep, (getCircuit t (n / 16) (n % 16)).paused = false) ∧ t.flights = s.flights ∧
    t.mem = s.mem ∧ t.cores = s.cores)) ∧
  (
  (∀ (f : FramePkt) s, let k := getPort s f.port
    ((k.up = false ∨ (f.ethertype = 0x9A17 ∧ f.dstChip ≠ s.chipId)) → exec (.frameReceive f) s = .next s) ∧
    (k.up = true → f.ethertype ≠ 0x9A17 → ∃ t, exec (.frameReceive f) s = .next t ∧ t.cores = s.cores ∧ t.mem = s.mem ∧
      t.flights = s.flights ∧ t.outbox = s.outbox ∧ getPort t f.port = { k with dropped := k.dropped + 1 }) ∧
    (k.up = true → f.ethertype = 0x9A17 → f.dstChip = s.chipId → f.nak = false → f.ackOnly = false →
      (f.fseq ≠ k.expect → ∃ t, exec (.frameReceive f) s = .next t ∧ (getPort t f.port).expect = k.expect ∧
        t.outbox = s.outbox ++ [.frameAck f.port k.expect true] ∧ t.cores = s.cores ∧ t.mem = s.mem) ∧
      (f.fseq = k.expect → ∃ t, exec (.frameReceive f) s = .next t ∧
        (getPort t f.port).expect = (k.expect + 1) % 2 ^ 24 ∧
        t.outbox = s.outbox ++ [.frameAck f.port ((k.expect + 1) % 2 ^ 24) false] ∧ t.cores = s.cores ∧ t.mem = s.mem ∧
        ∀ m, f.msgs = [m] →
          let n := tget s.soSeq ((1 + hdrSchip m.hdr * 4096 + hdrScore m.hdr) * 4096 + hdrDcore m.hdr) 0
          ((hdrSeq m.hdr + 4096 - n) % 4096 < 2048 → inFlight t (.messageArrive { m with counted := false })) ∧
          (2048 ≤ (hdrSeq m.hdr + 4096 - n) % 4096 → ∀ x ∈ t.flights, x ∈ s.flights ∨ x.timed = true)))) ∧
  (∀ p s, let k := getPort s p
    ((k.up = false ∨ k.unacked = [] ∨ s.cycle < k.oldestAt + 20000) → exec (.retransmitTimeout p) s = .next s) ∧
    (k.up = true → k.unacked ≠ [] → k.oldestAt + 20000 ≤ s.cycle → ∃ t, exec (.retransmitTimeout p) s = .next t ∧
      getPort t p = { k with oldestAt := s.cycle } ∧ OneTimed s t (s.cycle + 20000) (.retransmitTimeout p) ∧
      ∀ e ∈ k.unacked, .frame p e.1 ∈ t.outbox ∧ ∀ m ∈ e.2, .chip k.far m ∈ t.outbox)) ∧
  (∀ p s, let k := getPort s p
    ((k.up = false ∨ k.unacked = [] ∨ s.cycle < k.lastAckAt + 200000) → exec (.portDown p) s = .next s) ∧
    (k.up = true → k.unacked ≠ [] → k.lastAckAt + 200000 ≤ s.cycle → ∃ t, exec (.portDown p) s = .next t ∧
      (getPort t p).up = false ∧ (getPort t p).unacked = [] ∧ t.cores = s.cores ∧ t.mem = s.mem ∧
      (noOtherPort s p k.far → ∀ e ∈ k.unacked, ∀ m ∈ e.2, inFlight t (.messageArrive m)))) ∧
  (∀ p chip s, (12 ≤ p → exec (.portTraining p chip) s = .next s) ∧
    (p < 12 → ∃ t, exec (.portTraining p chip) s = .next t ∧ (getPort t p).up = true ∧ (getPort t p).far = chip ∧
      t.cores = s.cores ∧ t.mem = s.mem ∧ ((getPort s p).unacked = [] → t.flights = s.flights.filter (fun f => f.act != .chipUnreachable chip) ∧
        getPort t p = { Port.reset with up := true, far := chip, dropped := (getPort s p).dropped } ∧ ∀ q, q ≠ p → getPort t q = getPort s q))) ∧
  (∀ chip s, ((∃ p, p < 12 ∧ (getPort s p).up = true ∧ (getPort s p).far = chip) →
      exec (.chipUnreachable chip) s = .next s) ∧
    ((∀ p, p < 12 → (getPort s p).up = false ∨ (getPort s p).far ≠ chip) → ∃ t, exec (.chipUnreachable chip) s = .next t ∧
      (∀ f ∈ t.flights, waitsFor chip f = false) ∧ t.cores = s.cores ∧ t.mem = s.mem ∧
      ∀ f ∈ s.flights, waitsFor chip f = true → ∀ m, f.act = .messageArrive m → inFlight t (.bounce m 2))))

/-- R365, R369: a trace record goes to the ring's next place or is dropped, and a divergence from the replay log ends the
forcing. -/
def Obligations.TraceAndReplay : Prop :=
  (∀ die (r : TraceRec) s, let k := getDie s die
    let tail := k.trtail.toNat
    let next := (tail + 1) % k.trsize.toNat
    let at_ := vaPlaces s k.trRegion (k.trbase.toNat + 32 * tail) 32
    ∃ t, exec (.traceRecordWrite die r) s = .next t ∧
      (k.trsize = 0 → t.mem = s.mem ∧ (getDie t die).trtail = k.trtail ∧ (getDie t die).trdrop = k.trdrop) ∧
      (k.trsize ≠ 0 → (next = k.trhead.toNat ∨ at_ = none) →
        t.mem = s.mem ∧ (getDie t die).trtail = k.trtail ∧ (getDie t die).trdrop = k.trdrop + 1) ∧
      (∀ ps, k.trsize ≠ 0 → next ≠ k.trhead.toNat → at_ = some ps →
        t.mem = (placesWrite s none ps (bytesOf [r.w0, r.w1, r.w2, r.w3])).mem ∧
        (getDie t die).trtail = BitVec.ofNat 64 next ∧ (getDie t die).trdrop = k.trdrop)) ∧
  (∀ die core s, expected s core = [] → exec (.replayTimeout die core) s = .next s) ∧
  (∀ die core s n k since rest, expected s core = (n, k, since) :: rest →
    let rid := (getDie s die).rprgn.toNat % 65536
    ((s.cycle < since + 2000000 ∨ replayMode s die rid < 2) → exec (.replayTimeout die core) s = .next s) ∧
    (∀ r, since + 2000000 ≤ s.cycle → 2 ≤ replayMode s die rid → getRegion s rid = some r →
      ∃ t g, exec (.replayTimeout die core) s = .next t ∧ getRegion t rid = some g ∧ g.replay = 0 ∧
        (r.replay = 2 → g.killCause = some (r.killCause.getD (5, 6))) ∧ (r.replay ≠ 2 → g.killCause = r.killCause)))

/-- R57, R61, R64, R70-R72: words written out from the encoding tables decode to what they stand for; a reserved major is no
instruction, and a pair at 4 mod 8 no bundle. -/
def Obligations.SpecWordsDecode : Prop :=
  frame 4 0x81C40801 0 = some ⟨false, 0, some (.ldd ⟨4, 2, 0, 1⟩), none⟩ ∧
  frame 0 0xB1C40801 0 = some ⟨false, 3, some (.ldd ⟨4, 2, 0, 1⟩), none⟩ ∧
  frame 0 0x88880004 0 = some ⟨false, 0, some (.bp 1 0 4), none⟩ ∧
  frame 0 0xC8C00400 0 = some ⟨true, 0, some (.jr 0 1), none⟩ ∧
  frame 0 0x8F000805 0 = some ⟨false, 0, some (.trap 2 5), none⟩ ∧
  frame 0 0 0x02182100 = some ⟨false, 0, some .nop, some (some (.add 3 1 2))⟩ ∧
  frame 0 0 0x04281FFF = some ⟨false, 0, some .nop, some (some (.addi 5 0 0x1FFF))⟩ ∧
  frame 0 0 0x1038000A = some ⟨false, 0, some .nop, some (some (.movi 7 10))⟩ ∧
  frame 0 0 0x40110C00 = some ⟨false, 0, some .nop, some (some (.fadd .d 0 1 2 3))⟩ ∧
  frame 0 0 0xC0182100 = some ⟨false, 0, some .nop, some (some (.mmaD ⟨3, 1, 2, 0, 0⟩))⟩ ∧
  frame 0 0x8FC00000 0 = some ⟨false, 0, none, none⟩ ∧ frame 4 0 0 = none

/-- The frame of the A-words that write a register of the task: unless a queue was popped, no byte of any memory changes, no
register changes before its latency, only the destination receives a late result, and of the special registers only the
sticky flags may rise; this holds of a word that traps too. -/
def Obligations.RegisterResultFrame : Prop :=
  ∀ i s t, (encodeA i).isSome = true → wordDst i ≠ .none → exec i s = .next t → t.cur.popped = s.cur.popped →
    SameBytes s t ∧ (∀ c j, SameRegisters s t c j) ∧
    (∀ l ∈ (curSlot t).late, l ∈ (curSlot s).late ∨ l.dst = wordDst i) ∧
    (∀ c j, (c ≠ s.cur.core ∨ j ≠ s.cur.slot) → getSlot t c j = getSlot s c j) ∧
    (curSlot t).fpflg &&& (curSlot s).fpflg = (curSlot s).fpflg ∧
    (curSlot t).fpen = (curSlot s).fpen ∧ (curSlot t).fpctl = (curSlot s).fpctl ∧ (curSlot t).pc = (curSlot s).pc ∧
    (curSlot t).spbad = (curSlot s).spbad ∧ (curSlot t).l2psel = (curSlot s).l2psel ∧
    (curSlot t).mprog = (curSlot s).mprog ∧ (curSlot t).out = (curSlot s).out ∧ t.regions = s.regions

/-- R63: a CM word whose predicate is false, and a BP that is not taken, have no effect at all; BP under p0 with n = 1 is
never taken. -/
def Obligations.FalsePredicates : Prop :=
  (∀ (k : Nat) (form : Cm → Instr) (m : Cm) s,
    ([.ldb, .ldbu, .ldh, .ldhu, .ldw, .ldwu, .ldd, .stb, .sth, .stw, .std, .stn] : List (Cm → Instr))[k]? = some form →
    getP (curSlot s) m.p.toNat = false → exec (form m) s = .next s) ∧
  (∀ (k : Nat) (form : CmF → Instr) (m : CmF) s,
    ([.fldS, .fldD, .fstS, .fstD, .vld, .vst] : List (CmF → Instr))[k]? = some form →
    getP (curSlot s) m.p.toNat = false → exec (form m) s = .next s) ∧
  (∀ (p : PField) (n : BitVec 1) (off : BitVec 18) s, (getP (curSlot s) p.toNat ^^ (n == 1#1)) = false →
    exec (.bp p n off) s = .next s) ∧
  (∀ (off : BitVec 18) s, exec (.bp 0 1 off) s = .next s)

/-- R294-R296, R316, R211: under the conditions for their normal execution SPAWN creates its task's GTID and sends the task to
a ready queue, JOIN answers or parks, TAIL empties its slot, YIELD asks for its own stop with a requeue, and the engine
accepts the MMA it has drawn; each answers a next state. -/
def Obligations.TaskFormsComplete : Prop :=
  (∀ (rd ra rb : XField) s s1 w v, operandsFree s [ra, rb] (.x rd) = true → sourceWords [ra, rb] s = some ([w, v], s1) →
    oscOf (curSlot s) < 1024 → w.toNat < 2 ^ 28 → w.toNat / 2 ^ 22 % 4 = 0 → w.toNat / 2 ^ 19 % 2 = 0 →
    (w.toNat / 2 ^ 24 < 8 ∨ w.toNat / 2 ^ 24 = 15) →
    let c := s1.cur.core
    let rid := (curSlot s1).region
    let d := spawnDie s1 c rid (w.toNat / 2 ^ 24)
    let g := BitVec.ofNat 64 (rid % 2 ^ 16 * 2 ^ 48 + c % 4096 * 2 ^ 36 + (getCore s1 c).serial % 2 ^ 36)
    ∃ t f, exec (.spawn rd ra rb) s = .next t ∧ t.flights = s1.flights ++ [f] ∧
      f.act = .spawnPlace d.1 (some ⟨c, s1.cur.slot, (curSlot s1).gtid, (curSlot s1).nextItem⟩)
        ⟨rid, .spawn g v (w.toNat % 2 ^ 19) (w.toNat / 2 ^ 20 % 4) d.2 s.cycle false⟩ ∧
      (getCore t c).serial = (getCore s1 c).serial + 1 ∧ oscOf (curSlot t) = oscOf (curSlot s1) + 1 ∧
      (curSlot t).late = (curSlot s1).late ++
        [⟨s1.cycle + 1, .x rd.toNat, BitVec.ofNat 512 g.toNat, BitVec.allOnes 512, none⟩]) ∧
  (∀ (rd ra : XField) s s1 a s2 l acc, operandsFree s [ra] (.x rd) = true → soundSources s [ra] = true →
    sourceWords [ra] s = some ([a], s1) → (getCore s s.cur.core).gang = none → a.toNat % 256 = 0 →
    reaches s1 .load a.toNat 256 s2 l acc → locBad s2 l 256 = false → behindAt s2 (locPlace l) = false →
    snooped s2 ((locPa l).getD 0) 256 = [] →
    let rid := (curSlot s2).region
    let rcb := locRead s2 l s2.cur.core rid a.toNat 256
    let st := byteWordAt rcb 0 / 2 ^ 24 % 256
    let parent := byteWordAt rcb 0 / 2 ^ 32 % 2 ^ 16
    let s3 := countUnits s2 acc a.toNat 256
    exec (.join rd ra) s = .next (
      if st = 0 ∨ (st < 4 ∧ parent = rid) then parkIn (.join rd.toNat ((locPa l).getD 0)) s3
      else if parent = rid then gives s3 rd (BitVec.ofNat 64 (byteWordAt rcb 27))
      else gives s3 rd (joinWord 8 0))) ∧
  (∀ s, let c := s.cur.core
    let i := s.cur.slot
    (getCore s c).gang = none → (curSlot s).stagedHdr = none → (curSlot s).claimBuf = none → (curSlot s).staged = [] →
    (curSlot s).wires = [] → (curSlot s).reserved = [] → commitLines s c i = [] → oscOf (curSlot s) ≤ 1024 →
    (oscOf (curSlot s) = 0 ∨ trackerFull s c = false) →
    ∃ t, exec .tail s = .next t ∧ getSlot t c i = Slot.empty ∧ t.cur.freed = true ∧ t.cur.ended = s.cur.ended ∧
      (getCore t c).tailed = some (s.cycle, i)) ∧
  (∀ s, (getCore s s.cur.core).gang = none → serialTask (getCore s s.cur.core) (curSlot s).origin = false →
    exec .yield s = .next (setSlot s s.cur.core s.cur.slot { curSlot s with
      stop := some false, stopRequeue := true, stopper := if (curSlot s).stop.isSome then (curSlot s).stopper else none })) ∧
  (∀ cl s q s1 c i, (getCluster s cl).mmaRun = none → (getCluster s cl).mmaIdle = false →
    (getCluster s cl).mmaChosen = none → mmaDraw s cl = some (q, s1) → mmaReady s1 q = true →
    mmaSlot s1 q.who = some (c, i) → ([q.xa, q.xb, q.xd].all fun a => !spBad s1 c a 64) = true →
    let recd := fun (a : Nat) => leNat (spRead s1 c a 64)
    let blk := (getSlot s1 c i).mprog.toNat % 2 ^ 9
    shapeFault s1 cl q.kind blk (recd q.xa) (recd q.xb) (recd q.xd) = none →
    ∃ s2 r, exec (.mmaAccept cl) s = .next (mmaTry s2 cl) ∧ (getCluster s2 cl).mmaRun = some r ∧ r.req = q ∧
      r.recA = recd q.xa ∧ r.recB = recd q.xb ∧ r.recO = recd q.xd ∧ r.blk = blk ∧
      (blk = 0 → (getSlot s2 c i).mpva = 0 ∧ (getSlot s2 c i).mpvb = 0) ∧ s2.mem = s1.mem ∧ s2.flights = s1.flights)
end

