-- ==== Sys2Proof/Laws/Events.lean ====
section
/-! SUPPORT. Every scheduled event is the step of Instr of the same name. -/

namespace Sys2Proof.Machine

/-- The step an event is. -/
noncomputable def eventInstr (e : Event) : Instr :=
  match e with
  | .tlbInvalidationDone core => .tlbInvalidationDone core
  | .holdReleaseDone core => .holdReleaseDone core
  | .connectionTableSwitch core => .connectionTableSwitch core
  | .circuitRetrained core => .circuitRetrained core
  | .alogcntClear region => .alogcntClear region
  | .dispatch core => .dispatch core
  | .readyQueuePull core => .readyQueuePull core
  | .spawnPlace die who e => .spawnPlace die who e
  | .stealTimer die => .stealTimer die
  | .stealRequest thief victim => .stealRequest thief victim
  | .stealAnswer thief es => .stealAnswer thief es
  | .bagPop core => .bagPop core
  | .claim k => .claim k
  | .claimReply k node => .claimReply k node
  | .release k => .release k
  | .tomb t => .tomb t
  | .link l => .link l
  | .defer claimer l => .defer claimer l
  | .redefer l => .redefer l
  | .ack l => .ack l
  | .settle l expect => .settle l expect
  | .messageArrive m => .messageArrive m
  | .bounce m reason => .bounce m reason
  | .messageStatus who w => .messageStatus who w
  | .errorNotice n => .errorNotice n
  | .atomicMessage a => .atomicMessage a
  | .stnMessage w => .stnMessage w
  | .amoReturn who v => .amoReturn who v
  | .scaleOutAtomic chip core a => .scaleOutAtomic chip core a
  | .remoteWrite w => .remoteWrite w
  | .writeAck who => .writeAck who
  | .remoteRead r => .remoteRead r
  | .loadReply l => .loadReply l
  | .securityRequestDone result rslot => .securityRequestDone result rslot
  | .fenceComplete core slot => .fenceComplete core slot
  | .dividerStart core => .dividerStart core
  | .dividerResult core => .dividerResult core
  | .sfuStart cluster => .sfuStart cluster
  | .sfuResult core slot => .sfuResult core slot
  | .copyStart id => .copyStart id
  | .copyComplete id => .copyComplete id
  | .acqreq a => .acqreq a
  | .grant g status poison a => .grant g status poison a
  | .pull g inPlace => .pull g inPlace
  | .forward g recipient inPlace => .forward g recipient inPlace
  | .fwddone g sent lost => .fwddone g sent lost
  | .done g status => .done g status
  | .unpin g => .unpin g
  | .guardRelease who g r => .guardRelease who g r
  | .guardAnswer who g w => .guardAnswer who g w
  | .guardHomeTimeout who g => .guardHomeTimeout who g
  | .forwardTimeout g => .forwardTimeout g
  | .bankReady cluster bank => .bankReady cluster bank
  | .prechargeEnd cluster bank => .prechargeEnd cluster bank
  | .refreshWindow cluster bank => .refreshWindow cluster bank
  | .refreshEnd cluster bank => .refreshEnd cluster bank
  | .autoClose cluster bank => .autoClose cluster bank
  | .rowTransfer cluster slot tag => .rowTransfer cluster slot tag
  | .deferredClose cluster bank => .deferredClose cluster bank
  | .rowstatStatus who w => .rowstatStatus who w
  | .mmaAccept cluster => .mmaAccept cluster
  | .rowBlockComplete cluster => .rowBlockComplete cluster
  | .dutyIdleEnd cluster => .dutyIdleEnd cluster
  | .barrierOperation k => .barrierOperation k
  | .barrierAnswer who w => .barrierAnswer who w
  | .barrierRelease who w => .barrierRelease who w
  | .staggerExpiry who w => .staggerExpiry who w
  | .barrierBoundExpiry who => .barrierBoundExpiry who
  | .barrierCancel who owner addr => .barrierCancel who owner addr
  | .getchunkResult who counter => .getchunkResult who counter
  | .gangForms core => .gangForms core
  | .gangformTimeout core => .gangformTimeout core
  | .taskStop core slot => .taskStop core slot
  | .start m => .start m
  | .kill m => .kill m
  | .regionComplete region => .regionComplete region
  | .coreSeal core => .coreSeal core
  | .intervalClose core => .intervalClose core
  | .fingerprintExchange core => .fingerprintExchange core
  | .traceRecordWrite die r => .traceRecordWrite die r
  | .replayTimeout die core => .replayTimeout die core
  | .outputSpill die ep => .outputSpill die ep
  | .spillDrain die ep => .spillDrain die ep
  | .calibrationPause die ep => .calibrationPause die ep
  | .calibrationEnd die ep => .calibrationEnd die ep
  | .frameReceive f => .frameReceive f
  | .retransmitTimeout port => .retransmitTimeout port
  | .portDown port => .portDown port
  | .chipUnreachable chip => .chipUnreachable chip
  | .governorTick watts => .governorTick watts
  | .telemetrySample pkg die => .telemetrySample pkg die
  | .capoOperation who g op => .capoOperation who g op
  | .contextReadBack core slot ctx => .contextReadBack core slot ctx

/-- An event does what exec does for its step. -/
theorem execEvent_eq_exec (e : Event) (s : State) : execEvent e s = exec (eventInstr e) s := by
  cases e <;> rfl

end Sys2Proof.Machine
end

