-- ==== Sys2Proof/Laws/Tables.lean ====
section
/-! SUPPORT. The laws of sparse tables and byte stores: reading after writing, and the canonical form that every memory
operation keeps. -/

namespace Sys2Proof.Machine

/-! ## Tables -/

@[simp] theorem tget_tset_same {α : Type} (t : Tab α) (k : Nat) (v d : α) : tget (tset t k v) k d = v := by
  induction t with
  | nil => simp [tset, tget]
  | cons e r ih => by_cases h : e.1 = k <;> simp [tset, tget, h, ih]

theorem tget_tset_ne {α : Type} (t : Tab α) (k j : Nat) (v d : α) (h : j ≠ k) : tget (tset t k v) j d = tget t j d := by
  induction t with
  | nil => simp [tset, tget, Ne.symm h]
  | cons e r ih =>
    by_cases he : e.1 = k
    · subst he; simp [tset, tget, Ne.symm h]
    · simp [tset, tget, he, ih]

@[simp] theorem tfind_tset_same {α : Type} (t : Tab α) (k : Nat) (v : α) : tfind (tset t k v) k = some v := by
  induction t with
  | nil => simp [tset, tfind]
  | cons e r ih => by_cases h : e.1 = k <;> simp [tset, tfind, h, ih]

theorem tfind_tset_ne {α : Type} (t : Tab α) (k j : Nat) (v : α) (h : j ≠ k) : tfind (tset t k v) j = tfind t j := by
  induction t with
  | nil => simp [tset, tfind, Ne.symm h]
  | cons e r ih =>
    by_cases he : e.1 = k
    · subst he; simp [tset, tfind, Ne.symm h]
    · simp [tset, tfind, he, ih]

/-- A table read is the default or an entry. -/
theorem tget_mem {α : Type} (t : Tab α) (k : Nat) (d : α) : tget t k d = d ∨ ∃ e ∈ t, e.2 = tget t k d := by
  induction t with
  | nil => exact .inl rfl
  | cons e r ih =>
    by_cases h : e.1 = k
    · exact .inr ⟨e, by simp, by simp [tget, h]⟩
    · rcases ih with h1 | ⟨e', hm, he⟩
      · exact .inl (by simp [tget, h, h1])
      · exact .inr ⟨e', by simp [hm], by simp [tget, h, he]⟩

/-- What holds of every entry and of the new one holds of every entry after a write. -/
theorem forall_tset {α : Type} (P : α → Prop) (t : Tab α) (k : Nat) (v : α) (ht : ∀ e ∈ t, P e.2) (hv : P v) :
    ∀ e ∈ tset t k v, P e.2 := by
  induction t with
  | nil => simpa [tset] using hv
  | cons e r ih =>
    have hr : ∀ e ∈ r, P e.2 := fun e he => ht e (by simp [he])
    by_cases h : e.1 = k
    · simp only [tset, h, if_true, List.mem_cons]
      rintro x (rfl | hx)
      · exact hv
      · exact hr x hx
    · simp only [tset, h, if_false, List.mem_cons]
      rintro x (rfl | hx)
      · exact ht _ (List.mem_cons_self ..)
      · exact ih hr x hx

/-- What holds of the default and of every entry holds of a read. -/
theorem tget_forall {α : Type} (P : α → Prop) (t : Tab α) (k : Nat) (d : α) (hd : P d) (ht : ∀ e ∈ t, P e.2) :
    P (tget t k d) := by
  rcases tget_mem t k d with h | ⟨e, hm, he⟩
  · rw [h]; exact hd
  · rw [← he]; exact ht e hm

/-! ## Byte stores -/

/-- In a store whose addresses are all above a, a reads as the unwritten byte. -/
theorem mget_below (m : Memory) (lo a : Nat) (h : mwfFrom lo m = true) (ha : a < lo) : mget m a = 0#8 := by
  cases m with
  | nil => rfl
  | cons e r =>
    have h1 : lo ≤ e.1 := by simp [mwfFrom] at h; exact h.1.1
    have h2 : e.1 ≠ a := by omega
    have h3 : a < e.1 := by omega
    simp [mget, h2, h3]

theorem mwfFrom_mono (m : Memory) (lo lo' : Nat) (h : mwfFrom lo m = true) (hl : lo' ≤ lo) : mwfFrom lo' m = true := by
  cases m with
  | nil => rfl
  | cons e r =>
    simp only [mwfFrom, Bool.and_eq_true, decide_eq_true_eq] at h ⊢
    exact ⟨⟨by omega, h.1.2⟩, h.2⟩

/-- A write of one byte keeps the canonical form. -/
theorem mset_wfFrom (m : Memory) (lo a : Nat) (b : Byte) (h : mwfFrom lo m = true) (ha : lo ≤ a) :
    mwfFrom lo (mset m a b) = true := by
  induction m generalizing lo with
  | nil => by_cases hb : b = 0#8 <;> simp [mset, mwfFrom, hb, ha]
  | cons e r ih =>
    obtain ⟨x, c⟩ := e
    simp only [mwfFrom, Bool.and_eq_true, decide_eq_true_eq] at h
    obtain ⟨⟨h1, h2⟩, h3⟩ := h
    by_cases e1 : x = a
    · subst e1
      by_cases hb : b = 0#8
      · simp only [mset, hb, if_true]; exact mwfFrom_mono r _ lo h3 (by omega)
      · simp [mset, hb, mwfFrom, h1, h3]
    · by_cases e2 : a < x
      · by_cases hb : b = 0#8
        · have hm : mset ((x, c) :: r) a b = (x, c) :: r := by simp [mset, e1, e2, hb]
          rw [hm, mwfFrom, h3]
          simp [h1, h2]
        · have : mwfFrom (a + 1) ((x, c) :: r) = true := by
            simp only [mwfFrom, Bool.and_eq_true, decide_eq_true_eq]; exact ⟨⟨by omega, h2⟩, h3⟩
          have hm : mset ((x, c) :: r) a b = (a, b) :: (x, c) :: r := by simp [mset, e1, e2, hb]
          rw [hm, mwfFrom, this]
          simp [ha, hb]
      · simp only [mset, e1, e2, if_false, mwfFrom, Bool.and_eq_true, decide_eq_true_eq]
        exact ⟨⟨h1, h2⟩, ih (x + 1) h3 (by omega)⟩

theorem mset_wf (m : Memory) (a : Nat) (b : Byte) (h : m.wf = true) : (mset m a b).wf = true :=
  mset_wfFrom m 0 a b h (Nat.zero_le a)

/-- A write of bytes keeps the canonical form. -/
theorem msets_wf (m : Memory) (a : Nat) (d : List Byte) (h : m.wf = true) : (msets m a d).wf = true := by
  induction d generalizing m a with
  | nil => exact h
  | cons b r ih => exact ih (mset m a b) (a + 1) (mset_wf m a b h)

theorem mwrite_wf (m : Memory) (a n v : Nat) (h : m.wf = true) : (mwrite m a n v).wf = true := msets_wf m a _ h

theorem nil_wf : Memory.wf [] = true := rfl

/-- A byte read where it was written. -/
theorem mget_mset_same (m : Memory) (a : Nat) (b : Byte) (h : m.wf = true) : mget (mset m a b) a = b := by
  have aux : ∀ (m : Memory) (lo : Nat), mwfFrom lo m = true → mget (mset m a b) a = b := by
    intro m
    induction m with
    | nil => intro lo _; by_cases hb : b = 0#8 <;> simp [mset, mget, hb]
    | cons e r ih =>
      intro lo h
      obtain ⟨x, c⟩ := e
      simp only [mwfFrom, Bool.and_eq_true, decide_eq_true_eq] at h
      obtain ⟨⟨h1, h2⟩, h3⟩ := h
      by_cases e1 : x = a
      · subst e1
        by_cases hb : b = 0#8
        · simp only [mset, hb, if_true]; exact mget_below r (x + 1) x h3 (by omega)
        · simp [mset, mget, hb]
      · by_cases e2 : a < x
        · by_cases hb : b = 0#8 <;> simp [mset, mget, e1, e2, hb]
        · simp [mset, mget, e1, e2, ih (x + 1) h3]
  exact aux m 0 h

/-- A write leaves every other byte. -/
theorem mget_mset_ne (m : Memory) (a j : Nat) (b : Byte) (h : m.wf = true) (hj : j ≠ a) : mget (mset m a b) j = mget m j := by
  have aux : ∀ (m : Memory) (lo : Nat), mwfFrom lo m = true → mget (mset m a b) j = mget m j := by
    intro m
    induction m with
    | nil =>
      intro lo _
      by_cases hb : b = 0#8
      · simp [mset, mget, hb]
      · by_cases hl : j < a <;> simp [mset, mget, hb, Ne.symm hj]
    | cons e r ih =>
      intro lo h
      obtain ⟨x, c⟩ := e
      simp only [mwfFrom, Bool.and_eq_true, decide_eq_true_eq] at h
      obtain ⟨⟨h1, h2⟩, h3⟩ := h
      by_cases e1 : x = a
      · subst e1
        by_cases hb : b = 0#8
        · simp only [mset, hb, if_true, mget, Ne.symm hj, if_false]
          by_cases hl : j < x
          · simp only [hl, if_true]; exact mget_below r (x + 1) j h3 (by omega)
          · simp [hl]
        · simp [mset, mget, hb, Ne.symm hj]
      · by_cases e2 : a < x
        · by_cases hb : b = 0#8
          · simp [mset, e1, e2, hb]
          · by_cases hl : j < a
            · have : x ≠ j := by omega
              have : j < x := by omega
              simp [mset, mget, Ne.symm hj, *]
            · simp [mset, mget, e1, e2, hb, Ne.symm hj, hl]
        · by_cases e3 : x = j
          · subst e3; simp [mset, mget, e1, e2]
          · by_cases e4 : j < x <;> simp [mset, mget, e1, e2, e3, e4, ih (x + 1) h3]
  exact aux m 0 h

/-- A write of bytes leaves every byte outside them. -/
theorem mget_msets_outside (m : Memory) (a j : Nat) (d : List Byte) (h : m.wf = true) (hj : j < a ∨ a + d.length ≤ j) :
    mget (msets m a d) j = mget m j := by
  induction d generalizing m a with
  | nil => rfl
  | cons b r ih =>
    have hj' : j < a + 1 ∨ a + 1 + r.length ≤ j := by
      rcases hj with hj | hj
      · exact .inl (by omega)
      · exact .inr (by simp at hj; omega)
    have hne : j ≠ a := by
      rcases hj with hj | hj
      · omega
      · simp at hj; omega
    rw [msets, ih (mset m a b) (a + 1) (mset_wf m a b h) hj', mget_mset_ne m a j b h hne]

/-- The bytes written are read back. -/
theorem mgets_msets_same (m : Memory) (a : Nat) (d : List Byte) (h : m.wf = true) :
    mgets (msets m a d) a d.length = d := by
  induction d generalizing m a with
  | nil => rfl
  | cons b r ih =>
    have hw := mset_wf m a b h
    simp only [List.length_cons, mgets, msets]
    rw [ih (mset m a b) (a + 1) hw, mget_msets_outside (mset m a b) (a + 1) a r hw (.inl (by omega)),
      mget_mset_same m a b h]

theorem mgets_length (m : Memory) (a n : Nat) : (mgets m a n).length = n := by
  induction n generalizing a with
  | zero => rfl
  | succ n ih => simp [mgets, ih]

theorem natLe_length (n v : Nat) : (natLe n v).length = n := by
  induction n generalizing v with
  | zero => rfl
  | succ n ih => simp [natLe, ih]

/-- The little-endian bytes of a number give it back, modulo their width. -/
theorem leNat_natLe (n v : Nat) : leNat (natLe n v) = v % 256 ^ n := by
  induction n generalizing v with
  | zero => simp [natLe, leNat, Nat.mod_one]
  | succ n ih =>
    have h : 256 ^ (n + 1) = 256 * 256 ^ n := by omega
    rw [natLe, leNat, ih, h, Nat.mod_mul]
    simp

/-- A number written is read back. -/
theorem mread_mwrite_same (m : Memory) (a n v : Nat) (h : m.wf = true) : mread (mwrite m a n v) a n = v % 256 ^ n := by
  have h1 := mgets_msets_same m a (natLe n v) h
  rw [natLe_length] at h1
  rw [mread, mwrite, h1, leNat_natLe]

end Sys2Proof.Machine
end

