-- ==== Sys2Proof/Laws/State.lean ====
section
/-! SUPPORT. What each named operation over the state leaves alone: one lemma per field and operation, and what a core, slot,
cluster, die or region reads after one was written. -/

namespace Sys2Proof.Machine

/-! ## setCore -/

@[simp] theorem setCore_cycle (s : State) (c : Nat) (k : Core) : (setCore s c k).cycle = s.cycle := rfl

@[simp] theorem setCore_chipId (s : State) (c : Nat) (k : Core) : (setCore s c k).chipId = s.chipId := rfl

@[simp] theorem setCore_mem (s : State) (c : Nat) (k : Core) : (setCore s c k).mem = s.mem := rfl

@[simp] theorem setCore_dramPoison (s : State) (c : Nat) (k : Core) : (setCore s c k).dramPoison = s.dramPoison := rfl

@[simp] theorem setCore_clusters (s : State) (c : Nat) (k : Core) : (setCore s c k).clusters = s.clusters := rfl

@[simp] theorem setCore_dies (s : State) (c : Nat) (k : Core) : (setCore s c k).dies = s.dies := rfl

@[simp] theorem setCore_regions (s : State) (c : Nat) (k : Core) : (setCore s c k).regions = s.regions := rfl

@[simp] theorem setCore_nextOrder (s : State) (c : Nat) (k : Core) : (setCore s c k).nextOrder = s.nextOrder := rfl

@[simp] theorem setCore_saved (s : State) (c : Nat) (k : Core) : (setCore s c k).saved = s.saved := rfl

@[simp] theorem setCore_copies (s : State) (c : Nat) (k : Core) : (setCore s c k).copies = s.copies := rfl

@[simp] theorem setCore_nextCopy (s : State) (c : Nat) (k : Core) : (setCore s c k).nextCopy = s.nextCopy := rfl

@[simp] theorem setCore_capos (s : State) (c : Nat) (k : Core) : (setCore s c k).capos = s.capos := rfl

@[simp] theorem setCore_expansion (s : State) (c : Nat) (k : Core) : (setCore s c k).expansion = s.expansion := rfl

@[simp] theorem setCore_pwrcap (s : State) (c : Nat) (k : Core) : (setCore s c k).pwrcap = s.pwrcap := rfl

@[simp] theorem setCore_pkgPwr (s : State) (c : Nat) (k : Core) : (setCore s c k).pkgPwr = s.pkgPwr := rfl

@[simp] theorem setCore_duty (s : State) (c : Nat) (k : Core) : (setCore s c k).duty = s.duty := rfl

@[simp] theorem setCore_pwrSum (s : State) (c : Nat) (k : Core) : (setCore s c k).pwrSum = s.pwrSum := rfl

@[simp] theorem setCore_ctChange (s : State) (c : Nat) (k : Core) : (setCore s c k).ctChange = s.ctChange := rfl

@[simp] theorem setCore_ports (s : State) (c : Nat) (k : Core) : (setCore s c k).ports = s.ports := rfl

@[simp] theorem setCore_soRecords (s : State) (c : Nat) (k : Core) : (setCore s c k).soRecords = s.soRecords := rfl

@[simp] theorem setCore_soSeq (s : State) (c : Nat) (k : Core) : (setCore s c k).soSeq = s.soSeq := rfl

@[simp] theorem setCore_soAtoms (s : State) (c : Nat) (k : Core) : (setCore s c k).soAtoms = s.soAtoms := rfl

@[simp] theorem setCore_soOut (s : State) (c : Nat) (k : Core) : (setCore s c k).soOut = s.soOut := rfl

@[simp] theorem setCore_host (s : State) (c : Nat) (k : Core) : (setCore s c k).host = s.host := rfl

@[simp] theorem setCore_flights (s : State) (c : Nat) (k : Core) : (setCore s c k).flights = s.flights := rfl

@[simp] theorem setCore_nextFlight (s : State) (c : Nat) (k : Core) : (setCore s c k).nextFlight = s.nextFlight := rfl

@[simp] theorem setCore_cycleFlight (s : State) (c : Nat) (k : Core) : (setCore s c k).cycleFlight = s.cycleFlight := rfl

@[simp] theorem setCore_firing (s : State) (c : Nat) (k : Core) : (setCore s c k).firing = s.firing := rfl

@[simp] theorem setCore_outbox (s : State) (c : Nat) (k : Core) : (setCore s c k).outbox = s.outbox := rfl

@[simp] theorem setCore_cur (s : State) (c : Nat) (k : Core) : (setCore s c k).cur = s.cur := rfl

@[simp] theorem setCore_turns (s : State) (c : Nat) (k : Core) : (setCore s c k).turns = s.turns := rfl

/-! ## modCore -/

@[simp] theorem modCore_cycle (s : State) (c : Nat) (f : Core → Core) : (modCore s c f).cycle = s.cycle := rfl

@[simp] theorem modCore_chipId (s : State) (c : Nat) (f : Core → Core) : (modCore s c f).chipId = s.chipId := rfl

@[simp] theorem modCore_mem (s : State) (c : Nat) (f : Core → Core) : (modCore s c f).mem = s.mem := rfl

@[simp] theorem modCore_dramPoison (s : State) (c : Nat) (f : Core → Core) : (modCore s c f).dramPoison = s.dramPoison := rfl

@[simp] theorem modCore_clusters (s : State) (c : Nat) (f : Core → Core) : (modCore s c f).clusters = s.clusters := rfl

@[simp] theorem modCore_dies (s : State) (c : Nat) (f : Core → Core) : (modCore s c f).dies = s.dies := rfl

@[simp] theorem modCore_regions (s : State) (c : Nat) (f : Core → Core) : (modCore s c f).regions = s.regions := rfl

@[simp] theorem modCore_nextOrder (s : State) (c : Nat) (f : Core → Core) : (modCore s c f).nextOrder = s.nextOrder := rfl

@[simp] theorem modCore_saved (s : State) (c : Nat) (f : Core → Core) : (modCore s c f).saved = s.saved := rfl

@[simp] theorem modCore_copies (s : State) (c : Nat) (f : Core → Core) : (modCore s c f).copies = s.copies := rfl

@[simp] theorem modCore_nextCopy (s : State) (c : Nat) (f : Core → Core) : (modCore s c f).nextCopy = s.nextCopy := rfl

@[simp] theorem modCore_capos (s : State) (c : Nat) (f : Core → Core) : (modCore s c f).capos = s.capos := rfl

@[simp] theorem modCore_expansion (s : State) (c : Nat) (f : Core → Core) : (modCore s c f).expansion = s.expansion := rfl

@[simp] theorem modCore_pwrcap (s : State) (c : Nat) (f : Core → Core) : (modCore s c f).pwrcap = s.pwrcap := rfl

@[simp] theorem modCore_pkgPwr (s : State) (c : Nat) (f : Core → Core) : (modCore s c f).pkgPwr = s.pkgPwr := rfl

@[simp] theorem modCore_duty (s : State) (c : Nat) (f : Core → Core) : (modCore s c f).duty = s.duty := rfl

@[simp] theorem modCore_pwrSum (s : State) (c : Nat) (f : Core → Core) : (modCore s c f).pwrSum = s.pwrSum := rfl

@[simp] theorem modCore_ctChange (s : State) (c : Nat) (f : Core → Core) : (modCore s c f).ctChange = s.ctChange := rfl

@[simp] theorem modCore_ports (s : State) (c : Nat) (f : Core → Core) : (modCore s c f).ports = s.ports := rfl

@[simp] theorem modCore_soRecords (s : State) (c : Nat) (f : Core → Core) : (modCore s c f).soRecords = s.soRecords := rfl

@[simp] theorem modCore_soSeq (s : State) (c : Nat) (f : Core → Core) : (modCore s c f).soSeq = s.soSeq := rfl

@[simp] theorem modCore_soAtoms (s : State) (c : Nat) (f : Core → Core) : (modCore s c f).soAtoms = s.soAtoms := rfl

@[simp] theorem modCore_soOut (s : State) (c : Nat) (f : Core → Core) : (modCore s c f).soOut = s.soOut := rfl

@[simp] theorem modCore_host (s : State) (c : Nat) (f : Core → Core) : (modCore s c f).host = s.host := rfl

@[simp] theorem modCore_flights (s : State) (c : Nat) (f : Core → Core) : (modCore s c f).flights = s.flights := rfl

@[simp] theorem modCore_nextFlight (s : State) (c : Nat) (f : Core → Core) : (modCore s c f).nextFlight = s.nextFlight := rfl

@[simp] theorem modCore_cycleFlight (s : State) (c : Nat) (f : Core → Core) : (modCore s c f).cycleFlight = s.cycleFlight := rfl

@[simp] theorem modCore_firing (s : State) (c : Nat) (f : Core → Core) : (modCore s c f).firing = s.firing := rfl

@[simp] theorem modCore_outbox (s : State) (c : Nat) (f : Core → Core) : (modCore s c f).outbox = s.outbox := rfl

@[simp] theorem modCore_cur (s : State) (c : Nat) (f : Core → Core) : (modCore s c f).cur = s.cur := rfl

@[simp] theorem modCore_turns (s : State) (c : Nat) (f : Core → Core) : (modCore s c f).turns = s.turns := rfl

/-! ## setSlot -/

@[simp] theorem setSlot_cycle (s : State) (c i : Nat) (t : Slot) : (setSlot s c i t).cycle = s.cycle := rfl

@[simp] theorem setSlot_chipId (s : State) (c i : Nat) (t : Slot) : (setSlot s c i t).chipId = s.chipId := rfl

@[simp] theorem setSlot_mem (s : State) (c i : Nat) (t : Slot) : (setSlot s c i t).mem = s.mem := rfl

@[simp] theorem setSlot_dramPoison (s : State) (c i : Nat) (t : Slot) : (setSlot s c i t).dramPoison = s.dramPoison := rfl

@[simp] theorem setSlot_clusters (s : State) (c i : Nat) (t : Slot) : (setSlot s c i t).clusters = s.clusters := rfl

@[simp] theorem setSlot_dies (s : State) (c i : Nat) (t : Slot) : (setSlot s c i t).dies = s.dies := rfl

@[simp] theorem setSlot_regions (s : State) (c i : Nat) (t : Slot) : (setSlot s c i t).regions = s.regions := rfl

@[simp] theorem setSlot_nextOrder (s : State) (c i : Nat) (t : Slot) : (setSlot s c i t).nextOrder = s.nextOrder := rfl

@[simp] theorem setSlot_saved (s : State) (c i : Nat) (t : Slot) : (setSlot s c i t).saved = s.saved := rfl

@[simp] theorem setSlot_copies (s : State) (c i : Nat) (t : Slot) : (setSlot s c i t).copies = s.copies := rfl

@[simp] theorem setSlot_nextCopy (s : State) (c i : Nat) (t : Slot) : (setSlot s c i t).nextCopy = s.nextCopy := rfl

@[simp] theorem setSlot_capos (s : State) (c i : Nat) (t : Slot) : (setSlot s c i t).capos = s.capos := rfl

@[simp] theorem setSlot_expansion (s : State) (c i : Nat) (t : Slot) : (setSlot s c i t).expansion = s.expansion := rfl

@[simp] theorem setSlot_pwrcap (s : State) (c i : Nat) (t : Slot) : (setSlot s c i t).pwrcap = s.pwrcap := rfl

@[simp] theorem setSlot_pkgPwr (s : State) (c i : Nat) (t : Slot) : (setSlot s c i t).pkgPwr = s.pkgPwr := rfl

@[simp] theorem setSlot_duty (s : State) (c i : Nat) (t : Slot) : (setSlot s c i t).duty = s.duty := rfl

@[simp] theorem setSlot_pwrSum (s : State) (c i : Nat) (t : Slot) : (setSlot s c i t).pwrSum = s.pwrSum := rfl

@[simp] theorem setSlot_ctChange (s : State) (c i : Nat) (t : Slot) : (setSlot s c i t).ctChange = s.ctChange := rfl

@[simp] theorem setSlot_ports (s : State) (c i : Nat) (t : Slot) : (setSlot s c i t).ports = s.ports := rfl

@[simp] theorem setSlot_soRecords (s : State) (c i : Nat) (t : Slot) : (setSlot s c i t).soRecords = s.soRecords := rfl

@[simp] theorem setSlot_soSeq (s : State) (c i : Nat) (t : Slot) : (setSlot s c i t).soSeq = s.soSeq := rfl

@[simp] theorem setSlot_soAtoms (s : State) (c i : Nat) (t : Slot) : (setSlot s c i t).soAtoms = s.soAtoms := rfl

@[simp] theorem setSlot_soOut (s : State) (c i : Nat) (t : Slot) : (setSlot s c i t).soOut = s.soOut := rfl

@[simp] theorem setSlot_host (s : State) (c i : Nat) (t : Slot) : (setSlot s c i t).host = s.host := rfl

@[simp] theorem setSlot_flights (s : State) (c i : Nat) (t : Slot) : (setSlot s c i t).flights = s.flights := rfl

@[simp] theorem setSlot_nextFlight (s : State) (c i : Nat) (t : Slot) : (setSlot s c i t).nextFlight = s.nextFlight := rfl

@[simp] theorem setSlot_cycleFlight (s : State) (c i : Nat) (t : Slot) : (setSlot s c i t).cycleFlight = s.cycleFlight := rfl

@[simp] theorem setSlot_firing (s : State) (c i : Nat) (t : Slot) : (setSlot s c i t).firing = s.firing := rfl

@[simp] theorem setSlot_outbox (s : State) (c i : Nat) (t : Slot) : (setSlot s c i t).outbox = s.outbox := rfl

@[simp] theorem setSlot_cur (s : State) (c i : Nat) (t : Slot) : (setSlot s c i t).cur = s.cur := rfl

@[simp] theorem setSlot_turns (s : State) (c i : Nat) (t : Slot) : (setSlot s c i t).turns = s.turns := rfl

/-! ## modSlot -/

@[simp] theorem modSlot_cycle (s : State) (c i : Nat) (f : Slot → Slot) : (modSlot s c i f).cycle = s.cycle := rfl

@[simp] theorem modSlot_chipId (s : State) (c i : Nat) (f : Slot → Slot) : (modSlot s c i f).chipId = s.chipId := rfl

@[simp] theorem modSlot_mem (s : State) (c i : Nat) (f : Slot → Slot) : (modSlot s c i f).mem = s.mem := rfl

@[simp] theorem modSlot_dramPoison (s : State) (c i : Nat) (f : Slot → Slot) : (modSlot s c i f).dramPoison = s.dramPoison := rfl

@[simp] theorem modSlot_clusters (s : State) (c i : Nat) (f : Slot → Slot) : (modSlot s c i f).clusters = s.clusters := rfl

@[simp] theorem modSlot_dies (s : State) (c i : Nat) (f : Slot → Slot) : (modSlot s c i f).dies = s.dies := rfl

@[simp] theorem modSlot_regions (s : State) (c i : Nat) (f : Slot → Slot) : (modSlot s c i f).regions = s.regions := rfl

@[simp] theorem modSlot_nextOrder (s : State) (c i : Nat) (f : Slot → Slot) : (modSlot s c i f).nextOrder = s.nextOrder := rfl

@[simp] theorem modSlot_saved (s : State) (c i : Nat) (f : Slot → Slot) : (modSlot s c i f).saved = s.saved := rfl

@[simp] theorem modSlot_copies (s : State) (c i : Nat) (f : Slot → Slot) : (modSlot s c i f).copies = s.copies := rfl

@[simp] theorem modSlot_nextCopy (s : State) (c i : Nat) (f : Slot → Slot) : (modSlot s c i f).nextCopy = s.nextCopy := rfl

@[simp] theorem modSlot_capos (s : State) (c i : Nat) (f : Slot → Slot) : (modSlot s c i f).capos = s.capos := rfl

@[simp] theorem modSlot_expansion (s : State) (c i : Nat) (f : Slot → Slot) : (modSlot s c i f).expansion = s.expansion := rfl

@[simp] theorem modSlot_pwrcap (s : State) (c i : Nat) (f : Slot → Slot) : (modSlot s c i f).pwrcap = s.pwrcap := rfl

@[simp] theorem modSlot_pkgPwr (s : State) (c i : Nat) (f : Slot → Slot) : (modSlot s c i f).pkgPwr = s.pkgPwr := rfl

@[simp] theorem modSlot_duty (s : State) (c i : Nat) (f : Slot → Slot) : (modSlot s c i f).duty = s.duty := rfl

@[simp] theorem modSlot_pwrSum (s : State) (c i : Nat) (f : Slot → Slot) : (modSlot s c i f).pwrSum = s.pwrSum := rfl

@[simp] theorem modSlot_ctChange (s : State) (c i : Nat) (f : Slot → Slot) : (modSlot s c i f).ctChange = s.ctChange := rfl

@[simp] theorem modSlot_ports (s : State) (c i : Nat) (f : Slot → Slot) : (modSlot s c i f).ports = s.ports := rfl

@[simp] theorem modSlot_soRecords (s : State) (c i : Nat) (f : Slot → Slot) : (modSlot s c i f).soRecords = s.soRecords := rfl

@[simp] theorem modSlot_soSeq (s : State) (c i : Nat) (f : Slot → Slot) : (modSlot s c i f).soSeq = s.soSeq := rfl

@[simp] theorem modSlot_soAtoms (s : State) (c i : Nat) (f : Slot → Slot) : (modSlot s c i f).soAtoms = s.soAtoms := rfl

@[simp] theorem modSlot_soOut (s : State) (c i : Nat) (f : Slot → Slot) : (modSlot s c i f).soOut = s.soOut := rfl

@[simp] theorem modSlot_host (s : State) (c i : Nat) (f : Slot → Slot) : (modSlot s c i f).host = s.host := rfl

@[simp] theorem modSlot_flights (s : State) (c i : Nat) (f : Slot → Slot) : (modSlot s c i f).flights = s.flights := rfl

@[simp] theorem modSlot_nextFlight (s : State) (c i : Nat) (f : Slot → Slot) : (modSlot s c i f).nextFlight = s.nextFlight := rfl

@[simp] theorem modSlot_cycleFlight (s : State) (c i : Nat) (f : Slot → Slot) : (modSlot s c i f).cycleFlight = s.cycleFlight := rfl

@[simp] theorem modSlot_firing (s : State) (c i : Nat) (f : Slot → Slot) : (modSlot s c i f).firing = s.firing := rfl

@[simp] theorem modSlot_outbox (s : State) (c i : Nat) (f : Slot → Slot) : (modSlot s c i f).outbox = s.outbox := rfl

@[simp] theorem modSlot_cur (s : State) (c i : Nat) (f : Slot → Slot) : (modSlot s c i f).cur = s.cur := rfl

@[simp] theorem modSlot_turns (s : State) (c i : Nat) (f : Slot → Slot) : (modSlot s c i f).turns = s.turns := rfl

/-! ## modCur -/

@[simp] theorem modCur_cycle (s : State) (f : Slot → Slot) : (modCur s f).cycle = s.cycle := rfl

@[simp] theorem modCur_chipId (s : State) (f : Slot → Slot) : (modCur s f).chipId = s.chipId := rfl

@[simp] theorem modCur_mem (s : State) (f : Slot → Slot) : (modCur s f).mem = s.mem := rfl

@[simp] theorem modCur_dramPoison (s : State) (f : Slot → Slot) : (modCur s f).dramPoison = s.dramPoison := rfl

@[simp] theorem modCur_clusters (s : State) (f : Slot → Slot) : (modCur s f).clusters = s.clusters := rfl

@[simp] theorem modCur_dies (s : State) (f : Slot → Slot) : (modCur s f).dies = s.dies := rfl

@[simp] theorem modCur_regions (s : State) (f : Slot → Slot) : (modCur s f).regions = s.regions := rfl

@[simp] theorem modCur_nextOrder (s : State) (f : Slot → Slot) : (modCur s f).nextOrder = s.nextOrder := rfl

@[simp] theorem modCur_saved (s : State) (f : Slot → Slot) : (modCur s f).saved = s.saved := rfl

@[simp] theorem modCur_copies (s : State) (f : Slot → Slot) : (modCur s f).copies = s.copies := rfl

@[simp] theorem modCur_nextCopy (s : State) (f : Slot → Slot) : (modCur s f).nextCopy = s.nextCopy := rfl

@[simp] theorem modCur_capos (s : State) (f : Slot → Slot) : (modCur s f).capos = s.capos := rfl

@[simp] theorem modCur_expansion (s : State) (f : Slot → Slot) : (modCur s f).expansion = s.expansion := rfl

@[simp] theorem modCur_pwrcap (s : State) (f : Slot → Slot) : (modCur s f).pwrcap = s.pwrcap := rfl

@[simp] theorem modCur_pkgPwr (s : State) (f : Slot → Slot) : (modCur s f).pkgPwr = s.pkgPwr := rfl

@[simp] theorem modCur_duty (s : State) (f : Slot → Slot) : (modCur s f).duty = s.duty := rfl

@[simp] theorem modCur_pwrSum (s : State) (f : Slot → Slot) : (modCur s f).pwrSum = s.pwrSum := rfl

@[simp] theorem modCur_ctChange (s : State) (f : Slot → Slot) : (modCur s f).ctChange = s.ctChange := rfl

@[simp] theorem modCur_ports (s : State) (f : Slot → Slot) : (modCur s f).ports = s.ports := rfl

@[simp] theorem modCur_soRecords (s : State) (f : Slot → Slot) : (modCur s f).soRecords = s.soRecords := rfl

@[simp] theorem modCur_soSeq (s : State) (f : Slot → Slot) : (modCur s f).soSeq = s.soSeq := rfl

@[simp] theorem modCur_soAtoms (s : State) (f : Slot → Slot) : (modCur s f).soAtoms = s.soAtoms := rfl

@[simp] theorem modCur_soOut (s : State) (f : Slot → Slot) : (modCur s f).soOut = s.soOut := rfl

@[simp] theorem modCur_host (s : State) (f : Slot → Slot) : (modCur s f).host = s.host := rfl

@[simp] theorem modCur_flights (s : State) (f : Slot → Slot) : (modCur s f).flights = s.flights := rfl

@[simp] theorem modCur_nextFlight (s : State) (f : Slot → Slot) : (modCur s f).nextFlight = s.nextFlight := rfl

@[simp] theorem modCur_cycleFlight (s : State) (f : Slot → Slot) : (modCur s f).cycleFlight = s.cycleFlight := rfl

@[simp] theorem modCur_firing (s : State) (f : Slot → Slot) : (modCur s f).firing = s.firing := rfl

@[simp] theorem modCur_outbox (s : State) (f : Slot → Slot) : (modCur s f).outbox = s.outbox := rfl

@[simp] theorem modCur_cur (s : State) (f : Slot → Slot) : (modCur s f).cur = s.cur := rfl

@[simp] theorem modCur_turns (s : State) (f : Slot → Slot) : (modCur s f).turns = s.turns := rfl

/-! ## writeLate -/

@[simp] theorem writeLate_cycle (s : State) (d : RegId) (n : Nat) (v : Vec) : (writeLate s d n v).cycle = s.cycle := rfl

@[simp] theorem writeLate_chipId (s : State) (d : RegId) (n : Nat) (v : Vec) : (writeLate s d n v).chipId = s.chipId := rfl

@[simp] theorem writeLate_mem (s : State) (d : RegId) (n : Nat) (v : Vec) : (writeLate s d n v).mem = s.mem := rfl

@[simp] theorem writeLate_dramPoison (s : State) (d : RegId) (n : Nat) (v : Vec) : (writeLate s d n v).dramPoison = s.dramPoison := rfl

@[simp] theorem writeLate_clusters (s : State) (d : RegId) (n : Nat) (v : Vec) : (writeLate s d n v).clusters = s.clusters := rfl

@[simp] theorem writeLate_dies (s : State) (d : RegId) (n : Nat) (v : Vec) : (writeLate s d n v).dies = s.dies := rfl

@[simp] theorem writeLate_regions (s : State) (d : RegId) (n : Nat) (v : Vec) : (writeLate s d n v).regions = s.regions := rfl

@[simp] theorem writeLate_nextOrder (s : State) (d : RegId) (n : Nat) (v : Vec) : (writeLate s d n v).nextOrder = s.nextOrder := rfl

@[simp] theorem writeLate_saved (s : State) (d : RegId) (n : Nat) (v : Vec) : (writeLate s d n v).saved = s.saved := rfl

@[simp] theorem writeLate_copies (s : State) (d : RegId) (n : Nat) (v : Vec) : (writeLate s d n v).copies = s.copies := rfl

@[simp] theorem writeLate_nextCopy (s : State) (d : RegId) (n : Nat) (v : Vec) : (writeLate s d n v).nextCopy = s.nextCopy := rfl

@[simp] theorem writeLate_capos (s : State) (d : RegId) (n : Nat) (v : Vec) : (writeLate s d n v).capos = s.capos := rfl

@[simp] theorem writeLate_expansion (s : State) (d : RegId) (n : Nat) (v : Vec) : (writeLate s d n v).expansion = s.expansion := rfl

@[simp] theorem writeLate_pwrcap (s : State) (d : RegId) (n : Nat) (v : Vec) : (writeLate s d n v).pwrcap = s.pwrcap := rfl

@[simp] theorem writeLate_pkgPwr (s : State) (d : RegId) (n : Nat) (v : Vec) : (writeLate s d n v).pkgPwr = s.pkgPwr := rfl

@[simp] theorem writeLate_duty (s : State) (d : RegId) (n : Nat) (v : Vec) : (writeLate s d n v).duty = s.duty := rfl

@[simp] theorem writeLate_pwrSum (s : State) (d : RegId) (n : Nat) (v : Vec) : (writeLate s d n v).pwrSum = s.pwrSum := rfl

@[simp] theorem writeLate_ctChange (s : State) (d : RegId) (n : Nat) (v : Vec) : (writeLate s d n v).ctChange = s.ctChange := rfl

@[simp] theorem writeLate_ports (s : State) (d : RegId) (n : Nat) (v : Vec) : (writeLate s d n v).ports = s.ports := rfl

@[simp] theorem writeLate_soRecords (s : State) (d : RegId) (n : Nat) (v : Vec) : (writeLate s d n v).soRecords = s.soRecords := rfl

@[simp] theorem writeLate_soSeq (s : State) (d : RegId) (n : Nat) (v : Vec) : (writeLate s d n v).soSeq = s.soSeq := rfl

@[simp] theorem writeLate_soAtoms (s : State) (d : RegId) (n : Nat) (v : Vec) : (writeLate s d n v).soAtoms = s.soAtoms := rfl

@[simp] theorem writeLate_soOut (s : State) (d : RegId) (n : Nat) (v : Vec) : (writeLate s d n v).soOut = s.soOut := rfl

@[simp] theorem writeLate_host (s : State) (d : RegId) (n : Nat) (v : Vec) : (writeLate s d n v).host = s.host := rfl

@[simp] theorem writeLate_flights (s : State) (d : RegId) (n : Nat) (v : Vec) : (writeLate s d n v).flights = s.flights := rfl

@[simp] theorem writeLate_nextFlight (s : State) (d : RegId) (n : Nat) (v : Vec) : (writeLate s d n v).nextFlight = s.nextFlight := rfl

@[simp] theorem writeLate_cycleFlight (s : State) (d : RegId) (n : Nat) (v : Vec) : (writeLate s d n v).cycleFlight = s.cycleFlight := rfl

@[simp] theorem writeLate_firing (s : State) (d : RegId) (n : Nat) (v : Vec) : (writeLate s d n v).firing = s.firing := rfl

@[simp] theorem writeLate_outbox (s : State) (d : RegId) (n : Nat) (v : Vec) : (writeLate s d n v).outbox = s.outbox := rfl

@[simp] theorem writeLate_cur (s : State) (d : RegId) (n : Nat) (v : Vec) : (writeLate s d n v).cur = s.cur := rfl

@[simp] theorem writeLate_turns (s : State) (d : RegId) (n : Nat) (v : Vec) : (writeLate s d n v).turns = s.turns := rfl

/-! ## parkIn -/

@[simp] theorem parkIn_cycle (s : State) (p : Park) : (parkIn p s).cycle = s.cycle := rfl

@[simp] theorem parkIn_chipId (s : State) (p : Park) : (parkIn p s).chipId = s.chipId := rfl

@[simp] theorem parkIn_mem (s : State) (p : Park) : (parkIn p s).mem = s.mem := rfl

@[simp] theorem parkIn_dramPoison (s : State) (p : Park) : (parkIn p s).dramPoison = s.dramPoison := rfl

@[simp] theorem parkIn_clusters (s : State) (p : Park) : (parkIn p s).clusters = s.clusters := rfl

@[simp] theorem parkIn_dies (s : State) (p : Park) : (parkIn p s).dies = s.dies := rfl

@[simp] theorem parkIn_regions (s : State) (p : Park) : (parkIn p s).regions = s.regions := rfl

@[simp] theorem parkIn_nextOrder (s : State) (p : Park) : (parkIn p s).nextOrder = s.nextOrder := rfl

@[simp] theorem parkIn_saved (s : State) (p : Park) : (parkIn p s).saved = s.saved := rfl

@[simp] theorem parkIn_copies (s : State) (p : Park) : (parkIn p s).copies = s.copies := rfl

@[simp] theorem parkIn_nextCopy (s : State) (p : Park) : (parkIn p s).nextCopy = s.nextCopy := rfl

@[simp] theorem parkIn_capos (s : State) (p : Park) : (parkIn p s).capos = s.capos := rfl

@[simp] theorem parkIn_expansion (s : State) (p : Park) : (parkIn p s).expansion = s.expansion := rfl

@[simp] theorem parkIn_pwrcap (s : State) (p : Park) : (parkIn p s).pwrcap = s.pwrcap := rfl

@[simp] theorem parkIn_pkgPwr (s : State) (p : Park) : (parkIn p s).pkgPwr = s.pkgPwr := rfl

@[simp] theorem parkIn_duty (s : State) (p : Park) : (parkIn p s).duty = s.duty := rfl

@[simp] theorem parkIn_pwrSum (s : State) (p : Park) : (parkIn p s).pwrSum = s.pwrSum := rfl

@[simp] theorem parkIn_ctChange (s : State) (p : Park) : (parkIn p s).ctChange = s.ctChange := rfl

@[simp] theorem parkIn_ports (s : State) (p : Park) : (parkIn p s).ports = s.ports := rfl

@[simp] theorem parkIn_soRecords (s : State) (p : Park) : (parkIn p s).soRecords = s.soRecords := rfl

@[simp] theorem parkIn_soSeq (s : State) (p : Park) : (parkIn p s).soSeq = s.soSeq := rfl

@[simp] theorem parkIn_soAtoms (s : State) (p : Park) : (parkIn p s).soAtoms = s.soAtoms := rfl

@[simp] theorem parkIn_soOut (s : State) (p : Park) : (parkIn p s).soOut = s.soOut := rfl

@[simp] theorem parkIn_host (s : State) (p : Park) : (parkIn p s).host = s.host := rfl

@[simp] theorem parkIn_flights (s : State) (p : Park) : (parkIn p s).flights = s.flights := rfl

@[simp] theorem parkIn_nextFlight (s : State) (p : Park) : (parkIn p s).nextFlight = s.nextFlight := rfl

@[simp] theorem parkIn_cycleFlight (s : State) (p : Park) : (parkIn p s).cycleFlight = s.cycleFlight := rfl

@[simp] theorem parkIn_firing (s : State) (p : Park) : (parkIn p s).firing = s.firing := rfl

@[simp] theorem parkIn_outbox (s : State) (p : Park) : (parkIn p s).outbox = s.outbox := rfl

@[simp] theorem parkIn_cur (s : State) (p : Park) : (parkIn p s).cur = s.cur := rfl

@[simp] theorem parkIn_turns (s : State) (p : Park) : (parkIn p s).turns = s.turns := rfl

/-! ## spWrite -/

@[simp] theorem spWrite_cycle (s : State) (c a r : Nat) (d : List Byte) : (spWrite s c a r d).cycle = s.cycle := rfl

@[simp] theorem spWrite_chipId (s : State) (c a r : Nat) (d : List Byte) : (spWrite s c a r d).chipId = s.chipId := rfl

@[simp] theorem spWrite_mem (s : State) (c a r : Nat) (d : List Byte) : (spWrite s c a r d).mem = s.mem := rfl

@[simp] theorem spWrite_dramPoison (s : State) (c a r : Nat) (d : List Byte) : (spWrite s c a r d).dramPoison = s.dramPoison := rfl

@[simp] theorem spWrite_clusters (s : State) (c a r : Nat) (d : List Byte) : (spWrite s c a r d).clusters = s.clusters := rfl

@[simp] theorem spWrite_dies (s : State) (c a r : Nat) (d : List Byte) : (spWrite s c a r d).dies = s.dies := rfl

@[simp] theorem spWrite_regions (s : State) (c a r : Nat) (d : List Byte) : (spWrite s c a r d).regions = s.regions := rfl

@[simp] theorem spWrite_nextOrder (s : State) (c a r : Nat) (d : List Byte) : (spWrite s c a r d).nextOrder = s.nextOrder := rfl

@[simp] theorem spWrite_saved (s : State) (c a r : Nat) (d : List Byte) : (spWrite s c a r d).saved = s.saved := rfl

@[simp] theorem spWrite_copies (s : State) (c a r : Nat) (d : List Byte) : (spWrite s c a r d).copies = s.copies := rfl

@[simp] theorem spWrite_nextCopy (s : State) (c a r : Nat) (d : List Byte) : (spWrite s c a r d).nextCopy = s.nextCopy := rfl

@[simp] theorem spWrite_capos (s : State) (c a r : Nat) (d : List Byte) : (spWrite s c a r d).capos = s.capos := rfl

@[simp] theorem spWrite_expansion (s : State) (c a r : Nat) (d : List Byte) : (spWrite s c a r d).expansion = s.expansion := rfl

@[simp] theorem spWrite_pwrcap (s : State) (c a r : Nat) (d : List Byte) : (spWrite s c a r d).pwrcap = s.pwrcap := rfl

@[simp] theorem spWrite_pkgPwr (s : State) (c a r : Nat) (d : List Byte) : (spWrite s c a r d).pkgPwr = s.pkgPwr := rfl

@[simp] theorem spWrite_duty (s : State) (c a r : Nat) (d : List Byte) : (spWrite s c a r d).duty = s.duty := rfl

@[simp] theorem spWrite_pwrSum (s : State) (c a r : Nat) (d : List Byte) : (spWrite s c a r d).pwrSum = s.pwrSum := rfl

@[simp] theorem spWrite_ctChange (s : State) (c a r : Nat) (d : List Byte) : (spWrite s c a r d).ctChange = s.ctChange := rfl

@[simp] theorem spWrite_ports (s : State) (c a r : Nat) (d : List Byte) : (spWrite s c a r d).ports = s.ports := rfl

@[simp] theorem spWrite_soRecords (s : State) (c a r : Nat) (d : List Byte) : (spWrite s c a r d).soRecords = s.soRecords := rfl

@[simp] theorem spWrite_soSeq (s : State) (c a r : Nat) (d : List Byte) : (spWrite s c a r d).soSeq = s.soSeq := rfl

@[simp] theorem spWrite_soAtoms (s : State) (c a r : Nat) (d : List Byte) : (spWrite s c a r d).soAtoms = s.soAtoms := rfl

@[simp] theorem spWrite_soOut (s : State) (c a r : Nat) (d : List Byte) : (spWrite s c a r d).soOut = s.soOut := rfl

@[simp] theorem spWrite_host (s : State) (c a r : Nat) (d : List Byte) : (spWrite s c a r d).host = s.host := rfl

@[simp] theorem spWrite_flights (s : State) (c a r : Nat) (d : List Byte) : (spWrite s c a r d).flights = s.flights := rfl

@[simp] theorem spWrite_nextFlight (s : State) (c a r : Nat) (d : List Byte) : (spWrite s c a r d).nextFlight = s.nextFlight := rfl

@[simp] theorem spWrite_cycleFlight (s : State) (c a r : Nat) (d : List Byte) : (spWrite s c a r d).cycleFlight = s.cycleFlight := rfl

@[simp] theorem spWrite_firing (s : State) (c a r : Nat) (d : List Byte) : (spWrite s c a r d).firing = s.firing := rfl

@[simp] theorem spWrite_outbox (s : State) (c a r : Nat) (d : List Byte) : (spWrite s c a r d).outbox = s.outbox := rfl

@[simp] theorem spWrite_cur (s : State) (c a r : Nat) (d : List Byte) : (spWrite s c a r d).cur = s.cur := rfl

@[simp] theorem spWrite_turns (s : State) (c a r : Nat) (d : List Byte) : (spWrite s c a r d).turns = s.turns := rfl

/-! ## setCluster -/

@[simp] theorem setCluster_cycle (s : State) (k : Nat) (c : Cluster) : (setCluster s k c).cycle = s.cycle := rfl

@[simp] theorem setCluster_chipId (s : State) (k : Nat) (c : Cluster) : (setCluster s k c).chipId = s.chipId := rfl

@[simp] theorem setCluster_mem (s : State) (k : Nat) (c : Cluster) : (setCluster s k c).mem = s.mem := rfl

@[simp] theorem setCluster_dramPoison (s : State) (k : Nat) (c : Cluster) : (setCluster s k c).dramPoison = s.dramPoison := rfl

@[simp] theorem setCluster_cores (s : State) (k : Nat) (c : Cluster) : (setCluster s k c).cores = s.cores := rfl

@[simp] theorem setCluster_dies (s : State) (k : Nat) (c : Cluster) : (setCluster s k c).dies = s.dies := rfl

@[simp] theorem setCluster_regions (s : State) (k : Nat) (c : Cluster) : (setCluster s k c).regions = s.regions := rfl

@[simp] theorem setCluster_nextOrder (s : State) (k : Nat) (c : Cluster) : (setCluster s k c).nextOrder = s.nextOrder := rfl

@[simp] theorem setCluster_saved (s : State) (k : Nat) (c : Cluster) : (setCluster s k c).saved = s.saved := rfl

@[simp] theorem setCluster_copies (s : State) (k : Nat) (c : Cluster) : (setCluster s k c).copies = s.copies := rfl

@[simp] theorem setCluster_nextCopy (s : State) (k : Nat) (c : Cluster) : (setCluster s k c).nextCopy = s.nextCopy := rfl

@[simp] theorem setCluster_capos (s : State) (k : Nat) (c : Cluster) : (setCluster s k c).capos = s.capos := rfl

@[simp] theorem setCluster_expansion (s : State) (k : Nat) (c : Cluster) : (setCluster s k c).expansion = s.expansion := rfl

@[simp] theorem setCluster_pwrcap (s : State) (k : Nat) (c : Cluster) : (setCluster s k c).pwrcap = s.pwrcap := rfl

@[simp] theorem setCluster_pkgPwr (s : State) (k : Nat) (c : Cluster) : (setCluster s k c).pkgPwr = s.pkgPwr := rfl

@[simp] theorem setCluster_duty (s : State) (k : Nat) (c : Cluster) : (setCluster s k c).duty = s.duty := rfl

@[simp] theorem setCluster_pwrSum (s : State) (k : Nat) (c : Cluster) : (setCluster s k c).pwrSum = s.pwrSum := rfl

@[simp] theorem setCluster_ctChange (s : State) (k : Nat) (c : Cluster) : (setCluster s k c).ctChange = s.ctChange := rfl

@[simp] theorem setCluster_ports (s : State) (k : Nat) (c : Cluster) : (setCluster s k c).ports = s.ports := rfl

@[simp] theorem setCluster_soRecords (s : State) (k : Nat) (c : Cluster) : (setCluster s k c).soRecords = s.soRecords := rfl

@[simp] theorem setCluster_soSeq (s : State) (k : Nat) (c : Cluster) : (setCluster s k c).soSeq = s.soSeq := rfl

@[simp] theorem setCluster_soAtoms (s : State) (k : Nat) (c : Cluster) : (setCluster s k c).soAtoms = s.soAtoms := rfl

@[simp] theorem setCluster_soOut (s : State) (k : Nat) (c : Cluster) : (setCluster s k c).soOut = s.soOut := rfl

@[simp] theorem setCluster_host (s : State) (k : Nat) (c : Cluster) : (setCluster s k c).host = s.host := rfl

@[simp] theorem setCluster_flights (s : State) (k : Nat) (c : Cluster) : (setCluster s k c).flights = s.flights := rfl

@[simp] theorem setCluster_nextFlight (s : State) (k : Nat) (c : Cluster) : (setCluster s k c).nextFlight = s.nextFlight := rfl

@[simp] theorem setCluster_cycleFlight (s : State) (k : Nat) (c : Cluster) : (setCluster s k c).cycleFlight = s.cycleFlight := rfl

@[simp] theorem setCluster_firing (s : State) (k : Nat) (c : Cluster) : (setCluster s k c).firing = s.firing := rfl

@[simp] theorem setCluster_outbox (s : State) (k : Nat) (c : Cluster) : (setCluster s k c).outbox = s.outbox := rfl

@[simp] theorem setCluster_cur (s : State) (k : Nat) (c : Cluster) : (setCluster s k c).cur = s.cur := rfl

@[simp] theorem setCluster_turns (s : State) (k : Nat) (c : Cluster) : (setCluster s k c).turns = s.turns := rfl

/-! ## modCluster -/

@[simp] theorem modCluster_cycle (s : State) (k : Nat) (f : Cluster → Cluster) : (modCluster s k f).cycle = s.cycle := rfl

@[simp] theorem modCluster_chipId (s : State) (k : Nat) (f : Cluster → Cluster) : (modCluster s k f).chipId = s.chipId := rfl

@[simp] theorem modCluster_mem (s : State) (k : Nat) (f : Cluster → Cluster) : (modCluster s k f).mem = s.mem := rfl

@[simp] theorem modCluster_dramPoison (s : State) (k : Nat) (f : Cluster → Cluster) : (modCluster s k f).dramPoison = s.dramPoison := rfl

@[simp] theorem modCluster_cores (s : State) (k : Nat) (f : Cluster → Cluster) : (modCluster s k f).cores = s.cores := rfl

@[simp] theorem modCluster_dies (s : State) (k : Nat) (f : Cluster → Cluster) : (modCluster s k f).dies = s.dies := rfl

@[simp] theorem modCluster_regions (s : State) (k : Nat) (f : Cluster → Cluster) : (modCluster s k f).regions = s.regions := rfl

@[simp] theorem modCluster_nextOrder (s : State) (k : Nat) (f : Cluster → Cluster) : (modCluster s k f).nextOrder = s.nextOrder := rfl

@[simp] theorem modCluster_saved (s : State) (k : Nat) (f : Cluster → Cluster) : (modCluster s k f).saved = s.saved := rfl

@[simp] theorem modCluster_copies (s : State) (k : Nat) (f : Cluster → Cluster) : (modCluster s k f).copies = s.copies := rfl

@[simp] theorem modCluster_nextCopy (s : State) (k : Nat) (f : Cluster → Cluster) : (modCluster s k f).nextCopy = s.nextCopy := rfl

@[simp] theorem modCluster_capos (s : State) (k : Nat) (f : Cluster → Cluster) : (modCluster s k f).capos = s.capos := rfl

@[simp] theorem modCluster_expansion (s : State) (k : Nat) (f : Cluster → Cluster) : (modCluster s k f).expansion = s.expansion := rfl

@[simp] theorem modCluster_pwrcap (s : State) (k : Nat) (f : Cluster → Cluster) : (modCluster s k f).pwrcap = s.pwrcap := rfl

@[simp] theorem modCluster_pkgPwr (s : State) (k : Nat) (f : Cluster → Cluster) : (modCluster s k f).pkgPwr = s.pkgPwr := rfl

@[simp] theorem modCluster_duty (s : State) (k : Nat) (f : Cluster → Cluster) : (modCluster s k f).duty = s.duty := rfl

@[simp] theorem modCluster_pwrSum (s : State) (k : Nat) (f : Cluster → Cluster) : (modCluster s k f).pwrSum = s.pwrSum := rfl

@[simp] theorem modCluster_ctChange (s : State) (k : Nat) (f : Cluster → Cluster) : (modCluster s k f).ctChange = s.ctChange := rfl

@[simp] theorem modCluster_ports (s : State) (k : Nat) (f : Cluster → Cluster) : (modCluster s k f).ports = s.ports := rfl

@[simp] theorem modCluster_soRecords (s : State) (k : Nat) (f : Cluster → Cluster) : (modCluster s k f).soRecords = s.soRecords := rfl

@[simp] theorem modCluster_soSeq (s : State) (k : Nat) (f : Cluster → Cluster) : (modCluster s k f).soSeq = s.soSeq := rfl

@[simp] theorem modCluster_soAtoms (s : State) (k : Nat) (f : Cluster → Cluster) : (modCluster s k f).soAtoms = s.soAtoms := rfl

@[simp] theorem modCluster_soOut (s : State) (k : Nat) (f : Cluster → Cluster) : (modCluster s k f).soOut = s.soOut := rfl

@[simp] theorem modCluster_host (s : State) (k : Nat) (f : Cluster → Cluster) : (modCluster s k f).host = s.host := rfl

@[simp] theorem modCluster_flights (s : State) (k : Nat) (f : Cluster → Cluster) : (modCluster s k f).flights = s.flights := rfl

@[simp] theorem modCluster_nextFlight (s : State) (k : Nat) (f : Cluster → Cluster) : (modCluster s k f).nextFlight = s.nextFlight := rfl

@[simp] theorem modCluster_cycleFlight (s : State) (k : Nat) (f : Cluster → Cluster) : (modCluster s k f).cycleFlight = s.cycleFlight := rfl

@[simp] theorem modCluster_firing (s : State) (k : Nat) (f : Cluster → Cluster) : (modCluster s k f).firing = s.firing := rfl

@[simp] theorem modCluster_outbox (s : State) (k : Nat) (f : Cluster → Cluster) : (modCluster s k f).outbox = s.outbox := rfl

@[simp] theorem modCluster_cur (s : State) (k : Nat) (f : Cluster → Cluster) : (modCluster s k f).cur = s.cur := rfl

@[simp] theorem modCluster_turns (s : State) (k : Nat) (f : Cluster → Cluster) : (modCluster s k f).turns = s.turns := rfl

/-! ## setDie -/

@[simp] theorem setDie_cycle (s : State) (d : Nat) (k : Die) : (setDie s d k).cycle = s.cycle := rfl

@[simp] theorem setDie_chipId (s : State) (d : Nat) (k : Die) : (setDie s d k).chipId = s.chipId := rfl

@[simp] theorem setDie_mem (s : State) (d : Nat) (k : Die) : (setDie s d k).mem = s.mem := rfl

@[simp] theorem setDie_dramPoison (s : State) (d : Nat) (k : Die) : (setDie s d k).dramPoison = s.dramPoison := rfl

@[simp] theorem setDie_cores (s : State) (d : Nat) (k : Die) : (setDie s d k).cores = s.cores := rfl

@[simp] theorem setDie_clusters (s : State) (d : Nat) (k : Die) : (setDie s d k).clusters = s.clusters := rfl

@[simp] theorem setDie_regions (s : State) (d : Nat) (k : Die) : (setDie s d k).regions = s.regions := rfl

@[simp] theorem setDie_nextOrder (s : State) (d : Nat) (k : Die) : (setDie s d k).nextOrder = s.nextOrder := rfl

@[simp] theorem setDie_saved (s : State) (d : Nat) (k : Die) : (setDie s d k).saved = s.saved := rfl

@[simp] theorem setDie_copies (s : State) (d : Nat) (k : Die) : (setDie s d k).copies = s.copies := rfl

@[simp] theorem setDie_nextCopy (s : State) (d : Nat) (k : Die) : (setDie s d k).nextCopy = s.nextCopy := rfl

@[simp] theorem setDie_capos (s : State) (d : Nat) (k : Die) : (setDie s d k).capos = s.capos := rfl

@[simp] theorem setDie_expansion (s : State) (d : Nat) (k : Die) : (setDie s d k).expansion = s.expansion := rfl

@[simp] theorem setDie_pwrcap (s : State) (d : Nat) (k : Die) : (setDie s d k).pwrcap = s.pwrcap := rfl

@[simp] theorem setDie_pkgPwr (s : State) (d : Nat) (k : Die) : (setDie s d k).pkgPwr = s.pkgPwr := rfl

@[simp] theorem setDie_duty (s : State) (d : Nat) (k : Die) : (setDie s d k).duty = s.duty := rfl

@[simp] theorem setDie_pwrSum (s : State) (d : Nat) (k : Die) : (setDie s d k).pwrSum = s.pwrSum := rfl

@[simp] theorem setDie_ctChange (s : State) (d : Nat) (k : Die) : (setDie s d k).ctChange = s.ctChange := rfl

@[simp] theorem setDie_ports (s : State) (d : Nat) (k : Die) : (setDie s d k).ports = s.ports := rfl

@[simp] theorem setDie_soRecords (s : State) (d : Nat) (k : Die) : (setDie s d k).soRecords = s.soRecords := rfl

@[simp] theorem setDie_soSeq (s : State) (d : Nat) (k : Die) : (setDie s d k).soSeq = s.soSeq := rfl

@[simp] theorem setDie_soAtoms (s : State) (d : Nat) (k : Die) : (setDie s d k).soAtoms = s.soAtoms := rfl

@[simp] theorem setDie_soOut (s : State) (d : Nat) (k : Die) : (setDie s d k).soOut = s.soOut := rfl

@[simp] theorem setDie_host (s : State) (d : Nat) (k : Die) : (setDie s d k).host = s.host := rfl

@[simp] theorem setDie_flights (s : State) (d : Nat) (k : Die) : (setDie s d k).flights = s.flights := rfl

@[simp] theorem setDie_nextFlight (s : State) (d : Nat) (k : Die) : (setDie s d k).nextFlight = s.nextFlight := rfl

@[simp] theorem setDie_cycleFlight (s : State) (d : Nat) (k : Die) : (setDie s d k).cycleFlight = s.cycleFlight := rfl

@[simp] theorem setDie_firing (s : State) (d : Nat) (k : Die) : (setDie s d k).firing = s.firing := rfl

@[simp] theorem setDie_outbox (s : State) (d : Nat) (k : Die) : (setDie s d k).outbox = s.outbox := rfl

@[simp] theorem setDie_cur (s : State) (d : Nat) (k : Die) : (setDie s d k).cur = s.cur := rfl

@[simp] theorem setDie_turns (s : State) (d : Nat) (k : Die) : (setDie s d k).turns = s.turns := rfl

/-! ## modDie -/

@[simp] theorem modDie_cycle (s : State) (d : Nat) (f : Die → Die) : (modDie s d f).cycle = s.cycle := rfl

@[simp] theorem modDie_chipId (s : State) (d : Nat) (f : Die → Die) : (modDie s d f).chipId = s.chipId := rfl

@[simp] theorem modDie_mem (s : State) (d : Nat) (f : Die → Die) : (modDie s d f).mem = s.mem := rfl

@[simp] theorem modDie_dramPoison (s : State) (d : Nat) (f : Die → Die) : (modDie s d f).dramPoison = s.dramPoison := rfl

@[simp] theorem modDie_cores (s : State) (d : Nat) (f : Die → Die) : (modDie s d f).cores = s.cores := rfl

@[simp] theorem modDie_clusters (s : State) (d : Nat) (f : Die → Die) : (modDie s d f).clusters = s.clusters := rfl

@[simp] theorem modDie_regions (s : State) (d : Nat) (f : Die → Die) : (modDie s d f).regions = s.regions := rfl

@[simp] theorem modDie_nextOrder (s : State) (d : Nat) (f : Die → Die) : (modDie s d f).nextOrder = s.nextOrder := rfl

@[simp] theorem modDie_saved (s : State) (d : Nat) (f : Die → Die) : (modDie s d f).saved = s.saved := rfl

@[simp] theorem modDie_copies (s : State) (d : Nat) (f : Die → Die) : (modDie s d f).copies = s.copies := rfl

@[simp] theorem modDie_nextCopy (s : State) (d : Nat) (f : Die → Die) : (modDie s d f).nextCopy = s.nextCopy := rfl

@[simp] theorem modDie_capos (s : State) (d : Nat) (f : Die → Die) : (modDie s d f).capos = s.capos := rfl

@[simp] theorem modDie_expansion (s : State) (d : Nat) (f : Die → Die) : (modDie s d f).expansion = s.expansion := rfl

@[simp] theorem modDie_pwrcap (s : State) (d : Nat) (f : Die → Die) : (modDie s d f).pwrcap = s.pwrcap := rfl

@[simp] theorem modDie_pkgPwr (s : State) (d : Nat) (f : Die → Die) : (modDie s d f).pkgPwr = s.pkgPwr := rfl

@[simp] theorem modDie_duty (s : State) (d : Nat) (f : Die → Die) : (modDie s d f).duty = s.duty := rfl

@[simp] theorem modDie_pwrSum (s : State) (d : Nat) (f : Die → Die) : (modDie s d f).pwrSum = s.pwrSum := rfl

@[simp] theorem modDie_ctChange (s : State) (d : Nat) (f : Die → Die) : (modDie s d f).ctChange = s.ctChange := rfl

@[simp] theorem modDie_ports (s : State) (d : Nat) (f : Die → Die) : (modDie s d f).ports = s.ports := rfl

@[simp] theorem modDie_soRecords (s : State) (d : Nat) (f : Die → Die) : (modDie s d f).soRecords = s.soRecords := rfl

@[simp] theorem modDie_soSeq (s : State) (d : Nat) (f : Die → Die) : (modDie s d f).soSeq = s.soSeq := rfl

@[simp] theorem modDie_soAtoms (s : State) (d : Nat) (f : Die → Die) : (modDie s d f).soAtoms = s.soAtoms := rfl

@[simp] theorem modDie_soOut (s : State) (d : Nat) (f : Die → Die) : (modDie s d f).soOut = s.soOut := rfl

@[simp] theorem modDie_host (s : State) (d : Nat) (f : Die → Die) : (modDie s d f).host = s.host := rfl

@[simp] theorem modDie_flights (s : State) (d : Nat) (f : Die → Die) : (modDie s d f).flights = s.flights := rfl

@[simp] theorem modDie_nextFlight (s : State) (d : Nat) (f : Die → Die) : (modDie s d f).nextFlight = s.nextFlight := rfl

@[simp] theorem modDie_cycleFlight (s : State) (d : Nat) (f : Die → Die) : (modDie s d f).cycleFlight = s.cycleFlight := rfl

@[simp] theorem modDie_firing (s : State) (d : Nat) (f : Die → Die) : (modDie s d f).firing = s.firing := rfl

@[simp] theorem modDie_outbox (s : State) (d : Nat) (f : Die → Die) : (modDie s d f).outbox = s.outbox := rfl

@[simp] theorem modDie_cur (s : State) (d : Nat) (f : Die → Die) : (modDie s d f).cur = s.cur := rfl

@[simp] theorem modDie_turns (s : State) (d : Nat) (f : Die → Die) : (modDie s d f).turns = s.turns := rfl

/-! ## countError -/

@[simp] theorem countError_cycle (s : State) (d n : Nat) : (countError s d n).cycle = s.cycle := rfl

@[simp] theorem countError_chipId (s : State) (d n : Nat) : (countError s d n).chipId = s.chipId := rfl

@[simp] theorem countError_mem (s : State) (d n : Nat) : (countError s d n).mem = s.mem := rfl

@[simp] theorem countError_dramPoison (s : State) (d n : Nat) : (countError s d n).dramPoison = s.dramPoison := rfl

@[simp] theorem countError_cores (s : State) (d n : Nat) : (countError s d n).cores = s.cores := rfl

@[simp] theorem countError_clusters (s : State) (d n : Nat) : (countError s d n).clusters = s.clusters := rfl

@[simp] theorem countError_regions (s : State) (d n : Nat) : (countError s d n).regions = s.regions := rfl

@[simp] theorem countError_nextOrder (s : State) (d n : Nat) : (countError s d n).nextOrder = s.nextOrder := rfl

@[simp] theorem countError_saved (s : State) (d n : Nat) : (countError s d n).saved = s.saved := rfl

@[simp] theorem countError_copies (s : State) (d n : Nat) : (countError s d n).copies = s.copies := rfl

@[simp] theorem countError_nextCopy (s : State) (d n : Nat) : (countError s d n).nextCopy = s.nextCopy := rfl

@[simp] theorem countError_capos (s : State) (d n : Nat) : (countError s d n).capos = s.capos := rfl

@[simp] theorem countError_expansion (s : State) (d n : Nat) : (countError s d n).expansion = s.expansion := rfl

@[simp] theorem countError_pwrcap (s : State) (d n : Nat) : (countError s d n).pwrcap = s.pwrcap := rfl

@[simp] theorem countError_pkgPwr (s : State) (d n : Nat) : (countError s d n).pkgPwr = s.pkgPwr := rfl

@[simp] theorem countError_duty (s : State) (d n : Nat) : (countError s d n).duty = s.duty := rfl

@[simp] theorem countError_pwrSum (s : State) (d n : Nat) : (countError s d n).pwrSum = s.pwrSum := rfl

@[simp] theorem countError_ctChange (s : State) (d n : Nat) : (countError s d n).ctChange = s.ctChange := rfl

@[simp] theorem countError_ports (s : State) (d n : Nat) : (countError s d n).ports = s.ports := rfl

@[simp] theorem countError_soRecords (s : State) (d n : Nat) : (countError s d n).soRecords = s.soRecords := rfl

@[simp] theorem countError_soSeq (s : State) (d n : Nat) : (countError s d n).soSeq = s.soSeq := rfl

@[simp] theorem countError_soAtoms (s : State) (d n : Nat) : (countError s d n).soAtoms = s.soAtoms := rfl

@[simp] theorem countError_soOut (s : State) (d n : Nat) : (countError s d n).soOut = s.soOut := rfl

@[simp] theorem countError_host (s : State) (d n : Nat) : (countError s d n).host = s.host := rfl

@[simp] theorem countError_flights (s : State) (d n : Nat) : (countError s d n).flights = s.flights := rfl

@[simp] theorem countError_nextFlight (s : State) (d n : Nat) : (countError s d n).nextFlight = s.nextFlight := rfl

@[simp] theorem countError_cycleFlight (s : State) (d n : Nat) : (countError s d n).cycleFlight = s.cycleFlight := rfl

@[simp] theorem countError_firing (s : State) (d n : Nat) : (countError s d n).firing = s.firing := rfl

@[simp] theorem countError_outbox (s : State) (d n : Nat) : (countError s d n).outbox = s.outbox := rfl

@[simp] theorem countError_cur (s : State) (d n : Nat) : (countError s d n).cur = s.cur := rfl

@[simp] theorem countError_turns (s : State) (d n : Nat) : (countError s d n).turns = s.turns := rfl

/-! ## modRegion -/

@[simp] theorem modRegion_cycle (s : State) (r : Nat) (f : Region → Region) : (modRegion s r f).cycle = s.cycle := by unfold modRegion; split <;> rfl

@[simp] theorem modRegion_chipId (s : State) (r : Nat) (f : Region → Region) : (modRegion s r f).chipId = s.chipId := by unfold modRegion; split <;> rfl

@[simp] theorem modRegion_mem (s : State) (r : Nat) (f : Region → Region) : (modRegion s r f).mem = s.mem := by unfold modRegion; split <;> rfl

@[simp] theorem modRegion_dramPoison (s : State) (r : Nat) (f : Region → Region) : (modRegion s r f).dramPoison = s.dramPoison := by unfold modRegion; split <;> rfl

@[simp] theorem modRegion_cores (s : State) (r : Nat) (f : Region → Region) : (modRegion s r f).cores = s.cores := by unfold modRegion; split <;> rfl

@[simp] theorem modRegion_clusters (s : State) (r : Nat) (f : Region → Region) : (modRegion s r f).clusters = s.clusters := by unfold modRegion; split <;> rfl

@[simp] theorem modRegion_dies (s : State) (r : Nat) (f : Region → Region) : (modRegion s r f).dies = s.dies := by unfold modRegion; split <;> rfl

@[simp] theorem modRegion_nextOrder (s : State) (r : Nat) (f : Region → Region) : (modRegion s r f).nextOrder = s.nextOrder := by unfold modRegion; split <;> rfl

@[simp] theorem modRegion_saved (s : State) (r : Nat) (f : Region → Region) : (modRegion s r f).saved = s.saved := by unfold modRegion; split <;> rfl

@[simp] theorem modRegion_copies (s : State) (r : Nat) (f : Region → Region) : (modRegion s r f).copies = s.copies := by unfold modRegion; split <;> rfl

@[simp] theorem modRegion_nextCopy (s : State) (r : Nat) (f : Region → Region) : (modRegion s r f).nextCopy = s.nextCopy := by unfold modRegion; split <;> rfl

@[simp] theorem modRegion_capos (s : State) (r : Nat) (f : Region → Region) : (modRegion s r f).capos = s.capos := by unfold modRegion; split <;> rfl

@[simp] theorem modRegion_expansion (s : State) (r : Nat) (f : Region → Region) : (modRegion s r f).expansion = s.expansion := by unfold modRegion; split <;> rfl

@[simp] theorem modRegion_pwrcap (s : State) (r : Nat) (f : Region → Region) : (modRegion s r f).pwrcap = s.pwrcap := by unfold modRegion; split <;> rfl

@[simp] theorem modRegion_pkgPwr (s : State) (r : Nat) (f : Region → Region) : (modRegion s r f).pkgPwr = s.pkgPwr := by unfold modRegion; split <;> rfl

@[simp] theorem modRegion_duty (s : State) (r : Nat) (f : Region → Region) : (modRegion s r f).duty = s.duty := by unfold modRegion; split <;> rfl

@[simp] theorem modRegion_pwrSum (s : State) (r : Nat) (f : Region → Region) : (modRegion s r f).pwrSum = s.pwrSum := by unfold modRegion; split <;> rfl

@[simp] theorem modRegion_ctChange (s : State) (r : Nat) (f : Region → Region) : (modRegion s r f).ctChange = s.ctChange := by unfold modRegion; split <;> rfl

@[simp] theorem modRegion_ports (s : State) (r : Nat) (f : Region → Region) : (modRegion s r f).ports = s.ports := by unfold modRegion; split <;> rfl

@[simp] theorem modRegion_soRecords (s : State) (r : Nat) (f : Region → Region) : (modRegion s r f).soRecords = s.soRecords := by unfold modRegion; split <;> rfl

@[simp] theorem modRegion_soSeq (s : State) (r : Nat) (f : Region → Region) : (modRegion s r f).soSeq = s.soSeq := by unfold modRegion; split <;> rfl

@[simp] theorem modRegion_soAtoms (s : State) (r : Nat) (f : Region → Region) : (modRegion s r f).soAtoms = s.soAtoms := by unfold modRegion; split <;> rfl

@[simp] theorem modRegion_soOut (s : State) (r : Nat) (f : Region → Region) : (modRegion s r f).soOut = s.soOut := by unfold modRegion; split <;> rfl

@[simp] theorem modRegion_host (s : State) (r : Nat) (f : Region → Region) : (modRegion s r f).host = s.host := by unfold modRegion; split <;> rfl

@[simp] theorem modRegion_flights (s : State) (r : Nat) (f : Region → Region) : (modRegion s r f).flights = s.flights := by unfold modRegion; split <;> rfl

@[simp] theorem modRegion_nextFlight (s : State) (r : Nat) (f : Region → Region) : (modRegion s r f).nextFlight = s.nextFlight := by unfold modRegion; split <;> rfl

@[simp] theorem modRegion_cycleFlight (s : State) (r : Nat) (f : Region → Region) : (modRegion s r f).cycleFlight = s.cycleFlight := by unfold modRegion; split <;> rfl

@[simp] theorem modRegion_firing (s : State) (r : Nat) (f : Region → Region) : (modRegion s r f).firing = s.firing := by unfold modRegion; split <;> rfl

@[simp] theorem modRegion_outbox (s : State) (r : Nat) (f : Region → Region) : (modRegion s r f).outbox = s.outbox := by unfold modRegion; split <;> rfl

@[simp] theorem modRegion_cur (s : State) (r : Nat) (f : Region → Region) : (modRegion s r f).cur = s.cur := by unfold modRegion; split <;> rfl

@[simp] theorem modRegion_turns (s : State) (r : Nat) (f : Region → Region) : (modRegion s r f).turns = s.turns := by unfold modRegion; split <;> rfl

/-! ## launch -/

@[simp] theorem launch_cycle (s : State) (ch : Option Chan) (n : Nat) (b : Bool) (e : Event) : (launch s ch n b e).cycle = s.cycle := rfl

@[simp] theorem launch_chipId (s : State) (ch : Option Chan) (n : Nat) (b : Bool) (e : Event) : (launch s ch n b e).chipId = s.chipId := rfl

@[simp] theorem launch_mem (s : State) (ch : Option Chan) (n : Nat) (b : Bool) (e : Event) : (launch s ch n b e).mem = s.mem := rfl

@[simp] theorem launch_dramPoison (s : State) (ch : Option Chan) (n : Nat) (b : Bool) (e : Event) : (launch s ch n b e).dramPoison = s.dramPoison := rfl

@[simp] theorem launch_cores (s : State) (ch : Option Chan) (n : Nat) (b : Bool) (e : Event) : (launch s ch n b e).cores = s.cores := rfl

@[simp] theorem launch_clusters (s : State) (ch : Option Chan) (n : Nat) (b : Bool) (e : Event) : (launch s ch n b e).clusters = s.clusters := rfl

@[simp] theorem launch_dies (s : State) (ch : Option Chan) (n : Nat) (b : Bool) (e : Event) : (launch s ch n b e).dies = s.dies := rfl

@[simp] theorem launch_regions (s : State) (ch : Option Chan) (n : Nat) (b : Bool) (e : Event) : (launch s ch n b e).regions = s.regions := rfl

@[simp] theorem launch_nextOrder (s : State) (ch : Option Chan) (n : Nat) (b : Bool) (e : Event) : (launch s ch n b e).nextOrder = s.nextOrder := rfl

@[simp] theorem launch_saved (s : State) (ch : Option Chan) (n : Nat) (b : Bool) (e : Event) : (launch s ch n b e).saved = s.saved := rfl

@[simp] theorem launch_copies (s : State) (ch : Option Chan) (n : Nat) (b : Bool) (e : Event) : (launch s ch n b e).copies = s.copies := rfl

@[simp] theorem launch_nextCopy (s : State) (ch : Option Chan) (n : Nat) (b : Bool) (e : Event) : (launch s ch n b e).nextCopy = s.nextCopy := rfl

@[simp] theorem launch_capos (s : State) (ch : Option Chan) (n : Nat) (b : Bool) (e : Event) : (launch s ch n b e).capos = s.capos := rfl

@[simp] theorem launch_expansion (s : State) (ch : Option Chan) (n : Nat) (b : Bool) (e : Event) : (launch s ch n b e).expansion = s.expansion := rfl

@[simp] theorem launch_pwrcap (s : State) (ch : Option Chan) (n : Nat) (b : Bool) (e : Event) : (launch s ch n b e).pwrcap = s.pwrcap := rfl

@[simp] theorem launch_pkgPwr (s : State) (ch : Option Chan) (n : Nat) (b : Bool) (e : Event) : (launch s ch n b e).pkgPwr = s.pkgPwr := rfl

@[simp] theorem launch_duty (s : State) (ch : Option Chan) (n : Nat) (b : Bool) (e : Event) : (launch s ch n b e).duty = s.duty := rfl

@[simp] theorem launch_pwrSum (s : State) (ch : Option Chan) (n : Nat) (b : Bool) (e : Event) : (launch s ch n b e).pwrSum = s.pwrSum := rfl

@[simp] theorem launch_ctChange (s : State) (ch : Option Chan) (n : Nat) (b : Bool) (e : Event) : (launch s ch n b e).ctChange = s.ctChange := rfl

@[simp] theorem launch_ports (s : State) (ch : Option Chan) (n : Nat) (b : Bool) (e : Event) : (launch s ch n b e).ports = s.ports := rfl

@[simp] theorem launch_soRecords (s : State) (ch : Option Chan) (n : Nat) (b : Bool) (e : Event) : (launch s ch n b e).soRecords = s.soRecords := rfl

@[simp] theorem launch_soSeq (s : State) (ch : Option Chan) (n : Nat) (b : Bool) (e : Event) : (launch s ch n b e).soSeq = s.soSeq := rfl

@[simp] theorem launch_soAtoms (s : State) (ch : Option Chan) (n : Nat) (b : Bool) (e : Event) : (launch s ch n b e).soAtoms = s.soAtoms := rfl

@[simp] theorem launch_soOut (s : State) (ch : Option Chan) (n : Nat) (b : Bool) (e : Event) : (launch s ch n b e).soOut = s.soOut := rfl

@[simp] theorem launch_host (s : State) (ch : Option Chan) (n : Nat) (b : Bool) (e : Event) : (launch s ch n b e).host = s.host := rfl

@[simp] theorem launch_cycleFlight (s : State) (ch : Option Chan) (n : Nat) (b : Bool) (e : Event) : (launch s ch n b e).cycleFlight = s.cycleFlight := rfl

@[simp] theorem launch_firing (s : State) (ch : Option Chan) (n : Nat) (b : Bool) (e : Event) : (launch s ch n b e).firing = s.firing := rfl

@[simp] theorem launch_outbox (s : State) (ch : Option Chan) (n : Nat) (b : Bool) (e : Event) : (launch s ch n b e).outbox = s.outbox := rfl

@[simp] theorem launch_cur (s : State) (ch : Option Chan) (n : Nat) (b : Bool) (e : Event) : (launch s ch n b e).cur = s.cur := rfl

@[simp] theorem launch_turns (s : State) (ch : Option Chan) (n : Nat) (b : Bool) (e : Event) : (launch s ch n b e).turns = s.turns := rfl

/-! ## sendTo -/

@[simp] theorem sendTo_cycle (s : State) (n : Nat) (p : Place) (e : Event) : (sendTo s n p e).cycle = s.cycle := rfl

@[simp] theorem sendTo_chipId (s : State) (n : Nat) (p : Place) (e : Event) : (sendTo s n p e).chipId = s.chipId := rfl

@[simp] theorem sendTo_mem (s : State) (n : Nat) (p : Place) (e : Event) : (sendTo s n p e).mem = s.mem := rfl

@[simp] theorem sendTo_dramPoison (s : State) (n : Nat) (p : Place) (e : Event) : (sendTo s n p e).dramPoison = s.dramPoison := rfl

@[simp] theorem sendTo_cores (s : State) (n : Nat) (p : Place) (e : Event) : (sendTo s n p e).cores = s.cores := rfl

@[simp] theorem sendTo_clusters (s : State) (n : Nat) (p : Place) (e : Event) : (sendTo s n p e).clusters = s.clusters := rfl

@[simp] theorem sendTo_dies (s : State) (n : Nat) (p : Place) (e : Event) : (sendTo s n p e).dies = s.dies := rfl

@[simp] theorem sendTo_regions (s : State) (n : Nat) (p : Place) (e : Event) : (sendTo s n p e).regions = s.regions := rfl

@[simp] theorem sendTo_nextOrder (s : State) (n : Nat) (p : Place) (e : Event) : (sendTo s n p e).nextOrder = s.nextOrder := rfl

@[simp] theorem sendTo_saved (s : State) (n : Nat) (p : Place) (e : Event) : (sendTo s n p e).saved = s.saved := rfl

@[simp] theorem sendTo_copies (s : State) (n : Nat) (p : Place) (e : Event) : (sendTo s n p e).copies = s.copies := rfl

@[simp] theorem sendTo_nextCopy (s : State) (n : Nat) (p : Place) (e : Event) : (sendTo s n p e).nextCopy = s.nextCopy := rfl

@[simp] theorem sendTo_capos (s : State) (n : Nat) (p : Place) (e : Event) : (sendTo s n p e).capos = s.capos := rfl

@[simp] theorem sendTo_expansion (s : State) (n : Nat) (p : Place) (e : Event) : (sendTo s n p e).expansion = s.expansion := rfl

@[simp] theorem sendTo_pwrcap (s : State) (n : Nat) (p : Place) (e : Event) : (sendTo s n p e).pwrcap = s.pwrcap := rfl

@[simp] theorem sendTo_pkgPwr (s : State) (n : Nat) (p : Place) (e : Event) : (sendTo s n p e).pkgPwr = s.pkgPwr := rfl

@[simp] theorem sendTo_duty (s : State) (n : Nat) (p : Place) (e : Event) : (sendTo s n p e).duty = s.duty := rfl

@[simp] theorem sendTo_pwrSum (s : State) (n : Nat) (p : Place) (e : Event) : (sendTo s n p e).pwrSum = s.pwrSum := rfl

@[simp] theorem sendTo_ctChange (s : State) (n : Nat) (p : Place) (e : Event) : (sendTo s n p e).ctChange = s.ctChange := rfl

@[simp] theorem sendTo_ports (s : State) (n : Nat) (p : Place) (e : Event) : (sendTo s n p e).ports = s.ports := rfl

@[simp] theorem sendTo_soRecords (s : State) (n : Nat) (p : Place) (e : Event) : (sendTo s n p e).soRecords = s.soRecords := rfl

@[simp] theorem sendTo_soSeq (s : State) (n : Nat) (p : Place) (e : Event) : (sendTo s n p e).soSeq = s.soSeq := rfl

@[simp] theorem sendTo_soAtoms (s : State) (n : Nat) (p : Place) (e : Event) : (sendTo s n p e).soAtoms = s.soAtoms := rfl

@[simp] theorem sendTo_soOut (s : State) (n : Nat) (p : Place) (e : Event) : (sendTo s n p e).soOut = s.soOut := rfl

@[simp] theorem sendTo_host (s : State) (n : Nat) (p : Place) (e : Event) : (sendTo s n p e).host = s.host := rfl

@[simp] theorem sendTo_cycleFlight (s : State) (n : Nat) (p : Place) (e : Event) : (sendTo s n p e).cycleFlight = s.cycleFlight := rfl

@[simp] theorem sendTo_firing (s : State) (n : Nat) (p : Place) (e : Event) : (sendTo s n p e).firing = s.firing := rfl

@[simp] theorem sendTo_outbox (s : State) (n : Nat) (p : Place) (e : Event) : (sendTo s n p e).outbox = s.outbox := rfl

@[simp] theorem sendTo_cur (s : State) (n : Nat) (p : Place) (e : Event) : (sendTo s n p e).cur = s.cur := rfl

@[simp] theorem sendTo_turns (s : State) (n : Nat) (p : Place) (e : Event) : (sendTo s n p e).turns = s.turns := rfl

/-! ## putBack -/

@[simp] theorem putBack_cycle (s : State) (n : Nat) (p : Place) (e : Event) : (putBack s n p e).cycle = s.cycle := rfl

@[simp] theorem putBack_chipId (s : State) (n : Nat) (p : Place) (e : Event) : (putBack s n p e).chipId = s.chipId := rfl

@[simp] theorem putBack_mem (s : State) (n : Nat) (p : Place) (e : Event) : (putBack s n p e).mem = s.mem := rfl

@[simp] theorem putBack_dramPoison (s : State) (n : Nat) (p : Place) (e : Event) : (putBack s n p e).dramPoison = s.dramPoison := rfl

@[simp] theorem putBack_cores (s : State) (n : Nat) (p : Place) (e : Event) : (putBack s n p e).cores = s.cores := rfl

@[simp] theorem putBack_clusters (s : State) (n : Nat) (p : Place) (e : Event) : (putBack s n p e).clusters = s.clusters := rfl

@[simp] theorem putBack_dies (s : State) (n : Nat) (p : Place) (e : Event) : (putBack s n p e).dies = s.dies := rfl

@[simp] theorem putBack_regions (s : State) (n : Nat) (p : Place) (e : Event) : (putBack s n p e).regions = s.regions := rfl

@[simp] theorem putBack_nextOrder (s : State) (n : Nat) (p : Place) (e : Event) : (putBack s n p e).nextOrder = s.nextOrder := rfl

@[simp] theorem putBack_saved (s : State) (n : Nat) (p : Place) (e : Event) : (putBack s n p e).saved = s.saved := rfl

@[simp] theorem putBack_copies (s : State) (n : Nat) (p : Place) (e : Event) : (putBack s n p e).copies = s.copies := rfl

@[simp] theorem putBack_nextCopy (s : State) (n : Nat) (p : Place) (e : Event) : (putBack s n p e).nextCopy = s.nextCopy := rfl

@[simp] theorem putBack_capos (s : State) (n : Nat) (p : Place) (e : Event) : (putBack s n p e).capos = s.capos := rfl

@[simp] theorem putBack_expansion (s : State) (n : Nat) (p : Place) (e : Event) : (putBack s n p e).expansion = s.expansion := rfl

@[simp] theorem putBack_pwrcap (s : State) (n : Nat) (p : Place) (e : Event) : (putBack s n p e).pwrcap = s.pwrcap := rfl

@[simp] theorem putBack_pkgPwr (s : State) (n : Nat) (p : Place) (e : Event) : (putBack s n p e).pkgPwr = s.pkgPwr := rfl

@[simp] theorem putBack_duty (s : State) (n : Nat) (p : Place) (e : Event) : (putBack s n p e).duty = s.duty := rfl

@[simp] theorem putBack_pwrSum (s : State) (n : Nat) (p : Place) (e : Event) : (putBack s n p e).pwrSum = s.pwrSum := rfl

@[simp] theorem putBack_ctChange (s : State) (n : Nat) (p : Place) (e : Event) : (putBack s n p e).ctChange = s.ctChange := rfl

@[simp] theorem putBack_ports (s : State) (n : Nat) (p : Place) (e : Event) : (putBack s n p e).ports = s.ports := rfl

@[simp] theorem putBack_soRecords (s : State) (n : Nat) (p : Place) (e : Event) : (putBack s n p e).soRecords = s.soRecords := rfl

@[simp] theorem putBack_soSeq (s : State) (n : Nat) (p : Place) (e : Event) : (putBack s n p e).soSeq = s.soSeq := rfl

@[simp] theorem putBack_soAtoms (s : State) (n : Nat) (p : Place) (e : Event) : (putBack s n p e).soAtoms = s.soAtoms := rfl

@[simp] theorem putBack_soOut (s : State) (n : Nat) (p : Place) (e : Event) : (putBack s n p e).soOut = s.soOut := rfl

@[simp] theorem putBack_host (s : State) (n : Nat) (p : Place) (e : Event) : (putBack s n p e).host = s.host := rfl

@[simp] theorem putBack_cycleFlight (s : State) (n : Nat) (p : Place) (e : Event) : (putBack s n p e).cycleFlight = s.cycleFlight := rfl

@[simp] theorem putBack_firing (s : State) (n : Nat) (p : Place) (e : Event) : (putBack s n p e).firing = s.firing := rfl

@[simp] theorem putBack_outbox (s : State) (n : Nat) (p : Place) (e : Event) : (putBack s n p e).outbox = s.outbox := rfl

@[simp] theorem putBack_cur (s : State) (n : Nat) (p : Place) (e : Event) : (putBack s n p e).cur = s.cur := rfl

@[simp] theorem putBack_turns (s : State) (n : Nat) (p : Place) (e : Event) : (putBack s n p e).turns = s.turns := rfl

/-! ## later -/

@[simp] theorem later_cycle (s : State) (e : Event) : (later s e).cycle = s.cycle := rfl

@[simp] theorem later_chipId (s : State) (e : Event) : (later s e).chipId = s.chipId := rfl

@[simp] theorem later_mem (s : State) (e : Event) : (later s e).mem = s.mem := rfl

@[simp] theorem later_dramPoison (s : State) (e : Event) : (later s e).dramPoison = s.dramPoison := rfl

@[simp] theorem later_cores (s : State) (e : Event) : (later s e).cores = s.cores := rfl

@[simp] theorem later_clusters (s : State) (e : Event) : (later s e).clusters = s.clusters := rfl

@[simp] theorem later_dies (s : State) (e : Event) : (later s e).dies = s.dies := rfl

@[simp] theorem later_regions (s : State) (e : Event) : (later s e).regions = s.regions := rfl

@[simp] theorem later_nextOrder (s : State) (e : Event) : (later s e).nextOrder = s.nextOrder := rfl

@[simp] theorem later_saved (s : State) (e : Event) : (later s e).saved = s.saved := rfl

@[simp] theorem later_copies (s : State) (e : Event) : (later s e).copies = s.copies := rfl

@[simp] theorem later_nextCopy (s : State) (e : Event) : (later s e).nextCopy = s.nextCopy := rfl

@[simp] theorem later_capos (s : State) (e : Event) : (later s e).capos = s.capos := rfl

@[simp] theorem later_expansion (s : State) (e : Event) : (later s e).expansion = s.expansion := rfl

@[simp] theorem later_pwrcap (s : State) (e : Event) : (later s e).pwrcap = s.pwrcap := rfl

@[simp] theorem later_pkgPwr (s : State) (e : Event) : (later s e).pkgPwr = s.pkgPwr := rfl

@[simp] theorem later_duty (s : State) (e : Event) : (later s e).duty = s.duty := rfl

@[simp] theorem later_pwrSum (s : State) (e : Event) : (later s e).pwrSum = s.pwrSum := rfl

@[simp] theorem later_ctChange (s : State) (e : Event) : (later s e).ctChange = s.ctChange := rfl

@[simp] theorem later_ports (s : State) (e : Event) : (later s e).ports = s.ports := rfl

@[simp] theorem later_soRecords (s : State) (e : Event) : (later s e).soRecords = s.soRecords := rfl

@[simp] theorem later_soSeq (s : State) (e : Event) : (later s e).soSeq = s.soSeq := rfl

@[simp] theorem later_soAtoms (s : State) (e : Event) : (later s e).soAtoms = s.soAtoms := rfl

@[simp] theorem later_soOut (s : State) (e : Event) : (later s e).soOut = s.soOut := rfl

@[simp] theorem later_host (s : State) (e : Event) : (later s e).host = s.host := rfl

@[simp] theorem later_cycleFlight (s : State) (e : Event) : (later s e).cycleFlight = s.cycleFlight := rfl

@[simp] theorem later_firing (s : State) (e : Event) : (later s e).firing = s.firing := rfl

@[simp] theorem later_outbox (s : State) (e : Event) : (later s e).outbox = s.outbox := rfl

@[simp] theorem later_cur (s : State) (e : Event) : (later s e).cur = s.cur := rfl

@[simp] theorem later_turns (s : State) (e : Event) : (later s e).turns = s.turns := rfl

/-! ## atCycle -/

@[simp] theorem atCycle_cycle (s : State) (n : Nat) (e : Event) : (atCycle s n e).cycle = s.cycle := rfl

@[simp] theorem atCycle_chipId (s : State) (n : Nat) (e : Event) : (atCycle s n e).chipId = s.chipId := rfl

@[simp] theorem atCycle_mem (s : State) (n : Nat) (e : Event) : (atCycle s n e).mem = s.mem := rfl

@[simp] theorem atCycle_dramPoison (s : State) (n : Nat) (e : Event) : (atCycle s n e).dramPoison = s.dramPoison := rfl

@[simp] theorem atCycle_cores (s : State) (n : Nat) (e : Event) : (atCycle s n e).cores = s.cores := rfl

@[simp] theorem atCycle_clusters (s : State) (n : Nat) (e : Event) : (atCycle s n e).clusters = s.clusters := rfl

@[simp] theorem atCycle_dies (s : State) (n : Nat) (e : Event) : (atCycle s n e).dies = s.dies := rfl

@[simp] theorem atCycle_regions (s : State) (n : Nat) (e : Event) : (atCycle s n e).regions = s.regions := rfl

@[simp] theorem atCycle_nextOrder (s : State) (n : Nat) (e : Event) : (atCycle s n e).nextOrder = s.nextOrder := rfl

@[simp] theorem atCycle_saved (s : State) (n : Nat) (e : Event) : (atCycle s n e).saved = s.saved := rfl

@[simp] theorem atCycle_copies (s : State) (n : Nat) (e : Event) : (atCycle s n e).copies = s.copies := rfl

@[simp] theorem atCycle_nextCopy (s : State) (n : Nat) (e : Event) : (atCycle s n e).nextCopy = s.nextCopy := rfl

@[simp] theorem atCycle_capos (s : State) (n : Nat) (e : Event) : (atCycle s n e).capos = s.capos := rfl

@[simp] theorem atCycle_expansion (s : State) (n : Nat) (e : Event) : (atCycle s n e).expansion = s.expansion := rfl

@[simp] theorem atCycle_pwrcap (s : State) (n : Nat) (e : Event) : (atCycle s n e).pwrcap = s.pwrcap := rfl

@[simp] theorem atCycle_pkgPwr (s : State) (n : Nat) (e : Event) : (atCycle s n e).pkgPwr = s.pkgPwr := rfl

@[simp] theorem atCycle_duty (s : State) (n : Nat) (e : Event) : (atCycle s n e).duty = s.duty := rfl

@[simp] theorem atCycle_pwrSum (s : State) (n : Nat) (e : Event) : (atCycle s n e).pwrSum = s.pwrSum := rfl

@[simp] theorem atCycle_ctChange (s : State) (n : Nat) (e : Event) : (atCycle s n e).ctChange = s.ctChange := rfl

@[simp] theorem atCycle_ports (s : State) (n : Nat) (e : Event) : (atCycle s n e).ports = s.ports := rfl

@[simp] theorem atCycle_soRecords (s : State) (n : Nat) (e : Event) : (atCycle s n e).soRecords = s.soRecords := rfl

@[simp] theorem atCycle_soSeq (s : State) (n : Nat) (e : Event) : (atCycle s n e).soSeq = s.soSeq := rfl

@[simp] theorem atCycle_soAtoms (s : State) (n : Nat) (e : Event) : (atCycle s n e).soAtoms = s.soAtoms := rfl

@[simp] theorem atCycle_soOut (s : State) (n : Nat) (e : Event) : (atCycle s n e).soOut = s.soOut := rfl

@[simp] theorem atCycle_host (s : State) (n : Nat) (e : Event) : (atCycle s n e).host = s.host := rfl

@[simp] theorem atCycle_cycleFlight (s : State) (n : Nat) (e : Event) : (atCycle s n e).cycleFlight = s.cycleFlight := rfl

@[simp] theorem atCycle_firing (s : State) (n : Nat) (e : Event) : (atCycle s n e).firing = s.firing := rfl

@[simp] theorem atCycle_outbox (s : State) (n : Nat) (e : Event) : (atCycle s n e).outbox = s.outbox := rfl

@[simp] theorem atCycle_cur (s : State) (n : Nat) (e : Event) : (atCycle s n e).cur = s.cur := rfl

@[simp] theorem atCycle_turns (s : State) (n : Nat) (e : Event) : (atCycle s n e).turns = s.turns := rfl

/-! ## takeNumber -/

@[simp] theorem takeNumber_cycle (s : State) : (takeNumber s).cycle = s.cycle := rfl

@[simp] theorem takeNumber_chipId (s : State) : (takeNumber s).chipId = s.chipId := rfl

@[simp] theorem takeNumber_mem (s : State) : (takeNumber s).mem = s.mem := rfl

@[simp] theorem takeNumber_dramPoison (s : State) : (takeNumber s).dramPoison = s.dramPoison := rfl

@[simp] theorem takeNumber_cores (s : State) : (takeNumber s).cores = s.cores := rfl

@[simp] theorem takeNumber_clusters (s : State) : (takeNumber s).clusters = s.clusters := rfl

@[simp] theorem takeNumber_dies (s : State) : (takeNumber s).dies = s.dies := rfl

@[simp] theorem takeNumber_regions (s : State) : (takeNumber s).regions = s.regions := rfl

@[simp] theorem takeNumber_nextOrder (s : State) : (takeNumber s).nextOrder = s.nextOrder := rfl

@[simp] theorem takeNumber_saved (s : State) : (takeNumber s).saved = s.saved := rfl

@[simp] theorem takeNumber_copies (s : State) : (takeNumber s).copies = s.copies := rfl

@[simp] theorem takeNumber_nextCopy (s : State) : (takeNumber s).nextCopy = s.nextCopy := rfl

@[simp] theorem takeNumber_capos (s : State) : (takeNumber s).capos = s.capos := rfl

@[simp] theorem takeNumber_expansion (s : State) : (takeNumber s).expansion = s.expansion := rfl

@[simp] theorem takeNumber_pwrcap (s : State) : (takeNumber s).pwrcap = s.pwrcap := rfl

@[simp] theorem takeNumber_pkgPwr (s : State) : (takeNumber s).pkgPwr = s.pkgPwr := rfl

@[simp] theorem takeNumber_duty (s : State) : (takeNumber s).duty = s.duty := rfl

@[simp] theorem takeNumber_pwrSum (s : State) : (takeNumber s).pwrSum = s.pwrSum := rfl

@[simp] theorem takeNumber_ctChange (s : State) : (takeNumber s).ctChange = s.ctChange := rfl

@[simp] theorem takeNumber_ports (s : State) : (takeNumber s).ports = s.ports := rfl

@[simp] theorem takeNumber_soRecords (s : State) : (takeNumber s).soRecords = s.soRecords := rfl

@[simp] theorem takeNumber_soSeq (s : State) : (takeNumber s).soSeq = s.soSeq := rfl

@[simp] theorem takeNumber_soAtoms (s : State) : (takeNumber s).soAtoms = s.soAtoms := rfl

@[simp] theorem takeNumber_soOut (s : State) : (takeNumber s).soOut = s.soOut := rfl

@[simp] theorem takeNumber_host (s : State) : (takeNumber s).host = s.host := rfl

@[simp] theorem takeNumber_flights (s : State) : (takeNumber s).flights = s.flights := rfl

@[simp] theorem takeNumber_cycleFlight (s : State) : (takeNumber s).cycleFlight = s.cycleFlight := rfl

@[simp] theorem takeNumber_firing (s : State) : (takeNumber s).firing = s.firing := rfl

@[simp] theorem takeNumber_outbox (s : State) : (takeNumber s).outbox = s.outbox := rfl

@[simp] theorem takeNumber_cur (s : State) : (takeNumber s).cur = s.cur := rfl

@[simp] theorem takeNumber_turns (s : State) : (takeNumber s).turns = s.turns := rfl

/-! ## launchAs -/

@[simp] theorem launchAs_cycle (s : State) (i : Nat) (ch : Option Chan) (n : Nat) (b : Bool) (e : Event) : (launchAs s i ch n b e).cycle = s.cycle := rfl

@[simp] theorem launchAs_chipId (s : State) (i : Nat) (ch : Option Chan) (n : Nat) (b : Bool) (e : Event) : (launchAs s i ch n b e).chipId = s.chipId := rfl

@[simp] theorem launchAs_mem (s : State) (i : Nat) (ch : Option Chan) (n : Nat) (b : Bool) (e : Event) : (launchAs s i ch n b e).mem = s.mem := rfl

@[simp] theorem launchAs_dramPoison (s : State) (i : Nat) (ch : Option Chan) (n : Nat) (b : Bool) (e : Event) : (launchAs s i ch n b e).dramPoison = s.dramPoison := rfl

@[simp] theorem launchAs_cores (s : State) (i : Nat) (ch : Option Chan) (n : Nat) (b : Bool) (e : Event) : (launchAs s i ch n b e).cores = s.cores := rfl

@[simp] theorem launchAs_clusters (s : State) (i : Nat) (ch : Option Chan) (n : Nat) (b : Bool) (e : Event) : (launchAs s i ch n b e).clusters = s.clusters := rfl

@[simp] theorem launchAs_dies (s : State) (i : Nat) (ch : Option Chan) (n : Nat) (b : Bool) (e : Event) : (launchAs s i ch n b e).dies = s.dies := rfl

@[simp] theorem launchAs_regions (s : State) (i : Nat) (ch : Option Chan) (n : Nat) (b : Bool) (e : Event) : (launchAs s i ch n b e).regions = s.regions := rfl

@[simp] theorem launchAs_nextOrder (s : State) (i : Nat) (ch : Option Chan) (n : Nat) (b : Bool) (e : Event) : (launchAs s i ch n b e).nextOrder = s.nextOrder := rfl

@[simp] theorem launchAs_saved (s : State) (i : Nat) (ch : Option Chan) (n : Nat) (b : Bool) (e : Event) : (launchAs s i ch n b e).saved = s.saved := rfl

@[simp] theorem launchAs_copies (s : State) (i : Nat) (ch : Option Chan) (n : Nat) (b : Bool) (e : Event) : (launchAs s i ch n b e).copies = s.copies := rfl

@[simp] theorem launchAs_nextCopy (s : State) (i : Nat) (ch : Option Chan) (n : Nat) (b : Bool) (e : Event) : (launchAs s i ch n b e).nextCopy = s.nextCopy := rfl

@[simp] theorem launchAs_capos (s : State) (i : Nat) (ch : Option Chan) (n : Nat) (b : Bool) (e : Event) : (launchAs s i ch n b e).capos = s.capos := rfl

@[simp] theorem launchAs_expansion (s : State) (i : Nat) (ch : Option Chan) (n : Nat) (b : Bool) (e : Event) : (launchAs s i ch n b e).expansion = s.expansion := rfl

@[simp] theorem launchAs_pwrcap (s : State) (i : Nat) (ch : Option Chan) (n : Nat) (b : Bool) (e : Event) : (launchAs s i ch n b e).pwrcap = s.pwrcap := rfl

@[simp] theorem launchAs_pkgPwr (s : State) (i : Nat) (ch : Option Chan) (n : Nat) (b : Bool) (e : Event) : (launchAs s i ch n b e).pkgPwr = s.pkgPwr := rfl

@[simp] theorem launchAs_duty (s : State) (i : Nat) (ch : Option Chan) (n : Nat) (b : Bool) (e : Event) : (launchAs s i ch n b e).duty = s.duty := rfl

@[simp] theorem launchAs_pwrSum (s : State) (i : Nat) (ch : Option Chan) (n : Nat) (b : Bool) (e : Event) : (launchAs s i ch n b e).pwrSum = s.pwrSum := rfl

@[simp] theorem launchAs_ctChange (s : State) (i : Nat) (ch : Option Chan) (n : Nat) (b : Bool) (e : Event) : (launchAs s i ch n b e).ctChange = s.ctChange := rfl

@[simp] theorem launchAs_ports (s : State) (i : Nat) (ch : Option Chan) (n : Nat) (b : Bool) (e : Event) : (launchAs s i ch n b e).ports = s.ports := rfl

@[simp] theorem launchAs_soRecords (s : State) (i : Nat) (ch : Option Chan) (n : Nat) (b : Bool) (e : Event) : (launchAs s i ch n b e).soRecords = s.soRecords := rfl

@[simp] theorem launchAs_soSeq (s : State) (i : Nat) (ch : Option Chan) (n : Nat) (b : Bool) (e : Event) : (launchAs s i ch n b e).soSeq = s.soSeq := rfl

@[simp] theorem launchAs_soAtoms (s : State) (i : Nat) (ch : Option Chan) (n : Nat) (b : Bool) (e : Event) : (launchAs s i ch n b e).soAtoms = s.soAtoms := rfl

@[simp] theorem launchAs_soOut (s : State) (i : Nat) (ch : Option Chan) (n : Nat) (b : Bool) (e : Event) : (launchAs s i ch n b e).soOut = s.soOut := rfl

@[simp] theorem launchAs_host (s : State) (i : Nat) (ch : Option Chan) (n : Nat) (b : Bool) (e : Event) : (launchAs s i ch n b e).host = s.host := rfl

@[simp] theorem launchAs_nextFlight (s : State) (i : Nat) (ch : Option Chan) (n : Nat) (b : Bool) (e : Event) : (launchAs s i ch n b e).nextFlight = s.nextFlight := rfl

@[simp] theorem launchAs_cycleFlight (s : State) (i : Nat) (ch : Option Chan) (n : Nat) (b : Bool) (e : Event) : (launchAs s i ch n b e).cycleFlight = s.cycleFlight := rfl

@[simp] theorem launchAs_firing (s : State) (i : Nat) (ch : Option Chan) (n : Nat) (b : Bool) (e : Event) : (launchAs s i ch n b e).firing = s.firing := rfl

@[simp] theorem launchAs_outbox (s : State) (i : Nat) (ch : Option Chan) (n : Nat) (b : Bool) (e : Event) : (launchAs s i ch n b e).outbox = s.outbox := rfl

@[simp] theorem launchAs_cur (s : State) (i : Nat) (ch : Option Chan) (n : Nat) (b : Bool) (e : Event) : (launchAs s i ch n b e).cur = s.cur := rfl

@[simp] theorem launchAs_turns (s : State) (i : Nat) (ch : Option Chan) (n : Nat) (b : Bool) (e : Event) : (launchAs s i ch n b e).turns = s.turns := rfl

/-! ## keepInside -/

@[simp] theorem keepInside_cycle (s : State) (c : Nat) (h : HeldRelease) : (keepInside s c h).cycle = s.cycle := rfl

@[simp] theorem keepInside_chipId (s : State) (c : Nat) (h : HeldRelease) : (keepInside s c h).chipId = s.chipId := rfl

@[simp] theorem keepInside_mem (s : State) (c : Nat) (h : HeldRelease) : (keepInside s c h).mem = s.mem := rfl

@[simp] theorem keepInside_dramPoison (s : State) (c : Nat) (h : HeldRelease) : (keepInside s c h).dramPoison = s.dramPoison := rfl

@[simp] theorem keepInside_clusters (s : State) (c : Nat) (h : HeldRelease) : (keepInside s c h).clusters = s.clusters := rfl

@[simp] theorem keepInside_dies (s : State) (c : Nat) (h : HeldRelease) : (keepInside s c h).dies = s.dies := rfl

@[simp] theorem keepInside_regions (s : State) (c : Nat) (h : HeldRelease) : (keepInside s c h).regions = s.regions := rfl

@[simp] theorem keepInside_nextOrder (s : State) (c : Nat) (h : HeldRelease) : (keepInside s c h).nextOrder = s.nextOrder := rfl

@[simp] theorem keepInside_saved (s : State) (c : Nat) (h : HeldRelease) : (keepInside s c h).saved = s.saved := rfl

@[simp] theorem keepInside_copies (s : State) (c : Nat) (h : HeldRelease) : (keepInside s c h).copies = s.copies := rfl

@[simp] theorem keepInside_nextCopy (s : State) (c : Nat) (h : HeldRelease) : (keepInside s c h).nextCopy = s.nextCopy := rfl

@[simp] theorem keepInside_capos (s : State) (c : Nat) (h : HeldRelease) : (keepInside s c h).capos = s.capos := rfl

@[simp] theorem keepInside_expansion (s : State) (c : Nat) (h : HeldRelease) : (keepInside s c h).expansion = s.expansion := rfl

@[simp] theorem keepInside_pwrcap (s : State) (c : Nat) (h : HeldRelease) : (keepInside s c h).pwrcap = s.pwrcap := rfl

@[simp] theorem keepInside_pkgPwr (s : State) (c : Nat) (h : HeldRelease) : (keepInside s c h).pkgPwr = s.pkgPwr := rfl

@[simp] theorem keepInside_duty (s : State) (c : Nat) (h : HeldRelease) : (keepInside s c h).duty = s.duty := rfl

@[simp] theorem keepInside_pwrSum (s : State) (c : Nat) (h : HeldRelease) : (keepInside s c h).pwrSum = s.pwrSum := rfl

@[simp] theorem keepInside_ctChange (s : State) (c : Nat) (h : HeldRelease) : (keepInside s c h).ctChange = s.ctChange := rfl

@[simp] theorem keepInside_ports (s : State) (c : Nat) (h : HeldRelease) : (keepInside s c h).ports = s.ports := rfl

@[simp] theorem keepInside_soRecords (s : State) (c : Nat) (h : HeldRelease) : (keepInside s c h).soRecords = s.soRecords := rfl

@[simp] theorem keepInside_soSeq (s : State) (c : Nat) (h : HeldRelease) : (keepInside s c h).soSeq = s.soSeq := rfl

@[simp] theorem keepInside_soAtoms (s : State) (c : Nat) (h : HeldRelease) : (keepInside s c h).soAtoms = s.soAtoms := rfl

@[simp] theorem keepInside_soOut (s : State) (c : Nat) (h : HeldRelease) : (keepInside s c h).soOut = s.soOut := rfl

@[simp] theorem keepInside_host (s : State) (c : Nat) (h : HeldRelease) : (keepInside s c h).host = s.host := rfl

@[simp] theorem keepInside_flights (s : State) (c : Nat) (h : HeldRelease) : (keepInside s c h).flights = s.flights := rfl

@[simp] theorem keepInside_nextFlight (s : State) (c : Nat) (h : HeldRelease) : (keepInside s c h).nextFlight = s.nextFlight := rfl

@[simp] theorem keepInside_cycleFlight (s : State) (c : Nat) (h : HeldRelease) : (keepInside s c h).cycleFlight = s.cycleFlight := rfl

@[simp] theorem keepInside_firing (s : State) (c : Nat) (h : HeldRelease) : (keepInside s c h).firing = s.firing := rfl

@[simp] theorem keepInside_outbox (s : State) (c : Nat) (h : HeldRelease) : (keepInside s c h).outbox = s.outbox := rfl

@[simp] theorem keepInside_cur (s : State) (c : Nat) (h : HeldRelease) : (keepInside s c h).cur = s.cur := rfl

@[simp] theorem keepInside_turns (s : State) (c : Nat) (h : HeldRelease) : (keepInside s c h).turns = s.turns := rfl

/-! ## holdInside -/

@[simp] theorem holdInside_cycle (s : State) (c n : Nat) (p : Place) (g : Word) (w : List Nat) (e : Event) : (holdInside s c n p g w e).cycle = s.cycle := rfl

@[simp] theorem holdInside_chipId (s : State) (c n : Nat) (p : Place) (g : Word) (w : List Nat) (e : Event) : (holdInside s c n p g w e).chipId = s.chipId := rfl

@[simp] theorem holdInside_mem (s : State) (c n : Nat) (p : Place) (g : Word) (w : List Nat) (e : Event) : (holdInside s c n p g w e).mem = s.mem := rfl

@[simp] theorem holdInside_dramPoison (s : State) (c n : Nat) (p : Place) (g : Word) (w : List Nat) (e : Event) : (holdInside s c n p g w e).dramPoison = s.dramPoison := rfl

@[simp] theorem holdInside_clusters (s : State) (c n : Nat) (p : Place) (g : Word) (w : List Nat) (e : Event) : (holdInside s c n p g w e).clusters = s.clusters := rfl

@[simp] theorem holdInside_dies (s : State) (c n : Nat) (p : Place) (g : Word) (w : List Nat) (e : Event) : (holdInside s c n p g w e).dies = s.dies := rfl

@[simp] theorem holdInside_regions (s : State) (c n : Nat) (p : Place) (g : Word) (w : List Nat) (e : Event) : (holdInside s c n p g w e).regions = s.regions := rfl

@[simp] theorem holdInside_nextOrder (s : State) (c n : Nat) (p : Place) (g : Word) (w : List Nat) (e : Event) : (holdInside s c n p g w e).nextOrder = s.nextOrder := rfl

@[simp] theorem holdInside_saved (s : State) (c n : Nat) (p : Place) (g : Word) (w : List Nat) (e : Event) : (holdInside s c n p g w e).saved = s.saved := rfl

@[simp] theorem holdInside_copies (s : State) (c n : Nat) (p : Place) (g : Word) (w : List Nat) (e : Event) : (holdInside s c n p g w e).copies = s.copies := rfl

@[simp] theorem holdInside_nextCopy (s : State) (c n : Nat) (p : Place) (g : Word) (w : List Nat) (e : Event) : (holdInside s c n p g w e).nextCopy = s.nextCopy := rfl

@[simp] theorem holdInside_capos (s : State) (c n : Nat) (p : Place) (g : Word) (w : List Nat) (e : Event) : (holdInside s c n p g w e).capos = s.capos := rfl

@[simp] theorem holdInside_expansion (s : State) (c n : Nat) (p : Place) (g : Word) (w : List Nat) (e : Event) : (holdInside s c n p g w e).expansion = s.expansion := rfl

@[simp] theorem holdInside_pwrcap (s : State) (c n : Nat) (p : Place) (g : Word) (w : List Nat) (e : Event) : (holdInside s c n p g w e).pwrcap = s.pwrcap := rfl

@[simp] theorem holdInside_pkgPwr (s : State) (c n : Nat) (p : Place) (g : Word) (w : List Nat) (e : Event) : (holdInside s c n p g w e).pkgPwr = s.pkgPwr := rfl

@[simp] theorem holdInside_duty (s : State) (c n : Nat) (p : Place) (g : Word) (w : List Nat) (e : Event) : (holdInside s c n p g w e).duty = s.duty := rfl

@[simp] theorem holdInside_pwrSum (s : State) (c n : Nat) (p : Place) (g : Word) (w : List Nat) (e : Event) : (holdInside s c n p g w e).pwrSum = s.pwrSum := rfl

@[simp] theorem holdInside_ctChange (s : State) (c n : Nat) (p : Place) (g : Word) (w : List Nat) (e : Event) : (holdInside s c n p g w e).ctChange = s.ctChange := rfl

@[simp] theorem holdInside_ports (s : State) (c n : Nat) (p : Place) (g : Word) (w : List Nat) (e : Event) : (holdInside s c n p g w e).ports = s.ports := rfl

@[simp] theorem holdInside_soRecords (s : State) (c n : Nat) (p : Place) (g : Word) (w : List Nat) (e : Event) : (holdInside s c n p g w e).soRecords = s.soRecords := rfl

@[simp] theorem holdInside_soSeq (s : State) (c n : Nat) (p : Place) (g : Word) (w : List Nat) (e : Event) : (holdInside s c n p g w e).soSeq = s.soSeq := rfl

@[simp] theorem holdInside_soAtoms (s : State) (c n : Nat) (p : Place) (g : Word) (w : List Nat) (e : Event) : (holdInside s c n p g w e).soAtoms = s.soAtoms := rfl

@[simp] theorem holdInside_soOut (s : State) (c n : Nat) (p : Place) (g : Word) (w : List Nat) (e : Event) : (holdInside s c n p g w e).soOut = s.soOut := rfl

@[simp] theorem holdInside_host (s : State) (c n : Nat) (p : Place) (g : Word) (w : List Nat) (e : Event) : (holdInside s c n p g w e).host = s.host := rfl

@[simp] theorem holdInside_cycleFlight (s : State) (c n : Nat) (p : Place) (g : Word) (w : List Nat) (e : Event) : (holdInside s c n p g w e).cycleFlight = s.cycleFlight := rfl

@[simp] theorem holdInside_firing (s : State) (c n : Nat) (p : Place) (g : Word) (w : List Nat) (e : Event) : (holdInside s c n p g w e).firing = s.firing := rfl

@[simp] theorem holdInside_outbox (s : State) (c n : Nat) (p : Place) (g : Word) (w : List Nat) (e : Event) : (holdInside s c n p g w e).outbox = s.outbox := rfl

@[simp] theorem holdInside_cur (s : State) (c n : Nat) (p : Place) (g : Word) (w : List Nat) (e : Event) : (holdInside s c n p g w e).cur = s.cur := rfl

@[simp] theorem holdInside_turns (s : State) (c n : Nat) (p : Place) (g : Word) (w : List Nat) (e : Event) : (holdInside s c n p g w e).turns = s.turns := rfl

/-! ## sendAs -/

@[simp] theorem sendAs_cycle (s : State) (i n : Nat) (p : Place) (e : Event) : (sendAs s i n p e).cycle = s.cycle := by unfold sendAs; split <;> (try split) <;> rfl

@[simp] theorem sendAs_chipId (s : State) (i n : Nat) (p : Place) (e : Event) : (sendAs s i n p e).chipId = s.chipId := by unfold sendAs; split <;> (try split) <;> rfl

@[simp] theorem sendAs_mem (s : State) (i n : Nat) (p : Place) (e : Event) : (sendAs s i n p e).mem = s.mem := by unfold sendAs; split <;> (try split) <;> rfl

@[simp] theorem sendAs_dramPoison (s : State) (i n : Nat) (p : Place) (e : Event) : (sendAs s i n p e).dramPoison = s.dramPoison := by unfold sendAs; split <;> (try split) <;> rfl

@[simp] theorem sendAs_clusters (s : State) (i n : Nat) (p : Place) (e : Event) : (sendAs s i n p e).clusters = s.clusters := by unfold sendAs; split <;> (try split) <;> rfl

@[simp] theorem sendAs_dies (s : State) (i n : Nat) (p : Place) (e : Event) : (sendAs s i n p e).dies = s.dies := by unfold sendAs; split <;> (try split) <;> rfl

@[simp] theorem sendAs_regions (s : State) (i n : Nat) (p : Place) (e : Event) : (sendAs s i n p e).regions = s.regions := by unfold sendAs; split <;> (try split) <;> rfl

@[simp] theorem sendAs_nextOrder (s : State) (i n : Nat) (p : Place) (e : Event) : (sendAs s i n p e).nextOrder = s.nextOrder := by unfold sendAs; split <;> (try split) <;> rfl

@[simp] theorem sendAs_saved (s : State) (i n : Nat) (p : Place) (e : Event) : (sendAs s i n p e).saved = s.saved := by unfold sendAs; split <;> (try split) <;> rfl

@[simp] theorem sendAs_copies (s : State) (i n : Nat) (p : Place) (e : Event) : (sendAs s i n p e).copies = s.copies := by unfold sendAs; split <;> (try split) <;> rfl

@[simp] theorem sendAs_nextCopy (s : State) (i n : Nat) (p : Place) (e : Event) : (sendAs s i n p e).nextCopy = s.nextCopy := by unfold sendAs; split <;> (try split) <;> rfl

@[simp] theorem sendAs_capos (s : State) (i n : Nat) (p : Place) (e : Event) : (sendAs s i n p e).capos = s.capos := by unfold sendAs; split <;> (try split) <;> rfl

@[simp] theorem sendAs_expansion (s : State) (i n : Nat) (p : Place) (e : Event) : (sendAs s i n p e).expansion = s.expansion := by unfold sendAs; split <;> (try split) <;> rfl

@[simp] theorem sendAs_pwrcap (s : State) (i n : Nat) (p : Place) (e : Event) : (sendAs s i n p e).pwrcap = s.pwrcap := by unfold sendAs; split <;> (try split) <;> rfl

@[simp] theorem sendAs_pkgPwr (s : State) (i n : Nat) (p : Place) (e : Event) : (sendAs s i n p e).pkgPwr = s.pkgPwr := by unfold sendAs; split <;> (try split) <;> rfl

@[simp] theorem sendAs_duty (s : State) (i n : Nat) (p : Place) (e : Event) : (sendAs s i n p e).duty = s.duty := by unfold sendAs; split <;> (try split) <;> rfl

@[simp] theorem sendAs_pwrSum (s : State) (i n : Nat) (p : Place) (e : Event) : (sendAs s i n p e).pwrSum = s.pwrSum := by unfold sendAs; split <;> (try split) <;> rfl

@[simp] theorem sendAs_ctChange (s : State) (i n : Nat) (p : Place) (e : Event) : (sendAs s i n p e).ctChange = s.ctChange := by unfold sendAs; split <;> (try split) <;> rfl

@[simp] theorem sendAs_ports (s : State) (i n : Nat) (p : Place) (e : Event) : (sendAs s i n p e).ports = s.ports := by unfold sendAs; split <;> (try split) <;> rfl

@[simp] theorem sendAs_soRecords (s : State) (i n : Nat) (p : Place) (e : Event) : (sendAs s i n p e).soRecords = s.soRecords := by unfold sendAs; split <;> (try split) <;> rfl

@[simp] theorem sendAs_soSeq (s : State) (i n : Nat) (p : Place) (e : Event) : (sendAs s i n p e).soSeq = s.soSeq := by unfold sendAs; split <;> (try split) <;> rfl

@[simp] theorem sendAs_soAtoms (s : State) (i n : Nat) (p : Place) (e : Event) : (sendAs s i n p e).soAtoms = s.soAtoms := by unfold sendAs; split <;> (try split) <;> rfl

@[simp] theorem sendAs_soOut (s : State) (i n : Nat) (p : Place) (e : Event) : (sendAs s i n p e).soOut = s.soOut := by unfold sendAs; split <;> (try split) <;> rfl

@[simp] theorem sendAs_host (s : State) (i n : Nat) (p : Place) (e : Event) : (sendAs s i n p e).host = s.host := by unfold sendAs; split <;> (try split) <;> rfl

@[simp] theorem sendAs_cycleFlight (s : State) (i n : Nat) (p : Place) (e : Event) : (sendAs s i n p e).cycleFlight = s.cycleFlight := by unfold sendAs; split <;> (try split) <;> rfl

@[simp] theorem sendAs_firing (s : State) (i n : Nat) (p : Place) (e : Event) : (sendAs s i n p e).firing = s.firing := by unfold sendAs; split <;> (try split) <;> rfl

@[simp] theorem sendAs_outbox (s : State) (i n : Nat) (p : Place) (e : Event) : (sendAs s i n p e).outbox = s.outbox := by unfold sendAs; split <;> (try split) <;> rfl

@[simp] theorem sendAs_cur (s : State) (i n : Nat) (p : Place) (e : Event) : (sendAs s i n p e).cur = s.cur := by unfold sendAs; split <;> (try split) <;> rfl

@[simp] theorem sendAs_turns (s : State) (i n : Nat) (p : Place) (e : Event) : (sendAs s i n p e).turns = s.turns := by unfold sendAs; split <;> (try split) <;> rfl

/-! ## sendEvent -/

@[simp] theorem sendEvent_cycle (s : State) (n : Nat) (p : Place) (e : Event) : (sendEvent s n p e).cycle = s.cycle := by simp [sendEvent]

@[simp] theorem sendEvent_chipId (s : State) (n : Nat) (p : Place) (e : Event) : (sendEvent s n p e).chipId = s.chipId := by simp [sendEvent]

@[simp] theorem sendEvent_mem (s : State) (n : Nat) (p : Place) (e : Event) : (sendEvent s n p e).mem = s.mem := by simp [sendEvent]

@[simp] theorem sendEvent_dramPoison (s : State) (n : Nat) (p : Place) (e : Event) : (sendEvent s n p e).dramPoison = s.dramPoison := by simp [sendEvent]

@[simp] theorem sendEvent_clusters (s : State) (n : Nat) (p : Place) (e : Event) : (sendEvent s n p e).clusters = s.clusters := by simp [sendEvent]

@[simp] theorem sendEvent_dies (s : State) (n : Nat) (p : Place) (e : Event) : (sendEvent s n p e).dies = s.dies := by simp [sendEvent]

@[simp] theorem sendEvent_regions (s : State) (n : Nat) (p : Place) (e : Event) : (sendEvent s n p e).regions = s.regions := by simp [sendEvent]

@[simp] theorem sendEvent_nextOrder (s : State) (n : Nat) (p : Place) (e : Event) : (sendEvent s n p e).nextOrder = s.nextOrder := by simp [sendEvent]

@[simp] theorem sendEvent_saved (s : State) (n : Nat) (p : Place) (e : Event) : (sendEvent s n p e).saved = s.saved := by simp [sendEvent]

@[simp] theorem sendEvent_copies (s : State) (n : Nat) (p : Place) (e : Event) : (sendEvent s n p e).copies = s.copies := by simp [sendEvent]

@[simp] theorem sendEvent_nextCopy (s : State) (n : Nat) (p : Place) (e : Event) : (sendEvent s n p e).nextCopy = s.nextCopy := by simp [sendEvent]

@[simp] theorem sendEvent_capos (s : State) (n : Nat) (p : Place) (e : Event) : (sendEvent s n p e).capos = s.capos := by simp [sendEvent]

@[simp] theorem sendEvent_expansion (s : State) (n : Nat) (p : Place) (e : Event) : (sendEvent s n p e).expansion = s.expansion := by simp [sendEvent]

@[simp] theorem sendEvent_pwrcap (s : State) (n : Nat) (p : Place) (e : Event) : (sendEvent s n p e).pwrcap = s.pwrcap := by simp [sendEvent]

@[simp] theorem sendEvent_pkgPwr (s : State) (n : Nat) (p : Place) (e : Event) : (sendEvent s n p e).pkgPwr = s.pkgPwr := by simp [sendEvent]

@[simp] theorem sendEvent_duty (s : State) (n : Nat) (p : Place) (e : Event) : (sendEvent s n p e).duty = s.duty := by simp [sendEvent]

@[simp] theorem sendEvent_pwrSum (s : State) (n : Nat) (p : Place) (e : Event) : (sendEvent s n p e).pwrSum = s.pwrSum := by simp [sendEvent]

@[simp] theorem sendEvent_ctChange (s : State) (n : Nat) (p : Place) (e : Event) : (sendEvent s n p e).ctChange = s.ctChange := by simp [sendEvent]

@[simp] theorem sendEvent_ports (s : State) (n : Nat) (p : Place) (e : Event) : (sendEvent s n p e).ports = s.ports := by simp [sendEvent]

@[simp] theorem sendEvent_soRecords (s : State) (n : Nat) (p : Place) (e : Event) : (sendEvent s n p e).soRecords = s.soRecords := by simp [sendEvent]

@[simp] theorem sendEvent_soSeq (s : State) (n : Nat) (p : Place) (e : Event) : (sendEvent s n p e).soSeq = s.soSeq := by simp [sendEvent]

@[simp] theorem sendEvent_soAtoms (s : State) (n : Nat) (p : Place) (e : Event) : (sendEvent s n p e).soAtoms = s.soAtoms := by simp [sendEvent]

@[simp] theorem sendEvent_soOut (s : State) (n : Nat) (p : Place) (e : Event) : (sendEvent s n p e).soOut = s.soOut := by simp [sendEvent]

@[simp] theorem sendEvent_host (s : State) (n : Nat) (p : Place) (e : Event) : (sendEvent s n p e).host = s.host := by simp [sendEvent]

@[simp] theorem sendEvent_cycleFlight (s : State) (n : Nat) (p : Place) (e : Event) : (sendEvent s n p e).cycleFlight = s.cycleFlight := by simp [sendEvent]

@[simp] theorem sendEvent_firing (s : State) (n : Nat) (p : Place) (e : Event) : (sendEvent s n p e).firing = s.firing := by simp [sendEvent]

@[simp] theorem sendEvent_outbox (s : State) (n : Nat) (p : Place) (e : Event) : (sendEvent s n p e).outbox = s.outbox := by simp [sendEvent]

@[simp] theorem sendEvent_cur (s : State) (n : Nat) (p : Place) (e : Event) : (sendEvent s n p e).cur = s.cur := by simp [sendEvent]

@[simp] theorem sendEvent_turns (s : State) (n : Nat) (p : Place) (e : Event) : (sendEvent s n p e).turns = s.turns := by simp [sendEvent]

/-! ## taskSend -/

@[simp] theorem taskSend_cycle (s : State) (c : Nat) (g : Word) (p : Place) (e : Event) : (taskSend s c g p e).cycle = s.cycle := by unfold taskSend; simp only []; split <;> simp

@[simp] theorem taskSend_chipId (s : State) (c : Nat) (g : Word) (p : Place) (e : Event) : (taskSend s c g p e).chipId = s.chipId := by unfold taskSend; simp only []; split <;> simp

@[simp] theorem taskSend_mem (s : State) (c : Nat) (g : Word) (p : Place) (e : Event) : (taskSend s c g p e).mem = s.mem := by unfold taskSend; simp only []; split <;> simp

@[simp] theorem taskSend_dramPoison (s : State) (c : Nat) (g : Word) (p : Place) (e : Event) : (taskSend s c g p e).dramPoison = s.dramPoison := by unfold taskSend; simp only []; split <;> simp

@[simp] theorem taskSend_clusters (s : State) (c : Nat) (g : Word) (p : Place) (e : Event) : (taskSend s c g p e).clusters = s.clusters := by unfold taskSend; simp only []; split <;> simp

@[simp] theorem taskSend_dies (s : State) (c : Nat) (g : Word) (p : Place) (e : Event) : (taskSend s c g p e).dies = s.dies := by unfold taskSend; simp only []; split <;> simp

@[simp] theorem taskSend_regions (s : State) (c : Nat) (g : Word) (p : Place) (e : Event) : (taskSend s c g p e).regions = s.regions := by unfold taskSend; simp only []; split <;> simp

@[simp] theorem taskSend_nextOrder (s : State) (c : Nat) (g : Word) (p : Place) (e : Event) : (taskSend s c g p e).nextOrder = s.nextOrder := by unfold taskSend; simp only []; split <;> simp

@[simp] theorem taskSend_saved (s : State) (c : Nat) (g : Word) (p : Place) (e : Event) : (taskSend s c g p e).saved = s.saved := by unfold taskSend; simp only []; split <;> simp

@[simp] theorem taskSend_copies (s : State) (c : Nat) (g : Word) (p : Place) (e : Event) : (taskSend s c g p e).copies = s.copies := by unfold taskSend; simp only []; split <;> simp

@[simp] theorem taskSend_nextCopy (s : State) (c : Nat) (g : Word) (p : Place) (e : Event) : (taskSend s c g p e).nextCopy = s.nextCopy := by unfold taskSend; simp only []; split <;> simp

@[simp] theorem taskSend_capos (s : State) (c : Nat) (g : Word) (p : Place) (e : Event) : (taskSend s c g p e).capos = s.capos := by unfold taskSend; simp only []; split <;> simp

@[simp] theorem taskSend_expansion (s : State) (c : Nat) (g : Word) (p : Place) (e : Event) : (taskSend s c g p e).expansion = s.expansion := by unfold taskSend; simp only []; split <;> simp

@[simp] theorem taskSend_pwrcap (s : State) (c : Nat) (g : Word) (p : Place) (e : Event) : (taskSend s c g p e).pwrcap = s.pwrcap := by unfold taskSend; simp only []; split <;> simp

@[simp] theorem taskSend_pkgPwr (s : State) (c : Nat) (g : Word) (p : Place) (e : Event) : (taskSend s c g p e).pkgPwr = s.pkgPwr := by unfold taskSend; simp only []; split <;> simp

@[simp] theorem taskSend_duty (s : State) (c : Nat) (g : Word) (p : Place) (e : Event) : (taskSend s c g p e).duty = s.duty := by unfold taskSend; simp only []; split <;> simp

@[simp] theorem taskSend_pwrSum (s : State) (c : Nat) (g : Word) (p : Place) (e : Event) : (taskSend s c g p e).pwrSum = s.pwrSum := by unfold taskSend; simp only []; split <;> simp

@[simp] theorem taskSend_ctChange (s : State) (c : Nat) (g : Word) (p : Place) (e : Event) : (taskSend s c g p e).ctChange = s.ctChange := by unfold taskSend; simp only []; split <;> simp

@[simp] theorem taskSend_ports (s : State) (c : Nat) (g : Word) (p : Place) (e : Event) : (taskSend s c g p e).ports = s.ports := by unfold taskSend; simp only []; split <;> simp

@[simp] theorem taskSend_soRecords (s : State) (c : Nat) (g : Word) (p : Place) (e : Event) : (taskSend s c g p e).soRecords = s.soRecords := by unfold taskSend; simp only []; split <;> simp

@[simp] theorem taskSend_soSeq (s : State) (c : Nat) (g : Word) (p : Place) (e : Event) : (taskSend s c g p e).soSeq = s.soSeq := by unfold taskSend; simp only []; split <;> simp

@[simp] theorem taskSend_soAtoms (s : State) (c : Nat) (g : Word) (p : Place) (e : Event) : (taskSend s c g p e).soAtoms = s.soAtoms := by unfold taskSend; simp only []; split <;> simp

@[simp] theorem taskSend_soOut (s : State) (c : Nat) (g : Word) (p : Place) (e : Event) : (taskSend s c g p e).soOut = s.soOut := by unfold taskSend; simp only []; split <;> simp

@[simp] theorem taskSend_host (s : State) (c : Nat) (g : Word) (p : Place) (e : Event) : (taskSend s c g p e).host = s.host := by unfold taskSend; simp only []; split <;> simp

@[simp] theorem taskSend_cycleFlight (s : State) (c : Nat) (g : Word) (p : Place) (e : Event) : (taskSend s c g p e).cycleFlight = s.cycleFlight := by unfold taskSend; simp only []; split <;> simp

@[simp] theorem taskSend_firing (s : State) (c : Nat) (g : Word) (p : Place) (e : Event) : (taskSend s c g p e).firing = s.firing := by unfold taskSend; simp only []; split <;> simp

@[simp] theorem taskSend_outbox (s : State) (c : Nat) (g : Word) (p : Place) (e : Event) : (taskSend s c g p e).outbox = s.outbox := by unfold taskSend; simp only []; split <;> simp

@[simp] theorem taskSend_cur (s : State) (c : Nat) (g : Word) (p : Place) (e : Event) : (taskSend s c g p e).cur = s.cur := by unfold taskSend; simp only []; split <;> simp

@[simp] theorem taskSend_turns (s : State) (c : Nat) (g : Word) (p : Place) (e : Event) : (taskSend s c g p e).turns = s.turns := by unfold taskSend; simp only []; split <;> simp

/-! ## rcbPut -/

@[simp] theorem rcbPut_cycle (s : State) (r : Region) (w a b v : Nat) : (rcbPut s r w a b v).cycle = s.cycle := rfl

@[simp] theorem rcbPut_chipId (s : State) (r : Region) (w a b v : Nat) : (rcbPut s r w a b v).chipId = s.chipId := rfl

@[simp] theorem rcbPut_dramPoison (s : State) (r : Region) (w a b v : Nat) : (rcbPut s r w a b v).dramPoison = s.dramPoison := rfl

@[simp] theorem rcbPut_cores (s : State) (r : Region) (w a b v : Nat) : (rcbPut s r w a b v).cores = s.cores := rfl

@[simp] theorem rcbPut_clusters (s : State) (r : Region) (w a b v : Nat) : (rcbPut s r w a b v).clusters = s.clusters := rfl

@[simp] theorem rcbPut_dies (s : State) (r : Region) (w a b v : Nat) : (rcbPut s r w a b v).dies = s.dies := rfl

@[simp] theorem rcbPut_regions (s : State) (r : Region) (w a b v : Nat) : (rcbPut s r w a b v).regions = s.regions := rfl

@[simp] theorem rcbPut_nextOrder (s : State) (r : Region) (w a b v : Nat) : (rcbPut s r w a b v).nextOrder = s.nextOrder := rfl

@[simp] theorem rcbPut_saved (s : State) (r : Region) (w a b v : Nat) : (rcbPut s r w a b v).saved = s.saved := rfl

@[simp] theorem rcbPut_copies (s : State) (r : Region) (w a b v : Nat) : (rcbPut s r w a b v).copies = s.copies := rfl

@[simp] theorem rcbPut_nextCopy (s : State) (r : Region) (w a b v : Nat) : (rcbPut s r w a b v).nextCopy = s.nextCopy := rfl

@[simp] theorem rcbPut_capos (s : State) (r : Region) (w a b v : Nat) : (rcbPut s r w a b v).capos = s.capos := rfl

@[simp] theorem rcbPut_expansion (s : State) (r : Region) (w a b v : Nat) : (rcbPut s r w a b v).expansion = s.expansion := rfl

@[simp] theorem rcbPut_pwrcap (s : State) (r : Region) (w a b v : Nat) : (rcbPut s r w a b v).pwrcap = s.pwrcap := rfl

@[simp] theorem rcbPut_pkgPwr (s : State) (r : Region) (w a b v : Nat) : (rcbPut s r w a b v).pkgPwr = s.pkgPwr := rfl

@[simp] theorem rcbPut_duty (s : State) (r : Region) (w a b v : Nat) : (rcbPut s r w a b v).duty = s.duty := rfl

@[simp] theorem rcbPut_pwrSum (s : State) (r : Region) (w a b v : Nat) : (rcbPut s r w a b v).pwrSum = s.pwrSum := rfl

@[simp] theorem rcbPut_ctChange (s : State) (r : Region) (w a b v : Nat) : (rcbPut s r w a b v).ctChange = s.ctChange := rfl

@[simp] theorem rcbPut_ports (s : State) (r : Region) (w a b v : Nat) : (rcbPut s r w a b v).ports = s.ports := rfl

@[simp] theorem rcbPut_soRecords (s : State) (r : Region) (w a b v : Nat) : (rcbPut s r w a b v).soRecords = s.soRecords := rfl

@[simp] theorem rcbPut_soSeq (s : State) (r : Region) (w a b v : Nat) : (rcbPut s r w a b v).soSeq = s.soSeq := rfl

@[simp] theorem rcbPut_soAtoms (s : State) (r : Region) (w a b v : Nat) : (rcbPut s r w a b v).soAtoms = s.soAtoms := rfl

@[simp] theorem rcbPut_soOut (s : State) (r : Region) (w a b v : Nat) : (rcbPut s r w a b v).soOut = s.soOut := rfl

@[simp] theorem rcbPut_host (s : State) (r : Region) (w a b v : Nat) : (rcbPut s r w a b v).host = s.host := rfl

@[simp] theorem rcbPut_flights (s : State) (r : Region) (w a b v : Nat) : (rcbPut s r w a b v).flights = s.flights := rfl

@[simp] theorem rcbPut_nextFlight (s : State) (r : Region) (w a b v : Nat) : (rcbPut s r w a b v).nextFlight = s.nextFlight := rfl

@[simp] theorem rcbPut_cycleFlight (s : State) (r : Region) (w a b v : Nat) : (rcbPut s r w a b v).cycleFlight = s.cycleFlight := rfl

@[simp] theorem rcbPut_firing (s : State) (r : Region) (w a b v : Nat) : (rcbPut s r w a b v).firing = s.firing := rfl

@[simp] theorem rcbPut_outbox (s : State) (r : Region) (w a b v : Nat) : (rcbPut s r w a b v).outbox = s.outbox := rfl

@[simp] theorem rcbPut_cur (s : State) (r : Region) (w a b v : Nat) : (rcbPut s r w a b v).cur = s.cur := rfl

@[simp] theorem rcbPut_turns (s : State) (r : Region) (w a b v : Nat) : (rcbPut s r w a b v).turns = s.turns := rfl

/-! ## roscAdd -/

@[simp] theorem roscAdd_cycle (s : State) (r : Nat) (d : Int) : (roscAdd s r d).cycle = s.cycle := by unfold roscAdd; split <;> rfl

@[simp] theorem roscAdd_chipId (s : State) (r : Nat) (d : Int) : (roscAdd s r d).chipId = s.chipId := by unfold roscAdd; split <;> rfl

@[simp] theorem roscAdd_dramPoison (s : State) (r : Nat) (d : Int) : (roscAdd s r d).dramPoison = s.dramPoison := by unfold roscAdd; split <;> rfl

@[simp] theorem roscAdd_cores (s : State) (r : Nat) (d : Int) : (roscAdd s r d).cores = s.cores := by unfold roscAdd; split <;> rfl

@[simp] theorem roscAdd_clusters (s : State) (r : Nat) (d : Int) : (roscAdd s r d).clusters = s.clusters := by unfold roscAdd; split <;> rfl

@[simp] theorem roscAdd_dies (s : State) (r : Nat) (d : Int) : (roscAdd s r d).dies = s.dies := by unfold roscAdd; split <;> rfl

@[simp] theorem roscAdd_regions (s : State) (r : Nat) (d : Int) : (roscAdd s r d).regions = s.regions := by unfold roscAdd; split <;> rfl

@[simp] theorem roscAdd_nextOrder (s : State) (r : Nat) (d : Int) : (roscAdd s r d).nextOrder = s.nextOrder := by unfold roscAdd; split <;> rfl

@[simp] theorem roscAdd_saved (s : State) (r : Nat) (d : Int) : (roscAdd s r d).saved = s.saved := by unfold roscAdd; split <;> rfl

@[simp] theorem roscAdd_copies (s : State) (r : Nat) (d : Int) : (roscAdd s r d).copies = s.copies := by unfold roscAdd; split <;> rfl

@[simp] theorem roscAdd_nextCopy (s : State) (r : Nat) (d : Int) : (roscAdd s r d).nextCopy = s.nextCopy := by unfold roscAdd; split <;> rfl

@[simp] theorem roscAdd_capos (s : State) (r : Nat) (d : Int) : (roscAdd s r d).capos = s.capos := by unfold roscAdd; split <;> rfl

@[simp] theorem roscAdd_expansion (s : State) (r : Nat) (d : Int) : (roscAdd s r d).expansion = s.expansion := by unfold roscAdd; split <;> rfl

@[simp] theorem roscAdd_pwrcap (s : State) (r : Nat) (d : Int) : (roscAdd s r d).pwrcap = s.pwrcap := by unfold roscAdd; split <;> rfl

@[simp] theorem roscAdd_pkgPwr (s : State) (r : Nat) (d : Int) : (roscAdd s r d).pkgPwr = s.pkgPwr := by unfold roscAdd; split <;> rfl

@[simp] theorem roscAdd_duty (s : State) (r : Nat) (d : Int) : (roscAdd s r d).duty = s.duty := by unfold roscAdd; split <;> rfl

@[simp] theorem roscAdd_pwrSum (s : State) (r : Nat) (d : Int) : (roscAdd s r d).pwrSum = s.pwrSum := by unfold roscAdd; split <;> rfl

@[simp] theorem roscAdd_ctChange (s : State) (r : Nat) (d : Int) : (roscAdd s r d).ctChange = s.ctChange := by unfold roscAdd; split <;> rfl

@[simp] theorem roscAdd_ports (s : State) (r : Nat) (d : Int) : (roscAdd s r d).ports = s.ports := by unfold roscAdd; split <;> rfl

@[simp] theorem roscAdd_soRecords (s : State) (r : Nat) (d : Int) : (roscAdd s r d).soRecords = s.soRecords := by unfold roscAdd; split <;> rfl

@[simp] theorem roscAdd_soSeq (s : State) (r : Nat) (d : Int) : (roscAdd s r d).soSeq = s.soSeq := by unfold roscAdd; split <;> rfl

@[simp] theorem roscAdd_soAtoms (s : State) (r : Nat) (d : Int) : (roscAdd s r d).soAtoms = s.soAtoms := by unfold roscAdd; split <;> rfl

@[simp] theorem roscAdd_soOut (s : State) (r : Nat) (d : Int) : (roscAdd s r d).soOut = s.soOut := by unfold roscAdd; split <;> rfl

@[simp] theorem roscAdd_host (s : State) (r : Nat) (d : Int) : (roscAdd s r d).host = s.host := by unfold roscAdd; split <;> rfl

@[simp] theorem roscAdd_flights (s : State) (r : Nat) (d : Int) : (roscAdd s r d).flights = s.flights := by unfold roscAdd; split <;> rfl

@[simp] theorem roscAdd_nextFlight (s : State) (r : Nat) (d : Int) : (roscAdd s r d).nextFlight = s.nextFlight := by unfold roscAdd; split <;> rfl

@[simp] theorem roscAdd_cycleFlight (s : State) (r : Nat) (d : Int) : (roscAdd s r d).cycleFlight = s.cycleFlight := by unfold roscAdd; split <;> rfl

@[simp] theorem roscAdd_firing (s : State) (r : Nat) (d : Int) : (roscAdd s r d).firing = s.firing := by unfold roscAdd; split <;> rfl

@[simp] theorem roscAdd_outbox (s : State) (r : Nat) (d : Int) : (roscAdd s r d).outbox = s.outbox := by unfold roscAdd; split <;> rfl

@[simp] theorem roscAdd_cur (s : State) (r : Nat) (d : Int) : (roscAdd s r d).cur = s.cur := by unfold roscAdd; split <;> rfl

@[simp] theorem roscAdd_turns (s : State) (r : Nat) (d : Int) : (roscAdd s r d).turns = s.turns := by unfold roscAdd; split <;> rfl

/-! ## otcAdd -/

@[simp] theorem otcAdd_cycle (s : State) (r : Nat) (d : Int) : (otcAdd s r d).cycle = s.cycle := by unfold otcAdd; split <;> rfl

@[simp] theorem otcAdd_chipId (s : State) (r : Nat) (d : Int) : (otcAdd s r d).chipId = s.chipId := by unfold otcAdd; split <;> rfl

@[simp] theorem otcAdd_dramPoison (s : State) (r : Nat) (d : Int) : (otcAdd s r d).dramPoison = s.dramPoison := by unfold otcAdd; split <;> rfl

@[simp] theorem otcAdd_cores (s : State) (r : Nat) (d : Int) : (otcAdd s r d).cores = s.cores := by unfold otcAdd; split <;> rfl

@[simp] theorem otcAdd_clusters (s : State) (r : Nat) (d : Int) : (otcAdd s r d).clusters = s.clusters := by unfold otcAdd; split <;> rfl

@[simp] theorem otcAdd_dies (s : State) (r : Nat) (d : Int) : (otcAdd s r d).dies = s.dies := by unfold otcAdd; split <;> rfl

@[simp] theorem otcAdd_regions (s : State) (r : Nat) (d : Int) : (otcAdd s r d).regions = s.regions := by unfold otcAdd; split <;> rfl

@[simp] theorem otcAdd_nextOrder (s : State) (r : Nat) (d : Int) : (otcAdd s r d).nextOrder = s.nextOrder := by unfold otcAdd; split <;> rfl

@[simp] theorem otcAdd_saved (s : State) (r : Nat) (d : Int) : (otcAdd s r d).saved = s.saved := by unfold otcAdd; split <;> rfl

@[simp] theorem otcAdd_copies (s : State) (r : Nat) (d : Int) : (otcAdd s r d).copies = s.copies := by unfold otcAdd; split <;> rfl

@[simp] theorem otcAdd_nextCopy (s : State) (r : Nat) (d : Int) : (otcAdd s r d).nextCopy = s.nextCopy := by unfold otcAdd; split <;> rfl

@[simp] theorem otcAdd_capos (s : State) (r : Nat) (d : Int) : (otcAdd s r d).capos = s.capos := by unfold otcAdd; split <;> rfl

@[simp] theorem otcAdd_expansion (s : State) (r : Nat) (d : Int) : (otcAdd s r d).expansion = s.expansion := by unfold otcAdd; split <;> rfl

@[simp] theorem otcAdd_pwrcap (s : State) (r : Nat) (d : Int) : (otcAdd s r d).pwrcap = s.pwrcap := by unfold otcAdd; split <;> rfl

@[simp] theorem otcAdd_pkgPwr (s : State) (r : Nat) (d : Int) : (otcAdd s r d).pkgPwr = s.pkgPwr := by unfold otcAdd; split <;> rfl

@[simp] theorem otcAdd_duty (s : State) (r : Nat) (d : Int) : (otcAdd s r d).duty = s.duty := by unfold otcAdd; split <;> rfl

@[simp] theorem otcAdd_pwrSum (s : State) (r : Nat) (d : Int) : (otcAdd s r d).pwrSum = s.pwrSum := by unfold otcAdd; split <;> rfl

@[simp] theorem otcAdd_ctChange (s : State) (r : Nat) (d : Int) : (otcAdd s r d).ctChange = s.ctChange := by unfold otcAdd; split <;> rfl

@[simp] theorem otcAdd_ports (s : State) (r : Nat) (d : Int) : (otcAdd s r d).ports = s.ports := by unfold otcAdd; split <;> rfl

@[simp] theorem otcAdd_soRecords (s : State) (r : Nat) (d : Int) : (otcAdd s r d).soRecords = s.soRecords := by unfold otcAdd; split <;> rfl

@[simp] theorem otcAdd_soSeq (s : State) (r : Nat) (d : Int) : (otcAdd s r d).soSeq = s.soSeq := by unfold otcAdd; split <;> rfl

@[simp] theorem otcAdd_soAtoms (s : State) (r : Nat) (d : Int) : (otcAdd s r d).soAtoms = s.soAtoms := by unfold otcAdd; split <;> rfl

@[simp] theorem otcAdd_soOut (s : State) (r : Nat) (d : Int) : (otcAdd s r d).soOut = s.soOut := by unfold otcAdd; split <;> rfl

@[simp] theorem otcAdd_host (s : State) (r : Nat) (d : Int) : (otcAdd s r d).host = s.host := by unfold otcAdd; split <;> rfl

@[simp] theorem otcAdd_flights (s : State) (r : Nat) (d : Int) : (otcAdd s r d).flights = s.flights := by unfold otcAdd; split <;> rfl

@[simp] theorem otcAdd_nextFlight (s : State) (r : Nat) (d : Int) : (otcAdd s r d).nextFlight = s.nextFlight := by unfold otcAdd; split <;> rfl

@[simp] theorem otcAdd_cycleFlight (s : State) (r : Nat) (d : Int) : (otcAdd s r d).cycleFlight = s.cycleFlight := by unfold otcAdd; split <;> rfl

@[simp] theorem otcAdd_firing (s : State) (r : Nat) (d : Int) : (otcAdd s r d).firing = s.firing := by unfold otcAdd; split <;> rfl

@[simp] theorem otcAdd_outbox (s : State) (r : Nat) (d : Int) : (otcAdd s r d).outbox = s.outbox := by unfold otcAdd; split <;> rfl

@[simp] theorem otcAdd_cur (s : State) (r : Nat) (d : Int) : (otcAdd s r d).cur = s.cur := by unfold otcAdd; split <;> rfl

@[simp] theorem otcAdd_turns (s : State) (r : Nat) (d : Int) : (otcAdd s r d).turns = s.turns := by unfold otcAdd; split <;> rfl

/-! ## physWrite -/

@[simp] theorem physWrite_cycle (s : State) (pa key : Nat) (d : List Byte) : (physWrite s pa key d).cycle = s.cycle := rfl

@[simp] theorem physWrite_chipId (s : State) (pa key : Nat) (d : List Byte) : (physWrite s pa key d).chipId = s.chipId := rfl

@[simp] theorem physWrite_cores (s : State) (pa key : Nat) (d : List Byte) : (physWrite s pa key d).cores = s.cores := rfl

@[simp] theorem physWrite_clusters (s : State) (pa key : Nat) (d : List Byte) : (physWrite s pa key d).clusters = s.clusters := rfl

@[simp] theorem physWrite_dies (s : State) (pa key : Nat) (d : List Byte) : (physWrite s pa key d).dies = s.dies := rfl

@[simp] theorem physWrite_regions (s : State) (pa key : Nat) (d : List Byte) : (physWrite s pa key d).regions = s.regions := rfl

@[simp] theorem physWrite_nextOrder (s : State) (pa key : Nat) (d : List Byte) : (physWrite s pa key d).nextOrder = s.nextOrder := rfl

@[simp] theorem physWrite_saved (s : State) (pa key : Nat) (d : List Byte) : (physWrite s pa key d).saved = s.saved := rfl

@[simp] theorem physWrite_copies (s : State) (pa key : Nat) (d : List Byte) : (physWrite s pa key d).copies = s.copies := rfl

@[simp] theorem physWrite_nextCopy (s : State) (pa key : Nat) (d : List Byte) : (physWrite s pa key d).nextCopy = s.nextCopy := rfl

@[simp] theorem physWrite_capos (s : State) (pa key : Nat) (d : List Byte) : (physWrite s pa key d).capos = s.capos := rfl

@[simp] theorem physWrite_expansion (s : State) (pa key : Nat) (d : List Byte) : (physWrite s pa key d).expansion = s.expansion := rfl

@[simp] theorem physWrite_pwrcap (s : State) (pa key : Nat) (d : List Byte) : (physWrite s pa key d).pwrcap = s.pwrcap := rfl

@[simp] theorem physWrite_pkgPwr (s : State) (pa key : Nat) (d : List Byte) : (physWrite s pa key d).pkgPwr = s.pkgPwr := rfl

@[simp] theorem physWrite_duty (s : State) (pa key : Nat) (d : List Byte) : (physWrite s pa key d).duty = s.duty := rfl

@[simp] theorem physWrite_pwrSum (s : State) (pa key : Nat) (d : List Byte) : (physWrite s pa key d).pwrSum = s.pwrSum := rfl

@[simp] theorem physWrite_ctChange (s : State) (pa key : Nat) (d : List Byte) : (physWrite s pa key d).ctChange = s.ctChange := rfl

@[simp] theorem physWrite_ports (s : State) (pa key : Nat) (d : List Byte) : (physWrite s pa key d).ports = s.ports := rfl

@[simp] theorem physWrite_soRecords (s : State) (pa key : Nat) (d : List Byte) : (physWrite s pa key d).soRecords = s.soRecords := rfl

@[simp] theorem physWrite_soSeq (s : State) (pa key : Nat) (d : List Byte) : (physWrite s pa key d).soSeq = s.soSeq := rfl

@[simp] theorem physWrite_soAtoms (s : State) (pa key : Nat) (d : List Byte) : (physWrite s pa key d).soAtoms = s.soAtoms := rfl

@[simp] theorem physWrite_soOut (s : State) (pa key : Nat) (d : List Byte) : (physWrite s pa key d).soOut = s.soOut := rfl

@[simp] theorem physWrite_host (s : State) (pa key : Nat) (d : List Byte) : (physWrite s pa key d).host = s.host := rfl

@[simp] theorem physWrite_flights (s : State) (pa key : Nat) (d : List Byte) : (physWrite s pa key d).flights = s.flights := rfl

@[simp] theorem physWrite_nextFlight (s : State) (pa key : Nat) (d : List Byte) : (physWrite s pa key d).nextFlight = s.nextFlight := rfl

@[simp] theorem physWrite_cycleFlight (s : State) (pa key : Nat) (d : List Byte) : (physWrite s pa key d).cycleFlight = s.cycleFlight := rfl

@[simp] theorem physWrite_firing (s : State) (pa key : Nat) (d : List Byte) : (physWrite s pa key d).firing = s.firing := rfl

@[simp] theorem physWrite_outbox (s : State) (pa key : Nat) (d : List Byte) : (physWrite s pa key d).outbox = s.outbox := rfl

@[simp] theorem physWrite_cur (s : State) (pa key : Nat) (d : List Byte) : (physWrite s pa key d).cur = s.cur := rfl

@[simp] theorem physWrite_turns (s : State) (pa key : Nat) (d : List Byte) : (physWrite s pa key d).turns = s.turns := rfl

/-! ## moveBytes -/

@[simp] theorem moveBytes_cycle (s : State) (r n : Nat) : (moveBytes s r n).cycle = s.cycle := rfl

@[simp] theorem moveBytes_chipId (s : State) (r n : Nat) : (moveBytes s r n).chipId = s.chipId := rfl

@[simp] theorem moveBytes_mem (s : State) (r n : Nat) : (moveBytes s r n).mem = s.mem := rfl

@[simp] theorem moveBytes_dramPoison (s : State) (r n : Nat) : (moveBytes s r n).dramPoison = s.dramPoison := rfl

@[simp] theorem moveBytes_cores (s : State) (r n : Nat) : (moveBytes s r n).cores = s.cores := rfl

@[simp] theorem moveBytes_clusters (s : State) (r n : Nat) : (moveBytes s r n).clusters = s.clusters := rfl

@[simp] theorem moveBytes_dies (s : State) (r n : Nat) : (moveBytes s r n).dies = s.dies := rfl

@[simp] theorem moveBytes_regions (s : State) (r n : Nat) : (moveBytes s r n).regions = s.regions := rfl

@[simp] theorem moveBytes_nextOrder (s : State) (r n : Nat) : (moveBytes s r n).nextOrder = s.nextOrder := rfl

@[simp] theorem moveBytes_saved (s : State) (r n : Nat) : (moveBytes s r n).saved = s.saved := rfl

@[simp] theorem moveBytes_copies (s : State) (r n : Nat) : (moveBytes s r n).copies = s.copies := rfl

@[simp] theorem moveBytes_nextCopy (s : State) (r n : Nat) : (moveBytes s r n).nextCopy = s.nextCopy := rfl

@[simp] theorem moveBytes_capos (s : State) (r n : Nat) : (moveBytes s r n).capos = s.capos := rfl

@[simp] theorem moveBytes_expansion (s : State) (r n : Nat) : (moveBytes s r n).expansion = s.expansion := rfl

@[simp] theorem moveBytes_pwrcap (s : State) (r n : Nat) : (moveBytes s r n).pwrcap = s.pwrcap := rfl

@[simp] theorem moveBytes_pkgPwr (s : State) (r n : Nat) : (moveBytes s r n).pkgPwr = s.pkgPwr := rfl

@[simp] theorem moveBytes_duty (s : State) (r n : Nat) : (moveBytes s r n).duty = s.duty := rfl

@[simp] theorem moveBytes_pwrSum (s : State) (r n : Nat) : (moveBytes s r n).pwrSum = s.pwrSum := rfl

@[simp] theorem moveBytes_ctChange (s : State) (r n : Nat) : (moveBytes s r n).ctChange = s.ctChange := rfl

@[simp] theorem moveBytes_ports (s : State) (r n : Nat) : (moveBytes s r n).ports = s.ports := rfl

@[simp] theorem moveBytes_soRecords (s : State) (r n : Nat) : (moveBytes s r n).soRecords = s.soRecords := rfl

@[simp] theorem moveBytes_soSeq (s : State) (r n : Nat) : (moveBytes s r n).soSeq = s.soSeq := rfl

@[simp] theorem moveBytes_soAtoms (s : State) (r n : Nat) : (moveBytes s r n).soAtoms = s.soAtoms := rfl

@[simp] theorem moveBytes_soOut (s : State) (r n : Nat) : (moveBytes s r n).soOut = s.soOut := rfl

@[simp] theorem moveBytes_flights (s : State) (r n : Nat) : (moveBytes s r n).flights = s.flights := rfl

@[simp] theorem moveBytes_nextFlight (s : State) (r n : Nat) : (moveBytes s r n).nextFlight = s.nextFlight := rfl

@[simp] theorem moveBytes_cycleFlight (s : State) (r n : Nat) : (moveBytes s r n).cycleFlight = s.cycleFlight := rfl

@[simp] theorem moveBytes_firing (s : State) (r n : Nat) : (moveBytes s r n).firing = s.firing := rfl

@[simp] theorem moveBytes_outbox (s : State) (r n : Nat) : (moveBytes s r n).outbox = s.outbox := rfl

@[simp] theorem moveBytes_cur (s : State) (r n : Nat) : (moveBytes s r n).cur = s.cur := rfl

@[simp] theorem moveBytes_turns (s : State) (r n : Nat) : (moveBytes s r n).turns = s.turns := rfl

/-! ## addOut -/

@[simp] theorem addOut_cycle (s : State) (c i : Nat) (k : OutKind) (ps : List Place) (sp : List (Nat × Nat)) (d : RegId) (f : LoadForm) (n : Nat) (b : Bool) : (addOut s c i k ps sp d f n b).cycle = s.cycle := by unfold addOut; simp only []; split <;> simp

@[simp] theorem addOut_chipId (s : State) (c i : Nat) (k : OutKind) (ps : List Place) (sp : List (Nat × Nat)) (d : RegId) (f : LoadForm) (n : Nat) (b : Bool) : (addOut s c i k ps sp d f n b).chipId = s.chipId := by unfold addOut; simp only []; split <;> simp

@[simp] theorem addOut_dramPoison (s : State) (c i : Nat) (k : OutKind) (ps : List Place) (sp : List (Nat × Nat)) (d : RegId) (f : LoadForm) (n : Nat) (b : Bool) : (addOut s c i k ps sp d f n b).dramPoison = s.dramPoison := by unfold addOut; simp only []; split <;> simp

@[simp] theorem addOut_clusters (s : State) (c i : Nat) (k : OutKind) (ps : List Place) (sp : List (Nat × Nat)) (d : RegId) (f : LoadForm) (n : Nat) (b : Bool) : (addOut s c i k ps sp d f n b).clusters = s.clusters := by unfold addOut; simp only []; split <;> simp

@[simp] theorem addOut_dies (s : State) (c i : Nat) (k : OutKind) (ps : List Place) (sp : List (Nat × Nat)) (d : RegId) (f : LoadForm) (n : Nat) (b : Bool) : (addOut s c i k ps sp d f n b).dies = s.dies := by unfold addOut; simp only []; split <;> simp

@[simp] theorem addOut_regions (s : State) (c i : Nat) (k : OutKind) (ps : List Place) (sp : List (Nat × Nat)) (d : RegId) (f : LoadForm) (n : Nat) (b : Bool) : (addOut s c i k ps sp d f n b).regions = s.regions := by unfold addOut; simp only []; split <;> simp

@[simp] theorem addOut_nextOrder (s : State) (c i : Nat) (k : OutKind) (ps : List Place) (sp : List (Nat × Nat)) (d : RegId) (f : LoadForm) (n : Nat) (b : Bool) : (addOut s c i k ps sp d f n b).nextOrder = s.nextOrder := by unfold addOut; simp only []; split <;> simp

@[simp] theorem addOut_saved (s : State) (c i : Nat) (k : OutKind) (ps : List Place) (sp : List (Nat × Nat)) (d : RegId) (f : LoadForm) (n : Nat) (b : Bool) : (addOut s c i k ps sp d f n b).saved = s.saved := by unfold addOut; simp only []; split <;> simp

@[simp] theorem addOut_copies (s : State) (c i : Nat) (k : OutKind) (ps : List Place) (sp : List (Nat × Nat)) (d : RegId) (f : LoadForm) (n : Nat) (b : Bool) : (addOut s c i k ps sp d f n b).copies = s.copies := by unfold addOut; simp only []; split <;> simp

@[simp] theorem addOut_nextCopy (s : State) (c i : Nat) (k : OutKind) (ps : List Place) (sp : List (Nat × Nat)) (d : RegId) (f : LoadForm) (n : Nat) (b : Bool) : (addOut s c i k ps sp d f n b).nextCopy = s.nextCopy := by unfold addOut; simp only []; split <;> simp

@[simp] theorem addOut_capos (s : State) (c i : Nat) (k : OutKind) (ps : List Place) (sp : List (Nat × Nat)) (d : RegId) (f : LoadForm) (n : Nat) (b : Bool) : (addOut s c i k ps sp d f n b).capos = s.capos := by unfold addOut; simp only []; split <;> simp

@[simp] theorem addOut_expansion (s : State) (c i : Nat) (k : OutKind) (ps : List Place) (sp : List (Nat × Nat)) (d : RegId) (f : LoadForm) (n : Nat) (b : Bool) : (addOut s c i k ps sp d f n b).expansion = s.expansion := by unfold addOut; simp only []; split <;> simp

@[simp] theorem addOut_pwrcap (s : State) (c i : Nat) (k : OutKind) (ps : List Place) (sp : List (Nat × Nat)) (d : RegId) (f : LoadForm) (n : Nat) (b : Bool) : (addOut s c i k ps sp d f n b).pwrcap = s.pwrcap := by unfold addOut; simp only []; split <;> simp

@[simp] theorem addOut_pkgPwr (s : State) (c i : Nat) (k : OutKind) (ps : List Place) (sp : List (Nat × Nat)) (d : RegId) (f : LoadForm) (n : Nat) (b : Bool) : (addOut s c i k ps sp d f n b).pkgPwr = s.pkgPwr := by unfold addOut; simp only []; split <;> simp

@[simp] theorem addOut_duty (s : State) (c i : Nat) (k : OutKind) (ps : List Place) (sp : List (Nat × Nat)) (d : RegId) (f : LoadForm) (n : Nat) (b : Bool) : (addOut s c i k ps sp d f n b).duty = s.duty := by unfold addOut; simp only []; split <;> simp

@[simp] theorem addOut_pwrSum (s : State) (c i : Nat) (k : OutKind) (ps : List Place) (sp : List (Nat × Nat)) (d : RegId) (f : LoadForm) (n : Nat) (b : Bool) : (addOut s c i k ps sp d f n b).pwrSum = s.pwrSum := by unfold addOut; simp only []; split <;> simp

@[simp] theorem addOut_ctChange (s : State) (c i : Nat) (k : OutKind) (ps : List Place) (sp : List (Nat × Nat)) (d : RegId) (f : LoadForm) (n : Nat) (b : Bool) : (addOut s c i k ps sp d f n b).ctChange = s.ctChange := by unfold addOut; simp only []; split <;> simp

@[simp] theorem addOut_ports (s : State) (c i : Nat) (k : OutKind) (ps : List Place) (sp : List (Nat × Nat)) (d : RegId) (f : LoadForm) (n : Nat) (b : Bool) : (addOut s c i k ps sp d f n b).ports = s.ports := by unfold addOut; simp only []; split <;> simp

@[simp] theorem addOut_soRecords (s : State) (c i : Nat) (k : OutKind) (ps : List Place) (sp : List (Nat × Nat)) (d : RegId) (f : LoadForm) (n : Nat) (b : Bool) : (addOut s c i k ps sp d f n b).soRecords = s.soRecords := by unfold addOut; simp only []; split <;> simp

@[simp] theorem addOut_soSeq (s : State) (c i : Nat) (k : OutKind) (ps : List Place) (sp : List (Nat × Nat)) (d : RegId) (f : LoadForm) (n : Nat) (b : Bool) : (addOut s c i k ps sp d f n b).soSeq = s.soSeq := by unfold addOut; simp only []; split <;> simp

@[simp] theorem addOut_soAtoms (s : State) (c i : Nat) (k : OutKind) (ps : List Place) (sp : List (Nat × Nat)) (d : RegId) (f : LoadForm) (n : Nat) (b : Bool) : (addOut s c i k ps sp d f n b).soAtoms = s.soAtoms := by unfold addOut; simp only []; split <;> simp

@[simp] theorem addOut_soOut (s : State) (c i : Nat) (k : OutKind) (ps : List Place) (sp : List (Nat × Nat)) (d : RegId) (f : LoadForm) (n : Nat) (b : Bool) : (addOut s c i k ps sp d f n b).soOut = s.soOut := by unfold addOut; simp only []; split <;> simp

@[simp] theorem addOut_host (s : State) (c i : Nat) (k : OutKind) (ps : List Place) (sp : List (Nat × Nat)) (d : RegId) (f : LoadForm) (n : Nat) (b : Bool) : (addOut s c i k ps sp d f n b).host = s.host := by unfold addOut; simp only []; split <;> simp

@[simp] theorem addOut_flights (s : State) (c i : Nat) (k : OutKind) (ps : List Place) (sp : List (Nat × Nat)) (d : RegId) (f : LoadForm) (n : Nat) (b : Bool) : (addOut s c i k ps sp d f n b).flights = s.flights := by unfold addOut; simp only []; split <;> simp

@[simp] theorem addOut_nextFlight (s : State) (c i : Nat) (k : OutKind) (ps : List Place) (sp : List (Nat × Nat)) (d : RegId) (f : LoadForm) (n : Nat) (b : Bool) : (addOut s c i k ps sp d f n b).nextFlight = s.nextFlight := by unfold addOut; simp only []; split <;> simp

@[simp] theorem addOut_cycleFlight (s : State) (c i : Nat) (k : OutKind) (ps : List Place) (sp : List (Nat × Nat)) (d : RegId) (f : LoadForm) (n : Nat) (b : Bool) : (addOut s c i k ps sp d f n b).cycleFlight = s.cycleFlight := by unfold addOut; simp only []; split <;> simp

@[simp] theorem addOut_firing (s : State) (c i : Nat) (k : OutKind) (ps : List Place) (sp : List (Nat × Nat)) (d : RegId) (f : LoadForm) (n : Nat) (b : Bool) : (addOut s c i k ps sp d f n b).firing = s.firing := by unfold addOut; simp only []; split <;> simp

@[simp] theorem addOut_outbox (s : State) (c i : Nat) (k : OutKind) (ps : List Place) (sp : List (Nat × Nat)) (d : RegId) (f : LoadForm) (n : Nat) (b : Bool) : (addOut s c i k ps sp d f n b).outbox = s.outbox := by unfold addOut; simp only []; split <;> simp

@[simp] theorem addOut_cur (s : State) (c i : Nat) (k : OutKind) (ps : List Place) (sp : List (Nat × Nat)) (d : RegId) (f : LoadForm) (n : Nat) (b : Bool) : (addOut s c i k ps sp d f n b).cur = s.cur := by unfold addOut; simp only []; split <;> simp

@[simp] theorem addOut_turns (s : State) (c i : Nat) (k : OutKind) (ps : List Place) (sp : List (Nat × Nat)) (d : RegId) (f : LoadForm) (n : Nat) (b : Bool) : (addOut s c i k ps sp d f n b).turns = s.turns := by unfold addOut; simp only []; split <;> simp

/-! ## sendMsg -/

@[simp] theorem sendMsg_cycle (s : State) (c : Nat) (h : Word) (p : List Word) (w : Who) (b : Bool) : (sendMsg s c h p w b).cycle = s.cycle := by unfold sendMsg sendMsgAt nextSeq; simp only []; split <;> rfl

@[simp] theorem sendMsg_chipId (s : State) (c : Nat) (h : Word) (p : List Word) (w : Who) (b : Bool) : (sendMsg s c h p w b).chipId = s.chipId := by unfold sendMsg sendMsgAt nextSeq; simp only []; split <;> rfl

@[simp] theorem sendMsg_mem (s : State) (c : Nat) (h : Word) (p : List Word) (w : Who) (b : Bool) : (sendMsg s c h p w b).mem = s.mem := by unfold sendMsg sendMsgAt nextSeq; simp only []; split <;> rfl

@[simp] theorem sendMsg_dramPoison (s : State) (c : Nat) (h : Word) (p : List Word) (w : Who) (b : Bool) : (sendMsg s c h p w b).dramPoison = s.dramPoison := by unfold sendMsg sendMsgAt nextSeq; simp only []; split <;> rfl

@[simp] theorem sendMsg_clusters (s : State) (c : Nat) (h : Word) (p : List Word) (w : Who) (b : Bool) : (sendMsg s c h p w b).clusters = s.clusters := by unfold sendMsg sendMsgAt nextSeq; simp only []; split <;> rfl

@[simp] theorem sendMsg_dies (s : State) (c : Nat) (h : Word) (p : List Word) (w : Who) (b : Bool) : (sendMsg s c h p w b).dies = s.dies := by unfold sendMsg sendMsgAt nextSeq; simp only []; split <;> rfl

@[simp] theorem sendMsg_regions (s : State) (c : Nat) (h : Word) (p : List Word) (w : Who) (b : Bool) : (sendMsg s c h p w b).regions = s.regions := by unfold sendMsg sendMsgAt nextSeq; simp only []; split <;> rfl

@[simp] theorem sendMsg_nextOrder (s : State) (c : Nat) (h : Word) (p : List Word) (w : Who) (b : Bool) : (sendMsg s c h p w b).nextOrder = s.nextOrder := by unfold sendMsg sendMsgAt nextSeq; simp only []; split <;> rfl

@[simp] theorem sendMsg_saved (s : State) (c : Nat) (h : Word) (p : List Word) (w : Who) (b : Bool) : (sendMsg s c h p w b).saved = s.saved := by unfold sendMsg sendMsgAt nextSeq; simp only []; split <;> rfl

@[simp] theorem sendMsg_copies (s : State) (c : Nat) (h : Word) (p : List Word) (w : Who) (b : Bool) : (sendMsg s c h p w b).copies = s.copies := by unfold sendMsg sendMsgAt nextSeq; simp only []; split <;> rfl

@[simp] theorem sendMsg_nextCopy (s : State) (c : Nat) (h : Word) (p : List Word) (w : Who) (b : Bool) : (sendMsg s c h p w b).nextCopy = s.nextCopy := by unfold sendMsg sendMsgAt nextSeq; simp only []; split <;> rfl

@[simp] theorem sendMsg_capos (s : State) (c : Nat) (h : Word) (p : List Word) (w : Who) (b : Bool) : (sendMsg s c h p w b).capos = s.capos := by unfold sendMsg sendMsgAt nextSeq; simp only []; split <;> rfl

@[simp] theorem sendMsg_expansion (s : State) (c : Nat) (h : Word) (p : List Word) (w : Who) (b : Bool) : (sendMsg s c h p w b).expansion = s.expansion := by unfold sendMsg sendMsgAt nextSeq; simp only []; split <;> rfl

@[simp] theorem sendMsg_pwrcap (s : State) (c : Nat) (h : Word) (p : List Word) (w : Who) (b : Bool) : (sendMsg s c h p w b).pwrcap = s.pwrcap := by unfold sendMsg sendMsgAt nextSeq; simp only []; split <;> rfl

@[simp] theorem sendMsg_pkgPwr (s : State) (c : Nat) (h : Word) (p : List Word) (w : Who) (b : Bool) : (sendMsg s c h p w b).pkgPwr = s.pkgPwr := by unfold sendMsg sendMsgAt nextSeq; simp only []; split <;> rfl

@[simp] theorem sendMsg_duty (s : State) (c : Nat) (h : Word) (p : List Word) (w : Who) (b : Bool) : (sendMsg s c h p w b).duty = s.duty := by unfold sendMsg sendMsgAt nextSeq; simp only []; split <;> rfl

@[simp] theorem sendMsg_pwrSum (s : State) (c : Nat) (h : Word) (p : List Word) (w : Who) (b : Bool) : (sendMsg s c h p w b).pwrSum = s.pwrSum := by unfold sendMsg sendMsgAt nextSeq; simp only []; split <;> rfl

@[simp] theorem sendMsg_ctChange (s : State) (c : Nat) (h : Word) (p : List Word) (w : Who) (b : Bool) : (sendMsg s c h p w b).ctChange = s.ctChange := by unfold sendMsg sendMsgAt nextSeq; simp only []; split <;> rfl

@[simp] theorem sendMsg_ports (s : State) (c : Nat) (h : Word) (p : List Word) (w : Who) (b : Bool) : (sendMsg s c h p w b).ports = s.ports := by unfold sendMsg sendMsgAt nextSeq; simp only []; split <;> rfl

@[simp] theorem sendMsg_soRecords (s : State) (c : Nat) (h : Word) (p : List Word) (w : Who) (b : Bool) : (sendMsg s c h p w b).soRecords = s.soRecords := by unfold sendMsg sendMsgAt nextSeq; simp only []; split <;> rfl

@[simp] theorem sendMsg_soSeq (s : State) (c : Nat) (h : Word) (p : List Word) (w : Who) (b : Bool) : (sendMsg s c h p w b).soSeq = s.soSeq := by unfold sendMsg sendMsgAt nextSeq; simp only []; split <;> rfl

@[simp] theorem sendMsg_soAtoms (s : State) (c : Nat) (h : Word) (p : List Word) (w : Who) (b : Bool) : (sendMsg s c h p w b).soAtoms = s.soAtoms := by unfold sendMsg sendMsgAt nextSeq; simp only []; split <;> rfl

@[simp] theorem sendMsg_soOut (s : State) (c : Nat) (h : Word) (p : List Word) (w : Who) (b : Bool) : (sendMsg s c h p w b).soOut = s.soOut := by unfold sendMsg sendMsgAt nextSeq; simp only []; split <;> rfl

@[simp] theorem sendMsg_host (s : State) (c : Nat) (h : Word) (p : List Word) (w : Who) (b : Bool) : (sendMsg s c h p w b).host = s.host := by unfold sendMsg sendMsgAt nextSeq; simp only []; split <;> rfl

@[simp] theorem sendMsg_cycleFlight (s : State) (c : Nat) (h : Word) (p : List Word) (w : Who) (b : Bool) : (sendMsg s c h p w b).cycleFlight = s.cycleFlight := by unfold sendMsg sendMsgAt nextSeq; simp only []; split <;> rfl

@[simp] theorem sendMsg_firing (s : State) (c : Nat) (h : Word) (p : List Word) (w : Who) (b : Bool) : (sendMsg s c h p w b).firing = s.firing := by unfold sendMsg sendMsgAt nextSeq; simp only []; split <;> rfl

@[simp] theorem sendMsg_outbox (s : State) (c : Nat) (h : Word) (p : List Word) (w : Who) (b : Bool) : (sendMsg s c h p w b).outbox = s.outbox := by unfold sendMsg sendMsgAt nextSeq; simp only []; split <;> rfl

@[simp] theorem sendMsg_cur (s : State) (c : Nat) (h : Word) (p : List Word) (w : Who) (b : Bool) : (sendMsg s c h p w b).cur = s.cur := by unfold sendMsg sendMsgAt nextSeq; simp only []; split <;> rfl

@[simp] theorem sendMsg_turns (s : State) (c : Nat) (h : Word) (p : List Word) (w : Who) (b : Bool) : (sendMsg s c h p w b).turns = s.turns := by unfold sendMsg sendMsgAt nextSeq; simp only []; split <;> rfl

/-! ## sendNotice -/

@[simp] theorem sendNotice_cycle (s : State) (c i : Nat) (g pc : Word) (t : Trap) : (sendNotice s c i g pc t).cycle = s.cycle := by simp [sendNotice]

@[simp] theorem sendNotice_chipId (s : State) (c i : Nat) (g pc : Word) (t : Trap) : (sendNotice s c i g pc t).chipId = s.chipId := by simp [sendNotice]

@[simp] theorem sendNotice_mem (s : State) (c i : Nat) (g pc : Word) (t : Trap) : (sendNotice s c i g pc t).mem = s.mem := by simp [sendNotice]

@[simp] theorem sendNotice_dramPoison (s : State) (c i : Nat) (g pc : Word) (t : Trap) : (sendNotice s c i g pc t).dramPoison = s.dramPoison := by simp [sendNotice]

@[simp] theorem sendNotice_clusters (s : State) (c i : Nat) (g pc : Word) (t : Trap) : (sendNotice s c i g pc t).clusters = s.clusters := by simp [sendNotice]

@[simp] theorem sendNotice_dies (s : State) (c i : Nat) (g pc : Word) (t : Trap) : (sendNotice s c i g pc t).dies = s.dies := by simp [sendNotice]

@[simp] theorem sendNotice_regions (s : State) (c i : Nat) (g pc : Word) (t : Trap) : (sendNotice s c i g pc t).regions = s.regions := by simp [sendNotice]

@[simp] theorem sendNotice_nextOrder (s : State) (c i : Nat) (g pc : Word) (t : Trap) : (sendNotice s c i g pc t).nextOrder = s.nextOrder := by simp [sendNotice]

@[simp] theorem sendNotice_saved (s : State) (c i : Nat) (g pc : Word) (t : Trap) : (sendNotice s c i g pc t).saved = s.saved := by simp [sendNotice]

@[simp] theorem sendNotice_copies (s : State) (c i : Nat) (g pc : Word) (t : Trap) : (sendNotice s c i g pc t).copies = s.copies := by simp [sendNotice]

@[simp] theorem sendNotice_nextCopy (s : State) (c i : Nat) (g pc : Word) (t : Trap) : (sendNotice s c i g pc t).nextCopy = s.nextCopy := by simp [sendNotice]

@[simp] theorem sendNotice_capos (s : State) (c i : Nat) (g pc : Word) (t : Trap) : (sendNotice s c i g pc t).capos = s.capos := by simp [sendNotice]

@[simp] theorem sendNotice_expansion (s : State) (c i : Nat) (g pc : Word) (t : Trap) : (sendNotice s c i g pc t).expansion = s.expansion := by simp [sendNotice]

@[simp] theorem sendNotice_pwrcap (s : State) (c i : Nat) (g pc : Word) (t : Trap) : (sendNotice s c i g pc t).pwrcap = s.pwrcap := by simp [sendNotice]

@[simp] theorem sendNotice_pkgPwr (s : State) (c i : Nat) (g pc : Word) (t : Trap) : (sendNotice s c i g pc t).pkgPwr = s.pkgPwr := by simp [sendNotice]

@[simp] theorem sendNotice_duty (s : State) (c i : Nat) (g pc : Word) (t : Trap) : (sendNotice s c i g pc t).duty = s.duty := by simp [sendNotice]

@[simp] theorem sendNotice_pwrSum (s : State) (c i : Nat) (g pc : Word) (t : Trap) : (sendNotice s c i g pc t).pwrSum = s.pwrSum := by simp [sendNotice]

@[simp] theorem sendNotice_ctChange (s : State) (c i : Nat) (g pc : Word) (t : Trap) : (sendNotice s c i g pc t).ctChange = s.ctChange := by simp [sendNotice]

@[simp] theorem sendNotice_ports (s : State) (c i : Nat) (g pc : Word) (t : Trap) : (sendNotice s c i g pc t).ports = s.ports := by simp [sendNotice]

@[simp] theorem sendNotice_soRecords (s : State) (c i : Nat) (g pc : Word) (t : Trap) : (sendNotice s c i g pc t).soRecords = s.soRecords := by simp [sendNotice]

@[simp] theorem sendNotice_soSeq (s : State) (c i : Nat) (g pc : Word) (t : Trap) : (sendNotice s c i g pc t).soSeq = s.soSeq := by simp [sendNotice]

@[simp] theorem sendNotice_soAtoms (s : State) (c i : Nat) (g pc : Word) (t : Trap) : (sendNotice s c i g pc t).soAtoms = s.soAtoms := by simp [sendNotice]

@[simp] theorem sendNotice_soOut (s : State) (c i : Nat) (g pc : Word) (t : Trap) : (sendNotice s c i g pc t).soOut = s.soOut := by simp [sendNotice]

@[simp] theorem sendNotice_host (s : State) (c i : Nat) (g pc : Word) (t : Trap) : (sendNotice s c i g pc t).host = s.host := by simp [sendNotice]

@[simp] theorem sendNotice_cycleFlight (s : State) (c i : Nat) (g pc : Word) (t : Trap) : (sendNotice s c i g pc t).cycleFlight = s.cycleFlight := by simp [sendNotice]

@[simp] theorem sendNotice_firing (s : State) (c i : Nat) (g pc : Word) (t : Trap) : (sendNotice s c i g pc t).firing = s.firing := by simp [sendNotice]

@[simp] theorem sendNotice_outbox (s : State) (c i : Nat) (g pc : Word) (t : Trap) : (sendNotice s c i g pc t).outbox = s.outbox := by simp [sendNotice]

@[simp] theorem sendNotice_cur (s : State) (c i : Nat) (g pc : Word) (t : Trap) : (sendNotice s c i g pc t).cur = s.cur := by simp [sendNotice]

@[simp] theorem sendNotice_turns (s : State) (c i : Nat) (g pc : Word) (t : Trap) : (sendNotice s c i g pc t).turns = s.turns := by simp [sendNotice]

/-! ## fpEvent -/

@[simp] theorem fpEvent_cycle (s : State) (c i : Nat) (pc : Word) (a b : Nat) : (fpEvent s c i pc a b).cycle = s.cycle := by simp [fpEvent]

@[simp] theorem fpEvent_chipId (s : State) (c i : Nat) (pc : Word) (a b : Nat) : (fpEvent s c i pc a b).chipId = s.chipId := by simp [fpEvent]

@[simp] theorem fpEvent_mem (s : State) (c i : Nat) (pc : Word) (a b : Nat) : (fpEvent s c i pc a b).mem = s.mem := by simp [fpEvent]

@[simp] theorem fpEvent_dramPoison (s : State) (c i : Nat) (pc : Word) (a b : Nat) : (fpEvent s c i pc a b).dramPoison = s.dramPoison := by simp [fpEvent]

@[simp] theorem fpEvent_clusters (s : State) (c i : Nat) (pc : Word) (a b : Nat) : (fpEvent s c i pc a b).clusters = s.clusters := by simp [fpEvent]

@[simp] theorem fpEvent_dies (s : State) (c i : Nat) (pc : Word) (a b : Nat) : (fpEvent s c i pc a b).dies = s.dies := by simp [fpEvent]

@[simp] theorem fpEvent_regions (s : State) (c i : Nat) (pc : Word) (a b : Nat) : (fpEvent s c i pc a b).regions = s.regions := by simp [fpEvent]

@[simp] theorem fpEvent_nextOrder (s : State) (c i : Nat) (pc : Word) (a b : Nat) : (fpEvent s c i pc a b).nextOrder = s.nextOrder := by simp [fpEvent]

@[simp] theorem fpEvent_saved (s : State) (c i : Nat) (pc : Word) (a b : Nat) : (fpEvent s c i pc a b).saved = s.saved := by simp [fpEvent]

@[simp] theorem fpEvent_copies (s : State) (c i : Nat) (pc : Word) (a b : Nat) : (fpEvent s c i pc a b).copies = s.copies := by simp [fpEvent]

@[simp] theorem fpEvent_nextCopy (s : State) (c i : Nat) (pc : Word) (a b : Nat) : (fpEvent s c i pc a b).nextCopy = s.nextCopy := by simp [fpEvent]

@[simp] theorem fpEvent_capos (s : State) (c i : Nat) (pc : Word) (a b : Nat) : (fpEvent s c i pc a b).capos = s.capos := by simp [fpEvent]

@[simp] theorem fpEvent_expansion (s : State) (c i : Nat) (pc : Word) (a b : Nat) : (fpEvent s c i pc a b).expansion = s.expansion := by simp [fpEvent]

@[simp] theorem fpEvent_pwrcap (s : State) (c i : Nat) (pc : Word) (a b : Nat) : (fpEvent s c i pc a b).pwrcap = s.pwrcap := by simp [fpEvent]

@[simp] theorem fpEvent_pkgPwr (s : State) (c i : Nat) (pc : Word) (a b : Nat) : (fpEvent s c i pc a b).pkgPwr = s.pkgPwr := by simp [fpEvent]

@[simp] theorem fpEvent_duty (s : State) (c i : Nat) (pc : Word) (a b : Nat) : (fpEvent s c i pc a b).duty = s.duty := by simp [fpEvent]

@[simp] theorem fpEvent_pwrSum (s : State) (c i : Nat) (pc : Word) (a b : Nat) : (fpEvent s c i pc a b).pwrSum = s.pwrSum := by simp [fpEvent]

@[simp] theorem fpEvent_ctChange (s : State) (c i : Nat) (pc : Word) (a b : Nat) : (fpEvent s c i pc a b).ctChange = s.ctChange := by simp [fpEvent]

@[simp] theorem fpEvent_ports (s : State) (c i : Nat) (pc : Word) (a b : Nat) : (fpEvent s c i pc a b).ports = s.ports := by simp [fpEvent]

@[simp] theorem fpEvent_soRecords (s : State) (c i : Nat) (pc : Word) (a b : Nat) : (fpEvent s c i pc a b).soRecords = s.soRecords := by simp [fpEvent]

@[simp] theorem fpEvent_soSeq (s : State) (c i : Nat) (pc : Word) (a b : Nat) : (fpEvent s c i pc a b).soSeq = s.soSeq := by simp [fpEvent]

@[simp] theorem fpEvent_soAtoms (s : State) (c i : Nat) (pc : Word) (a b : Nat) : (fpEvent s c i pc a b).soAtoms = s.soAtoms := by simp [fpEvent]

@[simp] theorem fpEvent_soOut (s : State) (c i : Nat) (pc : Word) (a b : Nat) : (fpEvent s c i pc a b).soOut = s.soOut := by simp [fpEvent]

@[simp] theorem fpEvent_host (s : State) (c i : Nat) (pc : Word) (a b : Nat) : (fpEvent s c i pc a b).host = s.host := by simp [fpEvent]

@[simp] theorem fpEvent_cycleFlight (s : State) (c i : Nat) (pc : Word) (a b : Nat) : (fpEvent s c i pc a b).cycleFlight = s.cycleFlight := by simp [fpEvent]

@[simp] theorem fpEvent_firing (s : State) (c i : Nat) (pc : Word) (a b : Nat) : (fpEvent s c i pc a b).firing = s.firing := by simp [fpEvent]

@[simp] theorem fpEvent_outbox (s : State) (c i : Nat) (pc : Word) (a b : Nat) : (fpEvent s c i pc a b).outbox = s.outbox := by simp [fpEvent]

@[simp] theorem fpEvent_cur (s : State) (c i : Nat) (pc : Word) (a b : Nat) : (fpEvent s c i pc a b).cur = s.cur := by simp [fpEvent]

@[simp] theorem fpEvent_turns (s : State) (c i : Nat) (pc : Word) (a b : Nat) : (fpEvent s c i pc a b).turns = s.turns := by simp [fpEvent]

/-! ## parkTrapped -/

@[simp] theorem parkTrapped_cycle (s : State) (c i : Nat) (t : Trap) : (parkTrapped s c i t).cycle = s.cycle := by simp [parkTrapped]

@[simp] theorem parkTrapped_chipId (s : State) (c i : Nat) (t : Trap) : (parkTrapped s c i t).chipId = s.chipId := by simp [parkTrapped]

@[simp] theorem parkTrapped_mem (s : State) (c i : Nat) (t : Trap) : (parkTrapped s c i t).mem = s.mem := by simp [parkTrapped]

@[simp] theorem parkTrapped_dramPoison (s : State) (c i : Nat) (t : Trap) : (parkTrapped s c i t).dramPoison = s.dramPoison := by simp [parkTrapped]

@[simp] theorem parkTrapped_clusters (s : State) (c i : Nat) (t : Trap) : (parkTrapped s c i t).clusters = s.clusters := by simp [parkTrapped]

@[simp] theorem parkTrapped_dies (s : State) (c i : Nat) (t : Trap) : (parkTrapped s c i t).dies = s.dies := by simp [parkTrapped]

@[simp] theorem parkTrapped_regions (s : State) (c i : Nat) (t : Trap) : (parkTrapped s c i t).regions = s.regions := by simp [parkTrapped]

@[simp] theorem parkTrapped_nextOrder (s : State) (c i : Nat) (t : Trap) : (parkTrapped s c i t).nextOrder = s.nextOrder := by simp [parkTrapped]

@[simp] theorem parkTrapped_saved (s : State) (c i : Nat) (t : Trap) : (parkTrapped s c i t).saved = s.saved := by simp [parkTrapped]

@[simp] theorem parkTrapped_copies (s : State) (c i : Nat) (t : Trap) : (parkTrapped s c i t).copies = s.copies := by simp [parkTrapped]

@[simp] theorem parkTrapped_nextCopy (s : State) (c i : Nat) (t : Trap) : (parkTrapped s c i t).nextCopy = s.nextCopy := by simp [parkTrapped]

@[simp] theorem parkTrapped_capos (s : State) (c i : Nat) (t : Trap) : (parkTrapped s c i t).capos = s.capos := by simp [parkTrapped]

@[simp] theorem parkTrapped_expansion (s : State) (c i : Nat) (t : Trap) : (parkTrapped s c i t).expansion = s.expansion := by simp [parkTrapped]

@[simp] theorem parkTrapped_pwrcap (s : State) (c i : Nat) (t : Trap) : (parkTrapped s c i t).pwrcap = s.pwrcap := by simp [parkTrapped]

@[simp] theorem parkTrapped_pkgPwr (s : State) (c i : Nat) (t : Trap) : (parkTrapped s c i t).pkgPwr = s.pkgPwr := by simp [parkTrapped]

@[simp] theorem parkTrapped_duty (s : State) (c i : Nat) (t : Trap) : (parkTrapped s c i t).duty = s.duty := by simp [parkTrapped]

@[simp] theorem parkTrapped_pwrSum (s : State) (c i : Nat) (t : Trap) : (parkTrapped s c i t).pwrSum = s.pwrSum := by simp [parkTrapped]

@[simp] theorem parkTrapped_ctChange (s : State) (c i : Nat) (t : Trap) : (parkTrapped s c i t).ctChange = s.ctChange := by simp [parkTrapped]

@[simp] theorem parkTrapped_ports (s : State) (c i : Nat) (t : Trap) : (parkTrapped s c i t).ports = s.ports := by simp [parkTrapped]

@[simp] theorem parkTrapped_soRecords (s : State) (c i : Nat) (t : Trap) : (parkTrapped s c i t).soRecords = s.soRecords := by simp [parkTrapped]

@[simp] theorem parkTrapped_soSeq (s : State) (c i : Nat) (t : Trap) : (parkTrapped s c i t).soSeq = s.soSeq := by simp [parkTrapped]

@[simp] theorem parkTrapped_soAtoms (s : State) (c i : Nat) (t : Trap) : (parkTrapped s c i t).soAtoms = s.soAtoms := by simp [parkTrapped]

@[simp] theorem parkTrapped_soOut (s : State) (c i : Nat) (t : Trap) : (parkTrapped s c i t).soOut = s.soOut := by simp [parkTrapped]

@[simp] theorem parkTrapped_host (s : State) (c i : Nat) (t : Trap) : (parkTrapped s c i t).host = s.host := by simp [parkTrapped]

@[simp] theorem parkTrapped_cycleFlight (s : State) (c i : Nat) (t : Trap) : (parkTrapped s c i t).cycleFlight = s.cycleFlight := by simp [parkTrapped]

@[simp] theorem parkTrapped_firing (s : State) (c i : Nat) (t : Trap) : (parkTrapped s c i t).firing = s.firing := by simp [parkTrapped]

@[simp] theorem parkTrapped_outbox (s : State) (c i : Nat) (t : Trap) : (parkTrapped s c i t).outbox = s.outbox := by simp [parkTrapped]

@[simp] theorem parkTrapped_cur (s : State) (c i : Nat) (t : Trap) : (parkTrapped s c i t).cur = s.cur := by simp [parkTrapped]

@[simp] theorem parkTrapped_turns (s : State) (c i : Nat) (t : Trap) : (parkTrapped s c i t).turns = s.turns := by simp [parkTrapped]

/-! ## takeTrap -/

@[simp] theorem takeTrap_cycle (s : State) (t : Trap) : (takeTrap t s).cycle = s.cycle := by simp [takeTrap]

@[simp] theorem takeTrap_chipId (s : State) (t : Trap) : (takeTrap t s).chipId = s.chipId := by simp [takeTrap]

@[simp] theorem takeTrap_mem (s : State) (t : Trap) : (takeTrap t s).mem = s.mem := by simp [takeTrap]

@[simp] theorem takeTrap_dramPoison (s : State) (t : Trap) : (takeTrap t s).dramPoison = s.dramPoison := by simp [takeTrap]

@[simp] theorem takeTrap_clusters (s : State) (t : Trap) : (takeTrap t s).clusters = s.clusters := by simp [takeTrap]

@[simp] theorem takeTrap_dies (s : State) (t : Trap) : (takeTrap t s).dies = s.dies := by simp [takeTrap]

@[simp] theorem takeTrap_regions (s : State) (t : Trap) : (takeTrap t s).regions = s.regions := by simp [takeTrap]

@[simp] theorem takeTrap_nextOrder (s : State) (t : Trap) : (takeTrap t s).nextOrder = s.nextOrder := by simp [takeTrap]

@[simp] theorem takeTrap_saved (s : State) (t : Trap) : (takeTrap t s).saved = s.saved := by simp [takeTrap]

@[simp] theorem takeTrap_copies (s : State) (t : Trap) : (takeTrap t s).copies = s.copies := by simp [takeTrap]

@[simp] theorem takeTrap_nextCopy (s : State) (t : Trap) : (takeTrap t s).nextCopy = s.nextCopy := by simp [takeTrap]

@[simp] theorem takeTrap_capos (s : State) (t : Trap) : (takeTrap t s).capos = s.capos := by simp [takeTrap]

@[simp] theorem takeTrap_expansion (s : State) (t : Trap) : (takeTrap t s).expansion = s.expansion := by simp [takeTrap]

@[simp] theorem takeTrap_pwrcap (s : State) (t : Trap) : (takeTrap t s).pwrcap = s.pwrcap := by simp [takeTrap]

@[simp] theorem takeTrap_pkgPwr (s : State) (t : Trap) : (takeTrap t s).pkgPwr = s.pkgPwr := by simp [takeTrap]

@[simp] theorem takeTrap_duty (s : State) (t : Trap) : (takeTrap t s).duty = s.duty := by simp [takeTrap]

@[simp] theorem takeTrap_pwrSum (s : State) (t : Trap) : (takeTrap t s).pwrSum = s.pwrSum := by simp [takeTrap]

@[simp] theorem takeTrap_ctChange (s : State) (t : Trap) : (takeTrap t s).ctChange = s.ctChange := by simp [takeTrap]

@[simp] theorem takeTrap_ports (s : State) (t : Trap) : (takeTrap t s).ports = s.ports := by simp [takeTrap]

@[simp] theorem takeTrap_soRecords (s : State) (t : Trap) : (takeTrap t s).soRecords = s.soRecords := by simp [takeTrap]

@[simp] theorem takeTrap_soSeq (s : State) (t : Trap) : (takeTrap t s).soSeq = s.soSeq := by simp [takeTrap]

@[simp] theorem takeTrap_soAtoms (s : State) (t : Trap) : (takeTrap t s).soAtoms = s.soAtoms := by simp [takeTrap]

@[simp] theorem takeTrap_soOut (s : State) (t : Trap) : (takeTrap t s).soOut = s.soOut := by simp [takeTrap]

@[simp] theorem takeTrap_host (s : State) (t : Trap) : (takeTrap t s).host = s.host := by simp [takeTrap]

@[simp] theorem takeTrap_cycleFlight (s : State) (t : Trap) : (takeTrap t s).cycleFlight = s.cycleFlight := by simp [takeTrap]

@[simp] theorem takeTrap_firing (s : State) (t : Trap) : (takeTrap t s).firing = s.firing := by simp [takeTrap]

@[simp] theorem takeTrap_outbox (s : State) (t : Trap) : (takeTrap t s).outbox = s.outbox := by simp [takeTrap]

@[simp] theorem takeTrap_turns (s : State) (t : Trap) : (takeTrap t s).turns = s.turns := by simp [takeTrap]

/-! ## stallBundle -/

@[simp] theorem stallBundle_cycle (s : State) : (stallBundle s).cycle = s.cycle := rfl

@[simp] theorem stallBundle_chipId (s : State) : (stallBundle s).chipId = s.chipId := rfl

@[simp] theorem stallBundle_mem (s : State) : (stallBundle s).mem = s.mem := rfl

@[simp] theorem stallBundle_dramPoison (s : State) : (stallBundle s).dramPoison = s.dramPoison := rfl

@[simp] theorem stallBundle_cores (s : State) : (stallBundle s).cores = s.cores := rfl

@[simp] theorem stallBundle_clusters (s : State) : (stallBundle s).clusters = s.clusters := rfl

@[simp] theorem stallBundle_dies (s : State) : (stallBundle s).dies = s.dies := rfl

@[simp] theorem stallBundle_regions (s : State) : (stallBundle s).regions = s.regions := rfl

@[simp] theorem stallBundle_nextOrder (s : State) : (stallBundle s).nextOrder = s.nextOrder := rfl

@[simp] theorem stallBundle_saved (s : State) : (stallBundle s).saved = s.saved := rfl

@[simp] theorem stallBundle_copies (s : State) : (stallBundle s).copies = s.copies := rfl

@[simp] theorem stallBundle_nextCopy (s : State) : (stallBundle s).nextCopy = s.nextCopy := rfl

@[simp] theorem stallBundle_capos (s : State) : (stallBundle s).capos = s.capos := rfl

@[simp] theorem stallBundle_expansion (s : State) : (stallBundle s).expansion = s.expansion := rfl

@[simp] theorem stallBundle_pwrcap (s : State) : (stallBundle s).pwrcap = s.pwrcap := rfl

@[simp] theorem stallBundle_pkgPwr (s : State) : (stallBundle s).pkgPwr = s.pkgPwr := rfl

@[simp] theorem stallBundle_duty (s : State) : (stallBundle s).duty = s.duty := rfl

@[simp] theorem stallBundle_pwrSum (s : State) : (stallBundle s).pwrSum = s.pwrSum := rfl

@[simp] theorem stallBundle_ctChange (s : State) : (stallBundle s).ctChange = s.ctChange := rfl

@[simp] theorem stallBundle_ports (s : State) : (stallBundle s).ports = s.ports := rfl

@[simp] theorem stallBundle_soRecords (s : State) : (stallBundle s).soRecords = s.soRecords := rfl

@[simp] theorem stallBundle_soSeq (s : State) : (stallBundle s).soSeq = s.soSeq := rfl

@[simp] theorem stallBundle_soAtoms (s : State) : (stallBundle s).soAtoms = s.soAtoms := rfl

@[simp] theorem stallBundle_soOut (s : State) : (stallBundle s).soOut = s.soOut := rfl

@[simp] theorem stallBundle_host (s : State) : (stallBundle s).host = s.host := rfl

@[simp] theorem stallBundle_flights (s : State) : (stallBundle s).flights = s.flights := rfl

@[simp] theorem stallBundle_nextFlight (s : State) : (stallBundle s).nextFlight = s.nextFlight := rfl

@[simp] theorem stallBundle_cycleFlight (s : State) : (stallBundle s).cycleFlight = s.cycleFlight := rfl

@[simp] theorem stallBundle_firing (s : State) : (stallBundle s).firing = s.firing := rfl

@[simp] theorem stallBundle_outbox (s : State) : (stallBundle s).outbox = s.outbox := rfl

@[simp] theorem stallBundle_turns (s : State) : (stallBundle s).turns = s.turns := rfl

/-! ## mergeFlags -/

@[simp] theorem mergeFlags_cycle (s : State) (n : Nat) (fl : BitVec 6) : (mergeFlags n fl s).cycle = s.cycle := rfl

@[simp] theorem mergeFlags_chipId (s : State) (n : Nat) (fl : BitVec 6) : (mergeFlags n fl s).chipId = s.chipId := rfl

@[simp] theorem mergeFlags_mem (s : State) (n : Nat) (fl : BitVec 6) : (mergeFlags n fl s).mem = s.mem := rfl

@[simp] theorem mergeFlags_dramPoison (s : State) (n : Nat) (fl : BitVec 6) : (mergeFlags n fl s).dramPoison = s.dramPoison := rfl

@[simp] theorem mergeFlags_clusters (s : State) (n : Nat) (fl : BitVec 6) : (mergeFlags n fl s).clusters = s.clusters := rfl

@[simp] theorem mergeFlags_dies (s : State) (n : Nat) (fl : BitVec 6) : (mergeFlags n fl s).dies = s.dies := rfl

@[simp] theorem mergeFlags_regions (s : State) (n : Nat) (fl : BitVec 6) : (mergeFlags n fl s).regions = s.regions := rfl

@[simp] theorem mergeFlags_nextOrder (s : State) (n : Nat) (fl : BitVec 6) : (mergeFlags n fl s).nextOrder = s.nextOrder := rfl

@[simp] theorem mergeFlags_saved (s : State) (n : Nat) (fl : BitVec 6) : (mergeFlags n fl s).saved = s.saved := rfl

@[simp] theorem mergeFlags_copies (s : State) (n : Nat) (fl : BitVec 6) : (mergeFlags n fl s).copies = s.copies := rfl

@[simp] theorem mergeFlags_nextCopy (s : State) (n : Nat) (fl : BitVec 6) : (mergeFlags n fl s).nextCopy = s.nextCopy := rfl

@[simp] theorem mergeFlags_capos (s : State) (n : Nat) (fl : BitVec 6) : (mergeFlags n fl s).capos = s.capos := rfl

@[simp] theorem mergeFlags_expansion (s : State) (n : Nat) (fl : BitVec 6) : (mergeFlags n fl s).expansion = s.expansion := rfl

@[simp] theorem mergeFlags_pwrcap (s : State) (n : Nat) (fl : BitVec 6) : (mergeFlags n fl s).pwrcap = s.pwrcap := rfl

@[simp] theorem mergeFlags_pkgPwr (s : State) (n : Nat) (fl : BitVec 6) : (mergeFlags n fl s).pkgPwr = s.pkgPwr := rfl

@[simp] theorem mergeFlags_duty (s : State) (n : Nat) (fl : BitVec 6) : (mergeFlags n fl s).duty = s.duty := rfl

@[simp] theorem mergeFlags_pwrSum (s : State) (n : Nat) (fl : BitVec 6) : (mergeFlags n fl s).pwrSum = s.pwrSum := rfl

@[simp] theorem mergeFlags_ctChange (s : State) (n : Nat) (fl : BitVec 6) : (mergeFlags n fl s).ctChange = s.ctChange := rfl

@[simp] theorem mergeFlags_ports (s : State) (n : Nat) (fl : BitVec 6) : (mergeFlags n fl s).ports = s.ports := rfl

@[simp] theorem mergeFlags_soRecords (s : State) (n : Nat) (fl : BitVec 6) : (mergeFlags n fl s).soRecords = s.soRecords := rfl

@[simp] theorem mergeFlags_soSeq (s : State) (n : Nat) (fl : BitVec 6) : (mergeFlags n fl s).soSeq = s.soSeq := rfl

@[simp] theorem mergeFlags_soAtoms (s : State) (n : Nat) (fl : BitVec 6) : (mergeFlags n fl s).soAtoms = s.soAtoms := rfl

@[simp] theorem mergeFlags_soOut (s : State) (n : Nat) (fl : BitVec 6) : (mergeFlags n fl s).soOut = s.soOut := rfl

@[simp] theorem mergeFlags_host (s : State) (n : Nat) (fl : BitVec 6) : (mergeFlags n fl s).host = s.host := rfl

@[simp] theorem mergeFlags_flights (s : State) (n : Nat) (fl : BitVec 6) : (mergeFlags n fl s).flights = s.flights := rfl

@[simp] theorem mergeFlags_nextFlight (s : State) (n : Nat) (fl : BitVec 6) : (mergeFlags n fl s).nextFlight = s.nextFlight := rfl

@[simp] theorem mergeFlags_cycleFlight (s : State) (n : Nat) (fl : BitVec 6) : (mergeFlags n fl s).cycleFlight = s.cycleFlight := rfl

@[simp] theorem mergeFlags_firing (s : State) (n : Nat) (fl : BitVec 6) : (mergeFlags n fl s).firing = s.firing := rfl

@[simp] theorem mergeFlags_outbox (s : State) (n : Nat) (fl : BitVec 6) : (mergeFlags n fl s).outbox = s.outbox := rfl

@[simp] theorem mergeFlags_turns (s : State) (n : Nat) (fl : BitVec 6) : (mergeFlags n fl s).turns = s.turns := rfl

/-! ## Reading after writing -/

@[simp] theorem getCore_setCore_same (s : State) (c : Nat) (k : Core) : getCore (setCore s c k) c = k := by
  simp [getCore, setCore]

theorem getCore_setCore_ne (s : State) (c j : Nat) (k : Core) (h : j ≠ c) : getCore (setCore s c k) j = getCore s j := by
  simp [getCore, setCore, tget_tset_ne _ _ _ _ _ h]

theorem getCore_setCore (s : State) (c j : Nat) (k : Core) :
    getCore (setCore s c k) j = if j = c then k else getCore s j := by
  split
  · next h => rw [h, getCore_setCore_same]
  · next h => exact getCore_setCore_ne s c j k h

@[simp] theorem getCore_modCore_same (s : State) (c : Nat) (f : Core → Core) : getCore (modCore s c f) c = f (getCore s c) := by
  simp [modCore]

theorem getCore_modCore_ne (s : State) (c j : Nat) (f : Core → Core) (h : j ≠ c) :
    getCore (modCore s c f) j = getCore s j := getCore_setCore_ne s c j _ h

@[simp] theorem getSlot_setSlot_same (s : State) (c i : Nat) (t : Slot) : getSlot (setSlot s c i t) c i = t := by
  simp [getSlot, setSlot, coreSlot]

theorem getSlot_setSlot_ne (s : State) (c i d j : Nat) (t : Slot) (h : d ≠ c ∨ j ≠ i) :
    getSlot (setSlot s c i t) d j = getSlot s d j := by
  unfold getSlot setSlot
  by_cases hd : d = c
  · subst hd
    have hj : j ≠ i := by simpa using h
    simp [coreSlot, tget_tset_ne _ _ _ _ _ hj]
  · rw [getCore_modCore_ne _ _ _ _ hd]

@[simp] theorem getSlot_modSlot_same (s : State) (c i : Nat) (f : Slot → Slot) :
    getSlot (modSlot s c i f) c i = f (getSlot s c i) := by simp [modSlot]

theorem getSlot_modSlot_ne (s : State) (c i d j : Nat) (f : Slot → Slot) (h : d ≠ c ∨ j ≠ i) :
    getSlot (modSlot s c i f) d j = getSlot s d j := getSlot_setSlot_ne s c i d j _ h

@[simp] theorem curSlot_modCur (s : State) (f : Slot → Slot) : curSlot (modCur s f) = f (curSlot s) := by
  simp [curSlot, modCur]

@[simp] theorem getCluster_setCluster_same (s : State) (k : Nat) (c : Cluster) : getCluster (setCluster s k c) k = c := by
  simp [getCluster, setCluster]

theorem getCluster_setCluster_ne (s : State) (k j : Nat) (c : Cluster) (h : j ≠ k) :
    getCluster (setCluster s k c) j = getCluster s j := by
  simp [getCluster, setCluster, tget_tset_ne _ _ _ _ _ h]

@[simp] theorem getCluster_modCluster_same (s : State) (k : Nat) (f : Cluster → Cluster) :
    getCluster (modCluster s k f) k = f (getCluster s k) := by simp [modCluster]

@[simp] theorem getDie_setDie_same (s : State) (d : Nat) (k : Die) : getDie (setDie s d k) d = k := by
  simp [getDie, setDie]

theorem getDie_setDie_ne (s : State) (d j : Nat) (k : Die) (h : j ≠ d) : getDie (setDie s d k) j = getDie s j := by
  simp [getDie, setDie, tget_tset_ne _ _ _ _ _ h]

@[simp] theorem getDie_modDie_same (s : State) (d : Nat) (f : Die → Die) : getDie (modDie s d f) d = f (getDie s d) := by
  simp [modDie]


/-! ## getCore after an operation that touches no core -/

@[simp] theorem getCore_setCluster (s : State) (k : Nat) (c : Cluster) (j : Nat) : getCore (setCluster s k c) j = getCore s j := rfl

@[simp] theorem getCore_modCluster (s : State) (k : Nat) (f : Cluster → Cluster) (j : Nat) : getCore (modCluster s k f) j = getCore s j := rfl

@[simp] theorem getCore_setDie (s : State) (d : Nat) (k : Die) (j : Nat) : getCore (setDie s d k) j = getCore s j := rfl

@[simp] theorem getCore_modDie (s : State) (d : Nat) (f : Die → Die) (j : Nat) : getCore (modDie s d f) j = getCore s j := rfl

@[simp] theorem getCore_launch (s : State) (ch : Option Chan) (n : Nat) (b : Bool) (e : Event) (j : Nat) : getCore (launch s ch n b e) j = getCore s j := rfl

@[simp] theorem getCore_sendTo (s : State) (n : Nat) (p : Place) (e : Event) (j : Nat) : getCore (sendTo s n p e) j = getCore s j := rfl

@[simp] theorem getCore_putBack (s : State) (n : Nat) (p : Place) (e : Event) (j : Nat) : getCore (putBack s n p e) j = getCore s j := rfl

@[simp] theorem getCore_later (s : State) (e : Event) (j : Nat) : getCore (later s e) j = getCore s j := rfl

@[simp] theorem getCore_atCycle (s : State) (n : Nat) (e : Event) (j : Nat) : getCore (atCycle s n e) j = getCore s j := rfl

@[simp] theorem getCore_rcbPut (s : State) (r : Region) (w a b v : Nat) (j : Nat) : getCore (rcbPut s r w a b v) j = getCore s j := rfl

@[simp] theorem getCore_roscAdd (s : State) (r : Nat) (d : Int) (j : Nat) : getCore (roscAdd s r d) j = getCore s j := by simp [getCore]

@[simp] theorem getCore_otcAdd (s : State) (r : Nat) (d : Int) (j : Nat) : getCore (otcAdd s r d) j = getCore s j := by simp [getCore]

@[simp] theorem getCore_physWrite (s : State) (pa key : Nat) (d : List Byte) (j : Nat) : getCore (physWrite s pa key d) j = getCore s j := rfl

@[simp] theorem getCore_moveBytes (s : State) (r n : Nat) (j : Nat) : getCore (moveBytes s r n) j = getCore s j := rfl

@[simp] theorem getCore_stallBundle (s : State) (j : Nat) : getCore (stallBundle s) j = getCore s j := rfl

@[simp] theorem getCore_countError (s : State) (d n : Nat) (j : Nat) : getCore (countError s d n) j = getCore s j := rfl

@[simp] theorem getCore_modRegion (s : State) (r : Nat) (f : Region → Region) (j : Nat) : getCore (modRegion s r f) j = getCore s j := by simp [getCore]

/-! ## getCluster after an operation that touches no cluster -/

@[simp] theorem getCluster_setCore (s : State) (c : Nat) (k : Core) (j : Nat) : getCluster (setCore s c k) j = getCluster s j := rfl

@[simp] theorem getCluster_modCore (s : State) (c : Nat) (f : Core → Core) (j : Nat) : getCluster (modCore s c f) j = getCluster s j := rfl

@[simp] theorem getCluster_setSlot (s : State) (c i : Nat) (t : Slot) (j : Nat) : getCluster (setSlot s c i t) j = getCluster s j := rfl

@[simp] theorem getCluster_modSlot (s : State) (c i : Nat) (f : Slot → Slot) (j : Nat) : getCluster (modSlot s c i f) j = getCluster s j := rfl

@[simp] theorem getCluster_modCur (s : State) (f : Slot → Slot) (j : Nat) : getCluster (modCur s f) j = getCluster s j := rfl

@[simp] theorem getCluster_writeLate (s : State) (d : RegId) (n : Nat) (v : Vec) (j : Nat) : getCluster (writeLate s d n v) j = getCluster s j := rfl

@[simp] theorem getCluster_parkIn (s : State) (p : Park) (j : Nat) : getCluster (parkIn p s) j = getCluster s j := rfl

@[simp] theorem getCluster_spWrite (s : State) (c a r : Nat) (d : List Byte) (j : Nat) : getCluster (spWrite s c a r d) j = getCluster s j := rfl

@[simp] theorem getCluster_setDie (s : State) (d : Nat) (k : Die) (j : Nat) : getCluster (setDie s d k) j = getCluster s j := rfl

@[simp] theorem getCluster_modDie (s : State) (d : Nat) (f : Die → Die) (j : Nat) : getCluster (modDie s d f) j = getCluster s j := rfl

@[simp] theorem getCluster_launch (s : State) (ch : Option Chan) (n : Nat) (b : Bool) (e : Event) (j : Nat) : getCluster (launch s ch n b e) j = getCluster s j := rfl

@[simp] theorem getCluster_sendTo (s : State) (n : Nat) (p : Place) (e : Event) (j : Nat) : getCluster (sendTo s n p e) j = getCluster s j := rfl

@[simp] theorem getCluster_putBack (s : State) (n : Nat) (p : Place) (e : Event) (j : Nat) : getCluster (putBack s n p e) j = getCluster s j := rfl

@[simp] theorem getCluster_later (s : State) (e : Event) (j : Nat) : getCluster (later s e) j = getCluster s j := rfl

@[simp] theorem getCluster_atCycle (s : State) (n : Nat) (e : Event) (j : Nat) : getCluster (atCycle s n e) j = getCluster s j := rfl

@[simp] theorem getCluster_takeNumber (s : State) (j : Nat) : getCluster (takeNumber s) j = getCluster s j := rfl

@[simp] theorem getCluster_launchAs (s : State) (i : Nat) (ch : Option Chan) (n : Nat) (b : Bool) (e : Event) (j : Nat) : getCluster (launchAs s i ch n b e) j = getCluster s j := rfl

@[simp] theorem getCluster_keepInside (s : State) (c : Nat) (h : HeldRelease) (j : Nat) : getCluster (keepInside s c h) j = getCluster s j := rfl

@[simp] theorem getCluster_holdInside (s : State) (c n : Nat) (p : Place) (g : Word) (w : List Nat) (e : Event) (j : Nat) : getCluster (holdInside s c n p g w e) j = getCluster s j := rfl

@[simp] theorem getCluster_sendAs (s : State) (i n : Nat) (p : Place) (e : Event) (j : Nat) : getCluster (sendAs s i n p e) j = getCluster s j := by simp [getCluster]

@[simp] theorem getCluster_sendEvent (s : State) (n : Nat) (p : Place) (e : Event) (j : Nat) : getCluster (sendEvent s n p e) j = getCluster s j := by simp [getCluster]

@[simp] theorem getCluster_taskSend (s : State) (c : Nat) (g : Word) (p : Place) (e : Event) (j : Nat) : getCluster (taskSend s c g p e) j = getCluster s j := by simp [getCluster]

@[simp] theorem getCluster_rcbPut (s : State) (r : Region) (w a b v : Nat) (j : Nat) : getCluster (rcbPut s r w a b v) j = getCluster s j := rfl

@[simp] theorem getCluster_roscAdd (s : State) (r : Nat) (d : Int) (j : Nat) : getCluster (roscAdd s r d) j = getCluster s j := by simp [getCluster]

@[simp] theorem getCluster_otcAdd (s : State) (r : Nat) (d : Int) (j : Nat) : getCluster (otcAdd s r d) j = getCluster s j := by simp [getCluster]

@[simp] theorem getCluster_physWrite (s : State) (pa key : Nat) (d : List Byte) (j : Nat) : getCluster (physWrite s pa key d) j = getCluster s j := rfl

@[simp] theorem getCluster_moveBytes (s : State) (r n : Nat) (j : Nat) : getCluster (moveBytes s r n) j = getCluster s j := rfl

@[simp] theorem getCluster_stallBundle (s : State) (j : Nat) : getCluster (stallBundle s) j = getCluster s j := rfl

@[simp] theorem getCluster_countError (s : State) (d n : Nat) (j : Nat) : getCluster (countError s d n) j = getCluster s j := rfl

@[simp] theorem getCluster_modRegion (s : State) (r : Nat) (f : Region → Region) (j : Nat) : getCluster (modRegion s r f) j = getCluster s j := by simp [getCluster]

@[simp] theorem getCluster_addOut (s : State) (c i : Nat) (k : OutKind) (ps : List Place) (sp : List (Nat × Nat)) (d : RegId) (f : LoadForm) (n : Nat) (b : Bool) (j : Nat) : getCluster (addOut s c i k ps sp d f n b) j = getCluster s j := by simp [getCluster]

@[simp] theorem getCluster_sendMsg (s : State) (c : Nat) (h : Word) (p : List Word) (w : Who) (b : Bool) (j : Nat) : getCluster (sendMsg s c h p w b) j = getCluster s j := by simp [getCluster]

@[simp] theorem getCluster_sendNotice (s : State) (c i : Nat) (g pc : Word) (t : Trap) (j : Nat) : getCluster (sendNotice s c i g pc t) j = getCluster s j := by simp [getCluster]

@[simp] theorem getCluster_fpEvent (s : State) (c i : Nat) (pc : Word) (a b : Nat) (j : Nat) : getCluster (fpEvent s c i pc a b) j = getCluster s j := by simp [getCluster]

@[simp] theorem getCluster_parkTrapped (s : State) (c i : Nat) (t : Trap) (j : Nat) : getCluster (parkTrapped s c i t) j = getCluster s j := by simp [getCluster]

@[simp] theorem getCluster_takeTrap (s : State) (t : Trap) (j : Nat) : getCluster (takeTrap t s) j = getCluster s j := by simp [getCluster]

@[simp] theorem getCluster_mergeFlags (s : State) (n : Nat) (fl : BitVec 6) (j : Nat) : getCluster (mergeFlags n fl s) j = getCluster s j := rfl

/-! ## getDie after an operation that touches no die -/

@[simp] theorem getDie_setCore (s : State) (c : Nat) (k : Core) (j : Nat) : getDie (setCore s c k) j = getDie s j := rfl

@[simp] theorem getDie_modCore (s : State) (c : Nat) (f : Core → Core) (j : Nat) : getDie (modCore s c f) j = getDie s j := rfl

@[simp] theorem getDie_setSlot (s : State) (c i : Nat) (t : Slot) (j : Nat) : getDie (setSlot s c i t) j = getDie s j := rfl

@[simp] theorem getDie_modSlot (s : State) (c i : Nat) (f : Slot → Slot) (j : Nat) : getDie (modSlot s c i f) j = getDie s j := rfl

@[simp] theorem getDie_modCur (s : State) (f : Slot → Slot) (j : Nat) : getDie (modCur s f) j = getDie s j := rfl

@[simp] theorem getDie_writeLate (s : State) (d : RegId) (n : Nat) (v : Vec) (j : Nat) : getDie (writeLate s d n v) j = getDie s j := rfl

@[simp] theorem getDie_parkIn (s : State) (p : Park) (j : Nat) : getDie (parkIn p s) j = getDie s j := rfl

@[simp] theorem getDie_spWrite (s : State) (c a r : Nat) (d : List Byte) (j : Nat) : getDie (spWrite s c a r d) j = getDie s j := rfl

@[simp] theorem getDie_setCluster (s : State) (k : Nat) (c : Cluster) (j : Nat) : getDie (setCluster s k c) j = getDie s j := rfl

@[simp] theorem getDie_modCluster (s : State) (k : Nat) (f : Cluster → Cluster) (j : Nat) : getDie (modCluster s k f) j = getDie s j := rfl

@[simp] theorem getDie_launch (s : State) (ch : Option Chan) (n : Nat) (b : Bool) (e : Event) (j : Nat) : getDie (launch s ch n b e) j = getDie s j := rfl

@[simp] theorem getDie_sendTo (s : State) (n : Nat) (p : Place) (e : Event) (j : Nat) : getDie (sendTo s n p e) j = getDie s j := rfl

@[simp] theorem getDie_putBack (s : State) (n : Nat) (p : Place) (e : Event) (j : Nat) : getDie (putBack s n p e) j = getDie s j := rfl

@[simp] theorem getDie_later (s : State) (e : Event) (j : Nat) : getDie (later s e) j = getDie s j := rfl

@[simp] theorem getDie_atCycle (s : State) (n : Nat) (e : Event) (j : Nat) : getDie (atCycle s n e) j = getDie s j := rfl

@[simp] theorem getDie_takeNumber (s : State) (j : Nat) : getDie (takeNumber s) j = getDie s j := rfl

@[simp] theorem getDie_launchAs (s : State) (i : Nat) (ch : Option Chan) (n : Nat) (b : Bool) (e : Event) (j : Nat) : getDie (launchAs s i ch n b e) j = getDie s j := rfl

@[simp] theorem getDie_keepInside (s : State) (c : Nat) (h : HeldRelease) (j : Nat) : getDie (keepInside s c h) j = getDie s j := rfl

@[simp] theorem getDie_holdInside (s : State) (c n : Nat) (p : Place) (g : Word) (w : List Nat) (e : Event) (j : Nat) : getDie (holdInside s c n p g w e) j = getDie s j := rfl

@[simp] theorem getDie_sendAs (s : State) (i n : Nat) (p : Place) (e : Event) (j : Nat) : getDie (sendAs s i n p e) j = getDie s j := by simp [getDie]

@[simp] theorem getDie_sendEvent (s : State) (n : Nat) (p : Place) (e : Event) (j : Nat) : getDie (sendEvent s n p e) j = getDie s j := by simp [getDie]

@[simp] theorem getDie_taskSend (s : State) (c : Nat) (g : Word) (p : Place) (e : Event) (j : Nat) : getDie (taskSend s c g p e) j = getDie s j := by simp [getDie]

@[simp] theorem getDie_rcbPut (s : State) (r : Region) (w a b v : Nat) (j : Nat) : getDie (rcbPut s r w a b v) j = getDie s j := rfl

@[simp] theorem getDie_roscAdd (s : State) (r : Nat) (d : Int) (j : Nat) : getDie (roscAdd s r d) j = getDie s j := by simp [getDie]

@[simp] theorem getDie_otcAdd (s : State) (r : Nat) (d : Int) (j : Nat) : getDie (otcAdd s r d) j = getDie s j := by simp [getDie]

@[simp] theorem getDie_physWrite (s : State) (pa key : Nat) (d : List Byte) (j : Nat) : getDie (physWrite s pa key d) j = getDie s j := rfl

@[simp] theorem getDie_moveBytes (s : State) (r n : Nat) (j : Nat) : getDie (moveBytes s r n) j = getDie s j := rfl

@[simp] theorem getDie_stallBundle (s : State) (j : Nat) : getDie (stallBundle s) j = getDie s j := rfl

@[simp] theorem getDie_modRegion (s : State) (r : Nat) (f : Region → Region) (j : Nat) : getDie (modRegion s r f) j = getDie s j := by simp [getDie]

@[simp] theorem getDie_addOut (s : State) (c i : Nat) (k : OutKind) (ps : List Place) (sp : List (Nat × Nat)) (d : RegId) (f : LoadForm) (n : Nat) (b : Bool) (j : Nat) : getDie (addOut s c i k ps sp d f n b) j = getDie s j := by simp [getDie]

@[simp] theorem getDie_sendMsg (s : State) (c : Nat) (h : Word) (p : List Word) (w : Who) (b : Bool) (j : Nat) : getDie (sendMsg s c h p w b) j = getDie s j := by simp [getDie]

@[simp] theorem getDie_sendNotice (s : State) (c i : Nat) (g pc : Word) (t : Trap) (j : Nat) : getDie (sendNotice s c i g pc t) j = getDie s j := by simp [getDie]

@[simp] theorem getDie_fpEvent (s : State) (c i : Nat) (pc : Word) (a b : Nat) (j : Nat) : getDie (fpEvent s c i pc a b) j = getDie s j := by simp [getDie]

@[simp] theorem getDie_parkTrapped (s : State) (c i : Nat) (t : Trap) (j : Nat) : getDie (parkTrapped s c i t) j = getDie s j := by simp [getDie]

@[simp] theorem getDie_takeTrap (s : State) (t : Trap) (j : Nat) : getDie (takeTrap t s) j = getDie s j := by simp [getDie]

@[simp] theorem getDie_mergeFlags (s : State) (n : Nat) (fl : BitVec 6) (j : Nat) : getDie (mergeFlags n fl s) j = getDie s j := rfl

/-! ## getRegion after an operation that touches no region -/

@[simp] theorem getRegion_setCore (s : State) (c : Nat) (k : Core) (j : Nat) : getRegion (setCore s c k) j = getRegion s j := rfl

@[simp] theorem getRegion_modCore (s : State) (c : Nat) (f : Core → Core) (j : Nat) : getRegion (modCore s c f) j = getRegion s j := rfl

@[simp] theorem getRegion_setSlot (s : State) (c i : Nat) (t : Slot) (j : Nat) : getRegion (setSlot s c i t) j = getRegion s j := rfl

@[simp] theorem getRegion_modSlot (s : State) (c i : Nat) (f : Slot → Slot) (j : Nat) : getRegion (modSlot s c i f) j = getRegion s j := rfl

@[simp] theorem getRegion_modCur (s : State) (f : Slot → Slot) (j : Nat) : getRegion (modCur s f) j = getRegion s j := rfl

@[simp] theorem getRegion_writeLate (s : State) (d : RegId) (n : Nat) (v : Vec) (j : Nat) : getRegion (writeLate s d n v) j = getRegion s j := rfl

@[simp] theorem getRegion_parkIn (s : State) (p : Park) (j : Nat) : getRegion (parkIn p s) j = getRegion s j := rfl

@[simp] theorem getRegion_spWrite (s : State) (c a r : Nat) (d : List Byte) (j : Nat) : getRegion (spWrite s c a r d) j = getRegion s j := rfl

@[simp] theorem getRegion_setCluster (s : State) (k : Nat) (c : Cluster) (j : Nat) : getRegion (setCluster s k c) j = getRegion s j := rfl

@[simp] theorem getRegion_modCluster (s : State) (k : Nat) (f : Cluster → Cluster) (j : Nat) : getRegion (modCluster s k f) j = getRegion s j := rfl

@[simp] theorem getRegion_setDie (s : State) (d : Nat) (k : Die) (j : Nat) : getRegion (setDie s d k) j = getRegion s j := rfl

@[simp] theorem getRegion_modDie (s : State) (d : Nat) (f : Die → Die) (j : Nat) : getRegion (modDie s d f) j = getRegion s j := rfl

@[simp] theorem getRegion_launch (s : State) (ch : Option Chan) (n : Nat) (b : Bool) (e : Event) (j : Nat) : getRegion (launch s ch n b e) j = getRegion s j := rfl

@[simp] theorem getRegion_sendTo (s : State) (n : Nat) (p : Place) (e : Event) (j : Nat) : getRegion (sendTo s n p e) j = getRegion s j := rfl

@[simp] theorem getRegion_putBack (s : State) (n : Nat) (p : Place) (e : Event) (j : Nat) : getRegion (putBack s n p e) j = getRegion s j := rfl

@[simp] theorem getRegion_later (s : State) (e : Event) (j : Nat) : getRegion (later s e) j = getRegion s j := rfl

@[simp] theorem getRegion_atCycle (s : State) (n : Nat) (e : Event) (j : Nat) : getRegion (atCycle s n e) j = getRegion s j := rfl

@[simp] theorem getRegion_takeNumber (s : State) (j : Nat) : getRegion (takeNumber s) j = getRegion s j := rfl

@[simp] theorem getRegion_launchAs (s : State) (i : Nat) (ch : Option Chan) (n : Nat) (b : Bool) (e : Event) (j : Nat) : getRegion (launchAs s i ch n b e) j = getRegion s j := rfl

@[simp] theorem getRegion_keepInside (s : State) (c : Nat) (h : HeldRelease) (j : Nat) : getRegion (keepInside s c h) j = getRegion s j := rfl

@[simp] theorem getRegion_holdInside (s : State) (c n : Nat) (p : Place) (g : Word) (w : List Nat) (e : Event) (j : Nat) : getRegion (holdInside s c n p g w e) j = getRegion s j := rfl

@[simp] theorem getRegion_sendAs (s : State) (i n : Nat) (p : Place) (e : Event) (j : Nat) : getRegion (sendAs s i n p e) j = getRegion s j := by simp [getRegion]

@[simp] theorem getRegion_sendEvent (s : State) (n : Nat) (p : Place) (e : Event) (j : Nat) : getRegion (sendEvent s n p e) j = getRegion s j := by simp [getRegion]

@[simp] theorem getRegion_taskSend (s : State) (c : Nat) (g : Word) (p : Place) (e : Event) (j : Nat) : getRegion (taskSend s c g p e) j = getRegion s j := by simp [getRegion]

@[simp] theorem getRegion_rcbPut (s : State) (r : Region) (w a b v : Nat) (j : Nat) : getRegion (rcbPut s r w a b v) j = getRegion s j := rfl

@[simp] theorem getRegion_roscAdd (s : State) (r : Nat) (d : Int) (j : Nat) : getRegion (roscAdd s r d) j = getRegion s j := by simp [getRegion]

@[simp] theorem getRegion_otcAdd (s : State) (r : Nat) (d : Int) (j : Nat) : getRegion (otcAdd s r d) j = getRegion s j := by simp [getRegion]

@[simp] theorem getRegion_physWrite (s : State) (pa key : Nat) (d : List Byte) (j : Nat) : getRegion (physWrite s pa key d) j = getRegion s j := rfl

@[simp] theorem getRegion_moveBytes (s : State) (r n : Nat) (j : Nat) : getRegion (moveBytes s r n) j = getRegion s j := rfl

@[simp] theorem getRegion_stallBundle (s : State) (j : Nat) : getRegion (stallBundle s) j = getRegion s j := rfl

@[simp] theorem getRegion_countError (s : State) (d n : Nat) (j : Nat) : getRegion (countError s d n) j = getRegion s j := rfl

@[simp] theorem getRegion_addOut (s : State) (c i : Nat) (k : OutKind) (ps : List Place) (sp : List (Nat × Nat)) (d : RegId) (f : LoadForm) (n : Nat) (b : Bool) (j : Nat) : getRegion (addOut s c i k ps sp d f n b) j = getRegion s j := by simp [getRegion]

@[simp] theorem getRegion_sendMsg (s : State) (c : Nat) (h : Word) (p : List Word) (w : Who) (b : Bool) (j : Nat) : getRegion (sendMsg s c h p w b) j = getRegion s j := by simp [getRegion]

@[simp] theorem getRegion_sendNotice (s : State) (c i : Nat) (g pc : Word) (t : Trap) (j : Nat) : getRegion (sendNotice s c i g pc t) j = getRegion s j := by simp [getRegion]

@[simp] theorem getRegion_fpEvent (s : State) (c i : Nat) (pc : Word) (a b : Nat) (j : Nat) : getRegion (fpEvent s c i pc a b) j = getRegion s j := by simp [getRegion]

@[simp] theorem getRegion_parkTrapped (s : State) (c i : Nat) (t : Trap) (j : Nat) : getRegion (parkTrapped s c i t) j = getRegion s j := by simp [getRegion]

@[simp] theorem getRegion_takeTrap (s : State) (t : Trap) (j : Nat) : getRegion (takeTrap t s) j = getRegion s j := by simp [getRegion]

@[simp] theorem getRegion_mergeFlags (s : State) (n : Nat) (fl : BitVec 6) (j : Nat) : getRegion (mergeFlags n fl s) j = getRegion s j := rfl

end Sys2Proof.Machine
end

