-- ==== Sys2Proof/Laws/Memory.lean ====
section
/-! SUPPORT. Every operation that writes a byte store keeps its canonical form: device memory, scratchpads, program stores and
rule tables. -/

namespace Sys2Proof.Machine

/-! ## What a canonical state holds -/

theorem canonical_core {s : State} (h : Canonical s) (c : Nat) : (getCore s c).sp.wf = true :=
  tget_forall (fun k => k.sp.wf = true) s.cores c _ rfl h.2.1

theorem canonical_cluster {s : State} (h : Canonical s) (k : Nat) :
    (getCluster s k).prog.wf = true ∧ (getCluster s k).rules.wf = true :=
  tget_forall (fun c => c.prog.wf = true ∧ c.rules.wf = true) s.clusters k _ ⟨rfl, rfl⟩ h.2.2

/-! ## Replacing a part of the state -/

theorem canonical_setCore {s : State} (h : Canonical s) (c : Nat) {k : Core} (hk : k.sp.wf = true) : Canonical (setCore s c k) :=
  ⟨h.1, forall_tset (fun k : Core => k.sp.wf = true) s.cores c k h.2.1 hk, h.2.2⟩

theorem canonical_setCluster {s : State} (h : Canonical s) (k : Nat) {c : Cluster} (hc : c.prog.wf = true ∧ c.rules.wf = true) :
    Canonical (setCluster s k c) :=
  ⟨h.1, h.2.1, forall_tset (fun c : Cluster => c.prog.wf = true ∧ c.rules.wf = true) s.clusters k c h.2.2 hc⟩

/-- A change of a core that leaves its scratchpad alone, or canonical. -/
theorem canonical_modCore {s : State} (h : Canonical s) (c : Nat) {f : Core → Core}
    (hf : ∀ k : Core, k.sp.wf = true → (f k).sp.wf = true) : Canonical (modCore s c f) :=
  canonical_setCore h c (hf _ (canonical_core h c))

theorem canonical_modCluster {s : State} (h : Canonical s) (k : Nat) {f : Cluster → Cluster}
    (hf : ∀ c : Cluster, c.prog.wf = true ∧ c.rules.wf = true → (f c).prog.wf = true ∧ (f c).rules.wf = true) :
    Canonical (modCluster s k f) :=
  canonical_setCluster h k (hf _ (canonical_cluster h k))

theorem canonical_setSlot {s : State} (h : Canonical s) (c i : Nat) (t : Slot) : Canonical (setSlot s c i t) :=
  canonical_modCore h c fun _ hk => hk

theorem canonical_modSlot {s : State} (h : Canonical s) (c i : Nat) (f : Slot → Slot) : Canonical (modSlot s c i f) :=
  canonical_setSlot h c i _

theorem canonical_modDie {s : State} (h : Canonical s) (d : Nat) (f : Die → Die) : Canonical (modDie s d f) := h

theorem canonical_modRegion {s : State} (h : Canonical s) (r : Nat) (f : Region → Region) : Canonical (modRegion s r f) := by
  unfold modRegion
  split
  · exact h
  · exact h

/-- What the canonical form depends on. -/
theorem canonical_of_same {s t : State} (h : Canonical s) (hm : t.mem = s.mem) (hc : t.cores = s.cores) (hk : t.clusters = s.clusters) :
    Canonical t := by
  unfold Canonical
  rw [hm, hc, hk]
  exact h

/-! ## The writes -/

theorem canonical_mem {s : State} (h : Canonical s) {m : Memory} (hm : m.wf = true) : Canonical { s with mem := m } := ⟨hm, h.2⟩

theorem foldl_wf {α : Type} (f : Memory → α → Memory) (l : List α) (m : Memory) (hf : ∀ m a, m.wf = true → (f m a).wf = true)
    (h : m.wf = true) : (l.foldl f m).wf = true := by
  induction l generalizing m with
  | nil => exact h
  | cons a r ih => exact ih (f m a) (hf m a h)

/-- A field of a control block (16 R311). -/
theorem canonical_rcbPut {s : State} (h : Canonical s) (r : Region) (w hi lo v : Nat) : Canonical (rcbPut s r w hi lo v) :=
  canonical_mem h (mwrite_wf _ _ _ _ h.1)

/-- Device memory, plain or sealed (19 R352). -/
theorem canonical_physWrite {s : State} (h : Canonical s) (pa key : Nat) (d : List Byte) : Canonical (physWrite s pa key d) := by
  refine ⟨?_, h.2⟩
  simp only [physWrite]
  split
  · exact msets_wf _ _ _ h.1
  · exact foldl_wf _ _ _ (fun m _ hm => msets_wf m _ _ hm) h.1

/-- A scratchpad. -/
theorem canonical_spWrite {s : State} (h : Canonical s) (c a region : Nat) (d : List Byte) : Canonical (spWrite s c a region d) :=
  canonical_modCore h c fun _ hk => msets_wf _ _ _ hk

/-- The undo log of a checked pair (19 R348). -/
theorem canonical_applyUndo {s : State} (h : Canonical s) (core : Nat) (us : List (Nat × Word)) :
    Canonical (modCore s core fun k => { k with sp := us.reverse.foldl (fun m e => mwrite m e.1 8 e.2.toNat) k.sp }) :=
  canonical_modCore h core fun _ hk => foldl_wf _ _ _ (fun m _ hm => mwrite_wf m _ _ _ hm) hk

/-- A loaded image or rule table (16 R313). -/
theorem memoryFrom_wfFrom (l : List Byte) (lo a : Nat) (h : lo ≤ a) : mwfFrom lo (memoryFrom a l) = true := by
  induction l generalizing lo a with
  | nil => rfl
  | cons b r ih =>
    by_cases hb : b = 0#8
    · simpa [memoryFrom, hb] using ih lo (a + 1) (by omega)
    · simpa [memoryFrom, hb, mwfFrom, h] using ih (a + 1) (a + 1) (by omega)

theorem memoryFrom_wf (l : List Byte) : (memoryFrom 0 l).wf = true := memoryFrom_wfFrom l 0 0 (Nat.le_refl 0)

/-- Reset lists no byte anywhere. -/
theorem reset_mem_wf : State.reset.mem.wf = true := rfl

end Sys2Proof.Machine
end

