-- ==== Sys2Proof/Laws/Ops.lean ====
section
/-! SUPPORT. How a meaning runs: the steps of an operation over the state, and what a word with free operands answers. -/

namespace Sys2Proof.Machine

/-! ## Operations -/

@[simp] theorem except_ok_bind {α β ε : Type} (a : α) (f : α → Except ε β) : (Except.ok a >>= f) = f a := rfl

@[simp] theorem except_error_bind {α β ε : Type} (e : ε) (f : α → Except ε β) : (Except.error e >>= f) = Except.error e := rfl

@[simp] theorem op_bind_ok {α β} (m : Op α) (f : α → Op β) (s : State) :
   (m >>= f) s = match m s with | .ok (a, s') => f a s' | .error e => .error e := by
  show StateT.bind m f s = _
  unfold StateT.bind
  simp only [bind, Except.bind]
  rcases m s with e | ⟨a, s'⟩ <;> rfl
@[simp] theorem op_pure {α} (a : α) (s : State) : (pure a : Op α) s = .ok (a, s) := rfl
@[simp] theorem look_app (s : State) : look s = .ok (s, s) := rfl
@[simp] theorem change_app (f) (s : State) : change f s = .ok ((), f s) := rfl
@[simp] theorem run_app {α} (m : Op α) (s : State) : m.run s = m s := rfl
@[simp] theorem stallIf_app (b) (s : State) : stallIf b s = if b then .error .stall else .ok ((), s) := rfl
@[simp] theorem trapIf_app (b t) (s : State) : trapIf b t s = if b then .error (.trap t) else .ok ((), s) := rfl
@[simp] theorem raise_app {α} (t) (s : State) : (raise t : Op α) s = .error (.trap t) := rfl
@[simp] theorem stall_app {α} (s : State) : (stall : Op α) s = .error .stall := rfl

theorem operands_free {s srcs d} (h : operandsFree s srcs d = true) : operands srcs d false s = .ok ((), s) := by
  simp only [operandsFree, Bool.and_eq_true, Bool.not_eq_true', Option.isNone_iff_eq_none] at h
  obtain ⟨⟨⟨h1, h2⟩, h3⟩, h4⟩ := h
  simp [operands, h1, h2, h3, h4]

theorem sw1 {s s1 a f} (h : sourceWords [f] s = some ([a], s1)) : rdX f s = .ok (a, s1) := by
  unfold sourceWords at h
  simp only [run_app] at h
  split at h
  · next v s2 e => simp [sourceWords] at h; simp [e, h]
  · simp at h

theorem sw2 {s s1 a b f g} (h : sourceWords [f, g] s = some ([a, b], s1)) :
    ∃ s2, rdX f s = .ok (a, s2) ∧ rdX g s2 = .ok (b, s1) := by
  unfold sourceWords at h
  simp only [run_app] at h
  split at h
  · next v s2 e =>
    split at h
    · next vs s3 e2 =>
      simp at h
      obtain ⟨⟨rfl, rfl⟩, rfl⟩ := h
      exact ⟨s2, e, sw1 e2⟩
    · simp at h
  · simp at h

theorem rt {s t f lat v} (h : resultTo s f lat v = some t) : wrX f lat v s = .ok ((), t) := by
  unfold resultTo at h; simp only [run_app] at h
  split at h
  · next u t' e => cases h; exact e
  · simp at h

theorem gives2_intOp {i rd ra rb lat f} {R : Word → Word → Word → Prop} (he : ∀ s, exec i s = runOp (intOp rd ra rb lat f) s)
   (hR : ∀ a b w, R a b w → w = f a b) : Gives2 i rd ra rb lat R := by
  intro s s1 t vs w ho hs ⟨a, b, hv, hr⟩ ht
  subst hv
  obtain ⟨s2, e1, e2⟩ := sw2 hs
  rw [hR a b w hr] at ht
  simp [he, runOp, intOp, operands_free ho, e1, e2, rt ht]

theorem gives2_pred {i rd ra rb lat f fi} {R : Word → Word → Word → Prop}
   (he : ∀ s, exec i s = runOp (intOpPredicted rd ra rb lat f fi) s)
   (hR : ∀ a b w, R a b w → w = f a b) : Gives2Sound i rd ra rb lat R := by
  intro s s1 t vs w ho hb hs ⟨a, b, hv, hr⟩ ht
  subst hv
  obtain ⟨s2, e1, e2⟩ := sw2 hs
  rw [hR a b w hr] at ht
  have hb' : anyBad s [ra, rb] = false := by simpa [soundSources] using hb
  simp [he, runOp, intOpPredicted, operands_free ho, e1, e2, wrXPredicted, hb', rt ht]

theorem gives1_unOp {i rd ra f} {R : Word → Word → Prop} (he : ∀ s, exec i s = runOp (unOp rd ra f) s)
   (hR : ∀ a w, R a w → w = f a) : Gives1 i rd ra R := by
  intro s s1 t vs w ho hs ⟨a, hv, hr⟩ ht
  subst hv
  rw [hR a w hr] at ht
  simp [he, runOp, unOp, operands_free ho, sw1 hs, rt ht]
end Sys2Proof.Machine
end

