-- ==== Sys2Proof/Tests/Help.lean ====
section
/-! SUPPORT. Small states for the tests and the witnesses of the statements' hypotheses. -/

namespace Sys2Proof.Tests

set_option Elab.async false

open Machine

abbrev Res := Host.Outcome State Fault Refusal

/-- A step answered a next state of which p holds. -/
def nextIs (o : Res) (p : State → Bool) : Bool :=
  match o with
  | .next t => p t
  | .fault _ => false
  | .refused _ => false

/-- A step answered exactly this next state. -/
def goesTo (o : Res) (t : State) : Bool := nextIs o fun u => decide (u = t)

/-- The word traps so; the word does not issue. -/
def trapsWith (i : Instr) (s : State) (t : Trap) : Bool := goesTo (exec i s) (takeTrap t s)

def waitsFor (i : Instr) (s : State) : Bool := goesTo (exec i s) (stallBundle s)

/-- The GTID of the task that the small states place in slot 0 of a core. -/
def taskOf (c : Nat) : Word := BitVec.ofNat 64 (2 ^ 48 + c * 2 ^ 36 + 1)

/-- A package in cycle 100 with a task of region 1 in slot 0 of core c, whose bundle at 0x40 is being executed. -/
def atCore (c : Nat) (f : Slot → Slot) : State :=
  let s := setSlot State.reset c 0 (f { Slot.empty with held := true, gtid := taskOf c, region := 1, pc := 0x40 })
  { s with cycle := 100, cur := { s.cur with core := c, pc := 0x40 } }

/-- On core 0, with these x registers. -/
def withX (l : List (Nat × Word)) : State := atCore 0 fun t => { t with x := l }

/-- The slot of the task after every late result has landed. -/
def landed (t : State) (c : Nat) : Slot := landLate (getSlot t c 0) (t.cycle + 1000)

/-- The word leaves v in x[n] of its task. -/
def leavesX (i : Instr) (s : State) (n : Nat) (v : Word) : Bool :=
  nextIs (exec i s) fun t => getX (landed t s.cur.core) n == v

def leavesF (i : Instr) (s : State) (n : Nat) (v : Word) : Bool :=
  nextIs (exec i s) fun t => getF (landed t s.cur.core) n == v

def leavesV (i : Instr) (s : State) (n : Nat) (v : Vec) : Bool :=
  nextIs (exec i s) fun t => getV (landed t s.cur.core) n == v

def leavesP (i : Instr) (s : State) (n : Nat) (b : Bool) : Bool :=
  nextIs (exec i s) fun t => getP (landed t s.cur.core) n == b

/-- The word of slot 0 of core c and its task. -/
def whoAt (c item : Nat) : Who := ⟨c, 0, taskOf c, item⟩

/-- The virtual addresses of the small region: its first byte of device memory, then ATOMIC, NODE and guarded ranges, a guard
object, its control block and its log. -/
def devVa : Nat := 2 ^ 32
def atomVa : Nat := 2 ^ 32 + 0x10000
def nodeBase : Nat := 2 ^ 32 + 0x20000
def guardedVa : Nat := 2 ^ 32 + 0x200000
def guardVa : Nat := 2 ^ 32 + 0x400000
def rcbVa1 : Nat := 2 ^ 32 + 0x500000
def alogVa : Nat := 2 ^ 32 + 0x600000

/-- Where the page tables of the region lay a VA: one leaf of 1 GiB. -/
def phys (va : Nat) : Nat := 2 ^ 30 + (va - 2 ^ 32)

def region1 : Region :=
  { id := 1, parent := 0, children := [], rcbPa := phys rcbVa1, rcbVa := rcbVa1, ovr := 0, dies := 255, clusters := 255,
    guardq := 100, mboxq := 200, nodeq := 1000, mxtix := 1, w := [10, 10, 10, 10], stagger := 0, fpol := false, conf := false,
    key := 0, replay := 0, ptroot := 0x10000, rangetab := 0, harptab := 0, nbase := nodeBase, tf := [0, 0, 0, 0], image := 0,
    imglen := 0, ruletab := 0, tagtab := 0, data := 0, simage := 0, slen := 0, nqbase := 0, nqsize := 0, nqOwner := 1,
    accthr := 0, ctxarea := 2 ^ 32 + 0x700000, ctxn := 4, ctxOwner := 1, entry := 0, alog := alogVa, setOwner := 1,
    startedBy := ⟨0, [], ⟨0, 0, 0, 0⟩, false⟩, killCause := none, dying := false, nodesLive := [], startOrder := 0,
    firstFault := 0, firstCause := 0, nfault := 0, debug := false }

def tables1 : TableSet :=
  { region := 1
    ranges := [⟨devVa, 0x10000, 0, true, true, 0⟩, ⟨atomVa, 0x10000, 3, true, true, 0⟩, ⟨nodeBase, 0x1E0000, 4, true, true, 0⟩,
      ⟨guardedVa, 0x200000, 1, true, true, BitVec.ofNat 64 guardVa⟩]
    harp := [(5, ⟨devVa, phys devVa⟩), (6, ⟨devVa, 0x2000⟩)]
    nbase := nodeBase }

/-- A package with region 1 RUNNING: its root table, one table of 1 GiB leaves, STATUS in its control block, and its tables in
cluster 0. -/
def withRegion (s : State) : State :=
  let m := mwrite (mwrite (mwrite [] 0x10000 8 0x20005) (0x20000 + 32) 8 0x40000003) (phys rcbVa1) 8 (2 ^ 48 + 2 * 2 ^ 24)
  { s with
    mem := m
    regions := [(1, region1)]
    clusters := [(0, { Cluster.reset 0 with sets := [(0, tables1)] })] }

/-- The task of core 0 in region 1, with these x registers. -/
def inRegion (l : List (Nat × Word)) : State := withRegion (withX l)

end Sys2Proof.Tests
end

