-- ==== Sys2Proof/Tests/Memory.lean ====
section
/-! SUPPORT. Loads, stores, atomics, memory traffic, fences and copies: witnesses of the hypotheses of the statements about
them, and single results by hand from the rules. -/

namespace Sys2Proof.Tests

set_option Elab.async false

open Machine

/-- Core 0 in region 1. Its scratchpad holds 0x88, 0x99 at 0x100. x1 = 0x100, x2 = 0x101, x3 core 1 through the window, x4 core 2,
which is fused, x5 the program store, x6 a hole, x7 device memory, x8 beyond the ranges, x9 not canonical, x10 a value. -/
def wM : State :=
  let s := inRegion [(1, 0x100), (2, 0x101), (3, 0x1080100), (4, 0x1100100), (5, 0x8000000), (6, 0x3000000),
    (7, BitVec.ofNat 64 devVa), (8, BitVec.ofNat 64 (devVa + 2 ^ 29)), (9, 2 ^ 56), (10, 0x1234567890ABCDEF)]
  let s1 := modCore s 0 fun k => { k with sp := mwrite [] 0x100 2 0x9988 }
  modDie s1 0 fun d => { d with fused := [2] }

def wBadSp : State := modCore wM 0 fun k => { k with poison := [4] }

def wBehind : State :=
  let s := sendTo wM (taskSrc 0 (taskOf 0)) (.core 0) (.dispatch 0)
  { s with cur := { s.cur with first := 1 } }

def wHost : State := { wM with dramPoison := [phys devVa / 64] }

def Got (o : Except Trap (State × Loc × Option AccPage)) : Option (Loc × Option AccPage) :=
  match o with
  | .ok (_, l, a) => some (l, a)
  | .error _ => none

def GotTrap (o : Except Trap (State × Loc × Option AccPage)) : Option Trap :=
  match o with
  | .ok _ => none
  | .error t => some t

/-! ## Loads -/

theorem witness_Loads : getP (curSlot wM) 0 = true ∧ getP (curSlot wM) 1 = false ∧
    operandsFree wM [1] (.x 11) = true ∧ soundSources wM [1] = true ∧ sourceWords [1] wM = some ([0x100], wM) ∧
    operandsFree wM [1] (.f 11) = true ∧ operandsFree wM [1] (.v 11) = true ∧ operandsFree wM [1, 1] (.x 11) = true ∧
    (cmEa 0 2 0x101).toNat % 2 ≠ 0 ∧ (cmEa 0x7E 2 0x100).toNat = 0xFC := by decide +kernel

theorem witness_Loads_local : spBad wM 0 0x100 8 = false ∧ behindOwn wM = false ∧ spBad wBadSp 0 0x100 8 = true ∧
    behindOwn wBehind = true ∧ spBad wBehind 0 0x100 8 = false ∧ (0x7FFF8 : Nat) < 0x80000 ∧ spBad wM 0 0x7FFF8 8 = false := by
  decide +kernel

theorem witness_Loads_window : liveCore wM (windowCore 0 0x1080100) = true ∧ windowAddr 0x1080100 = 0x100 ∧
    spBad wM (windowCore 0 0x1080100) 0x100 8 = false ∧ liveCore wM (windowCore 0 0x1100100) = false ∧
    classify 0x3000000 = .hole ∧ classify 0x2800000 = .hole ∧ classify 0x27FFFF8 = .window ∧ classify 0x81FFFF8 = .progView := by
  decide +kernel

theorem witness_Loads_device : Got (devCheck wM (.core 0) 0 1 .load devVa 8) = some (.phys (phys devVa) 0, none) ∧
    GotTrap (devCheck wM (.core 0) 0 1 .load (devVa + 2 ^ 29) 8) = some ⟨4, 0, 0, BitVec.ofNat 64 (devVa + 2 ^ 29)⟩ ∧
    physBad wM (phys devVa) 8 = false ∧ physBad wHost (phys devVa) 8 = true ∧ (2 ^ 32 : Nat) ≤ devVa ∧ devVa < 2 ^ 56 := by
  decide +kernel

theorem test_load_signs : leavesX (.ldb ⟨11, 1, 0, 0⟩) wM 11 0xFFFFFFFFFFFFFF88 = true ∧ leavesX (.ldbu ⟨11, 1, 0, 1⟩) wM 11 0x99 = true ∧
    leavesX (.ldh ⟨11, 1, 0, 0⟩) wM 11 0xFFFFFFFFFFFF9988 = true ∧ leavesX (.ldhu ⟨11, 1, 0, 0⟩) wM 11 0x9988 = true ∧
    leavesX (.ldw ⟨11, 1, 0, 0⟩) wM 11 0x9988 = true ∧ leavesX (.ldd ⟨11, 1, 0, 0⟩) wM 11 0x9988 = true := by decide +kernel
theorem test_load_forms : leavesF (.fldS ⟨11, 1, 0, 0⟩) wM 11 0xFFFFFFFF00009988 = true ∧ leavesF (.fldD ⟨11, 1, 0, 0⟩) wM 11 0x9988 = true ∧
    leavesV (.vld ⟨11, 1, 0, 0⟩) wM 11 0x9988#512 = true ∧ leavesX (.ldx 11 1 0 0 1 0) wM 11 0xFFFFFFFFFFFFFF88 = true := by
  decide +kernel
theorem test_load_traps : trapsWith (.ldh ⟨11, 2, 0, 0⟩) wM ⟨3, 0, 0, 0x101⟩ = true ∧ trapsWith (.ldd ⟨11, 9, 0, 0⟩) wM ⟨5, 0, 0, 2 ^ 56⟩ = true ∧
    trapsWith (.ldd ⟨11, 1, 0, 0⟩) wBadSp ⟨11, 0, 0, 0x100⟩ = true ∧ trapsWith (.ldd ⟨11, 7, 0, 0⟩) wHost ⟨11, 0, 0, BitVec.ofNat 64 devVa⟩ = true ∧
    goesTo (exec (.ldd ⟨11, 9, 1, 0⟩) wM) wM = true := by decide +kernel
/-- A hole reads 0 and is recorded in SPBAD; device memory and another core's scratchpad are read by a message. -/
theorem test_load_elsewhere : nextIs (exec (.ldd ⟨11, 6, 0, 0⟩) wM) (fun t => (curSlot t).spbad == 0x8000000003000000) = true ∧
    nextIs (exec (.ldd ⟨11, 7, 0, 0⟩) wM) (fun t => (curSlot t).pendX == [11] && t.flights.length == 1) = true ∧
    nextIs (exec (.ldd ⟨11, 3, 0, 0⟩) wM) (fun t => (curSlot t).pendX == [11] && t.flights.length == 1) = true := by decide +kernel

/-! ## Stores -/

/-- A shared held window at 0x200 refuses writes. -/
def hold1 (v : Nat) (st : HoldState) (x inp : Bool) : Hold :=
  { guardVa := BitVec.ofNat 64 guardVa, guardPa := phys guardVa, region := 1, state := st, excl := x, inPlace := inp, hix := 1,
    recAddr := 0x400, window := 0x200, wlen := 0x100, vlast := 0, sbSize := 256, nsb := 1, dirty := [], token := whoAt 0 7,
    tokenReg := 12, home := false, releasing := false, got := 0, expect := none, status := 0, v := v, flushing := false, homeLeft := 0,
    homeNext := [] }

def wWin : State := modCore wM 0 fun k => { k with holds := [hold1 3 .held false false] }

theorem witness_Stores : getP (curSlot wM) 0 = true ∧ operandsFree wM [10, 1] .none = true ∧ soundSources wM [10, 1] = true ∧
    sourceWords [10, 1] wM = some ([0x1234567890ABCDEF, 0x100], wM) ∧ windowRefusal wM 0 0x100 8 true = none ∧ behindOwn wM = false ∧
    windowRefusal wWin 0 0x200 8 true = some (2, 0x200) ∧ (0x7BFF8 : Nat) + 8 ≤ 0x7C000 ∧ 0x7C000 < (0x7C000 : Nat) + 8 ∧
    operandsFree wM [1] .none = true ∧ operandsFree wM [10, 1, 0] .none = true ∧ windowCore 0 0x1000200 = 0 ∧
    windowRefusal wWin 0 (windowAddr 0x1000200) 8 true = some (2, 0x200) := by decide +kernel

theorem witness_Stores_elsewhere : oscOf (curSlot wM) < 1024 ∧ windowAddr 0x1080100 + 8 ≤ 0x7C000 ∧
    0x7C000 < windowAddr 0x10FC000 + 8 ∧ Got (devCheck wM (.core 0) 0 1 .store devVa 8) = some (.phys (phys devVa) 0, none) ∧
    GotTrap (devCheck wM (.core 0) 0 1 .store (devVa + 2 ^ 29) 8) = some ⟨4, 0, 0, BitVec.ofNat 64 (devVa + 2 ^ 29)⟩ := by
  decide +kernel

theorem witness_SpbadKeepsTheFirst : (curSlot wM).spbad.getLsbD 63 = false ∧
    (curSlot (recordSpbad wM true 0x3000000)).spbad.getLsbD 63 = true := by decide +kernel

def spHas (a n v : Nat) (t : State) : Bool := leNat (spRead t 0 a n) == v

theorem test_store_widths : nextIs (exec (.stb ⟨10, 1, 0, 0⟩) wM) (spHas 0x100 8 0x99EF) = true ∧
    nextIs (exec (.sth ⟨10, 1, 0, 0⟩) wM) (spHas 0x100 8 0xCDEF) = true ∧ nextIs (exec (.stw ⟨10, 1, 0, 0⟩) wM) (spHas 0x100 8 0x90ABCDEF) = true ∧
    nextIs (exec (.std ⟨10, 1, 0, 0⟩) wM) (spHas 0x100 8 0x1234567890ABCDEF) = true := by decide +kernel
/-- STN takes a nibble address: 0x201 is the high nibble of byte 0x100. -/
theorem test_stn : nextIs (exec (.stn ⟨10, 12, 0, 0⟩) (modCur wM fun t => { t with x := (12, 0x201) :: t.x })) (spHas 0x100 1 0xF8) = true ∧
    nextIs (exec (.stx 10 1 1 0 0) wM) (spHas 0x200 1 0xEF) = true := by decide +kernel
theorem test_fst_vst : nextIs (exec (.fstS ⟨1, 1, 0, 0⟩) (modCur wM fun t => { t with f := [(1, 0x1122334455667788)] })) (spHas 0x100 8 0x55667788) = true ∧
    nextIs (exec (.fstD ⟨1, 1, 0, 0⟩) (modCur wM fun t => { t with f := [(1, 0x1122334455667788)] })) (spHas 0x100 8 0x1122334455667788) = true ∧
    nextIs (exec (.vst ⟨1, 1, 0, 0⟩) (modCur wM fun t => { t with v := [(1, 7#512)] })) (spHas 0x100 64 7) = true := by decide +kernel
theorem test_store_refused : trapsWith (.std ⟨10, 13, 0, 0⟩) (modCur wWin fun t => { t with x := (13, 0x200) :: t.x }) ⟨4, 2, 0, 0x200⟩ = true ∧
    nextIs (exec (.std ⟨10, 6, 0, 0⟩) wM) (fun t => (curSlot t).spbad == 0xC000000003000000) = true := by decide +kernel

/-! ## Elements of vectors -/

/-- Three active elements of 8 bytes from 0x100 on; misaligned from 0x101 on. -/
def wE : State := modCur wM fun t => { t with
  x := (11, 8) :: t.x, v := [(1, 0x11#512), (2, 0x0200000000000000010000000000000000#512), (29, 7#512)] }

theorem witness_VectorElementAccesses : behindOwn wE = false ∧ operandsFree wE [1, 11] (.v 3) = true ∧
    soundSources wE [1, 11] = true ∧ sourceWords [1, 11] wE = some ([0x100, 8], wE) ∧ operandsFree wE [1] (.v 3) = true ∧
    sourceWords [1] wE = some ([0x100], wE) ∧ operandsFree wE [1, 11] .none = true ∧ operandsFree wE [1] .none = true ∧
    (actives wE 1 (elems 3)).all (fun j => (0x100 + 8 * j) % 8 == 0 && decide (0x100 + 8 * j + 8 ≤ 0x7C000) &&
      !spBad wE 0 (0x100 + 8 * j) 8 && (windowRefusal wE 0 (0x100 + 8 * j) 8 true).isNone) = true ∧
    sourceWords [2, 11] wE = some ([0x101, 8], wE) := by decide +kernel

/-- The same elements at 0x01080100, in the scratchpad of core 1. -/
def wEwindow : State := modCur wE fun t => { t with x := (1, 0x1080100) :: t.x }

theorem witness_VectorElementAccesses_window : sourceWords [1, 11] wEwindow = some ([0x1080100, 8], wEwindow) ∧
    (actives wEwindow 1 (elems 3)).all (fun j => (0x1080100 + 8 * j) % 8 == 0 && decide (0x1080100 + 8 * j < 0x2800000) &&
      liveCore wEwindow (windowCore 0 (0x1080100 + 8 * j)) && !spBad wEwindow 1 (0x100 + 8 * j) 8 &&
      windowAddr (0x1080100 + 8 * j) == 0x100 + 8 * j && windowCore 0 (0x1080100 + 8 * j) == 1) = true ∧
    actives wEwindow 1 (elems 3) ≠ [] ∧ behindOwn wEwindow = false ∧ elementAhead wEwindow = false ∧
    oscOf (curSlot wEwindow) + countsOut wEwindow [0x1080100, 0x1080108, 0x1080110] ≤ 1024 := by decide +kernel

theorem test_strided_window : nextIs (exec (.vlds 3 1 11 1 3) wEwindow) (fun t => t.flights.length == 3 && isPending (curSlot t) (.v 3)) = true ∧
    nextIs (exec (.vscat 1 1 2 1 3) wEwindow) (fun t => t.flights.length == 3 && oscOf (curSlot t) == 3) = true := by decide +kernel

theorem test_strided : leavesV (.vlds 3 1 11 1 3) wE 3 0x9988#512 = true ∧
    nextIs (exec (.vsts 1 1 11 1 3) wE) (spHas 0x100 16 0x11) = true ∧ trapsWith (.vlds 3 2 11 1 3) wE ⟨3, 0, 0, 0x101⟩ = true := by
  decide +kernel
theorem test_indexed : leavesV (.vgath 3 1 2 1 3) wE 3 0x9988#512 = true ∧
    nextIs (exec (.vscat 1 1 2 1 3) wE) (spHas 0x100 8 0x11) = true := by decide +kernel

/-! ## Atomics -/

/-- x1 = 0x100 (a word of its own scratchpad), x2 misaligned, x3 in the mailbox, x4 the ATOMIC range, x5 the plain range. -/
def wA : State :=
  let s := inRegion [(1, 0x100), (2, 0x101), (3, 0x7C000), (4, BitVec.ofNat 64 atomVa), (5, BitVec.ofNat 64 devVa), (7, 5)]
  modDie s 0 fun d => { d with homes := [(0, 0), (1, 1)] }

def fullAtoms : State := modCur wA fun t => { t with
  out := List.replicate 64 ⟨0, .amo, [.core 0], [], .none, .none, 1, 0, 0, false, some 0⟩ }

def placeIs (o : Except (Trap × Nat × Nat) (State × Loc)) : Option Loc :=
  match o with
  | .ok (_, l) => some l
  | .error _ => none

theorem witness_AtomicIssue : operandsFree wA [1, 7] (.x 6) = true ∧ soundSources wA [1, 7] = true ∧
    sourceWords [1, 7] wA = some ([0x100, 5], wA) ∧ placeIs (atomPlace wA 0 1 .amo 0x100 8) = some (.sp 0 0x100) ∧
    homeOf wA (.sp 0 0x100) 0x100 = some (0, 0) ∧ atomsTo wA 0 0 < 64 ∧ 64 ≤ atomsTo fullAtoms 0 0 ∧
    placeIs (atomPlace wA 0 1 .amo (BitVec.ofNat 64 atomVa) 8) = some (.phys (phys atomVa) 0) ∧
    (homeOf wA (.phys (phys atomVa) 0) (BitVec.ofNat 64 atomVa)).isSome = true ∧
    GotTrap (devCheck wA (.core 0) 0 1 .amo devVa 8) = some ⟨4, 3, 0, BitVec.ofNat 64 devVa⟩ ∧ classify 0x7C000 = .localSp ∧
    operandsFree wA [1, 7] .none = true ∧ oscOf (curSlot wA) < 1024 ∧ (amoForms[3]?).isSome = true ∧ (redForms[1]?).isSome = true ∧
    placeIs (atomPlace wA 0 1 .red 0x7C000 8) = none ∧ Loc.sp 0 0x100 ≠ noLoc := by decide +kernel

theorem test_amo_issue : nextIs (exec (.amo 6 1 7 .add) wA) (fun t => (curSlot t).pendX == [6] && t.flights.length == 1 &&
      (curSlot t).out.length == 1) = true ∧ trapsWith (.amoAq 6 2 7 .add) wA ⟨3, 0, 0, 0x101⟩ = true ∧
    trapsWith (.amoRl 6 3 7 .add) wA ⟨4, 0, 0, 0x7C000⟩ = true ∧ waitsFor (.amoAr 6 1 7 .add) fullAtoms = true := by decide +kernel
theorem test_red_issue : nextIs (exec (.red 1 7 .add) wA) (fun t => oscOf (curSlot t) == 1 && t.flights.length == 1) = true ∧
    trapsWith (.redRl 2 7 .add) wA ⟨3, 0, 0, 0x101⟩ = true := by decide +kernel

/-- An operation on the word at 0x100 of core 0, which holds 0x9988. -/
def atom (seq : Nat) (red : Bool) (op : AmoOp) (b c : Word) : AtomPkt :=
  ⟨whoAt 3 0, 3, 0, seq, red, op, 0, b, c, .sp 0 0x100, 0x100⟩

def wApplied : State := modCore wM 0 fun k => { k with applied := [(3, 5, 0x42)] }

theorem witness_AtomicsApplyOnce : (0 : Nat) ≠ 4095 ∧ servesAtoms wM 0 = true ∧ isDuplicate (appliedRec wM (atom 1 false .add 1 0)).1 1 = false ∧
    undoHolds wM 0 0x100 8 = false ∧ spBad wM 0 0x100 8 = false ∧ (getCore wM 0).pair = none ∧ (getCore wM 0).sp.wf = true ∧
    isDuplicate (appliedRec wApplied (atom 5 false .add 1 0)).1 5 = true ∧ (appliedRec wApplied (atom 5 false .add 1 0)).1 = 5 ∧
    isDuplicate (appliedRec wApplied (atom 4 false .add 1 0)).1 4 = true ∧ (appliedRec wApplied (atom 4 false .add 1 0)).1 ≠ 4 := by
  decide +kernel

theorem test_atomic_message : nextIs (exec (.atomicMessage (atom 1 false .add 1 0)) wM) (fun t => spHas 0x100 8 0x9989 t &&
      t.flights.map (fun f => f.act) == [.amoReturn (whoAt 3 0) 0x9988]) = true ∧
    nextIs (exec (.atomicMessage (atom 5 false .add 1 0)) wApplied) (fun t => spHas 0x100 8 0x9988 t &&
      t.flights.map (fun f => f.act) == [.amoReturn (whoAt 3 0) 0x42]) = true ∧
    goesTo (exec (.atomicMessage (atom 5 true .add 1 0)) wApplied) wApplied = true := by decide +kernel
theorem test_atomic_values : atomNew .cas 7 9 7 = 9 ∧ atomNew .cas 7 9 8 = 7 ∧ atomNew .min 0xFFFFFFFFFFFFFFFF 1 0 = 0xFFFFFFFFFFFFFFFF ∧
    atomNew .minu 0xFFFFFFFFFFFFFFFF 1 0 = 1 ∧ atomNew .faddD 0x3FF8000000000000 0x4002000000000000 0 = 0x400E000000000000 := by
  decide +kernel

/-- An AMO of slot 0 of core 0 is outstanding as item 4 into x6. -/
def wOut : State := modCur wM fun t => { t with
  pendX := [6], out := [⟨4, .amo, [.core 0], [], .x 6, .none, 1, 0, BitVec.allOnes 512, false, none⟩], nextItem := 5 }

def outIs (s : State) (w : Who) : Option OutItem :=
  if holdsTask (getSlot s w.core w.slot) w.gtid then (getSlot s w.core w.slot).out.find? fun p => p.id == w.item else none

theorem witness_AtomicReturn : (outIs wOut (whoAt 0 4)).map (fun o => o.dst) = some (.x 6) ∧ (whoAt 0 4).core < 8192 ∧
    8192 ≤ (whoAt 8192 0).core := by decide +kernel

theorem test_amo_return : nextIs (exec (.amoReturn (whoAt 0 4) 99) wOut) (fun t => getX (curSlot t) 6 == 99 && (curSlot t).pendX == [] &&
    (curSlot t).out == []) = true := by decide +kernel

def wSo : State := { wM with soRecords := [(7 * 4096 + 3, ⟨5, 0x42, true⟩)] }

theorem witness_ScaleOutAtomics : isDuplicate (tget wSo.soRecords (7 * 4096 + 3) ⟨0, 0, true⟩).last 5 = true ∧
    (tget wSo.soRecords (7 * 4096 + 3) ⟨0, 0, true⟩).done = true ∧ isDuplicate (tget wSo.soRecords (7 * 4096 + 3) ⟨0, 0, true⟩).last 4 = true ∧
    isDuplicate (tget wM.soRecords (7 * 4096 + 3) ⟨0, 0, true⟩).last 1 = false ∧ homeOf wM (.sp 0 0x100) 0x100 = some (0, 0) := by
  decide +kernel

theorem test_scaleout_atomic : nextIs (exec (.scaleOutAtomic 7 3 (atom 5 false .add 1 0)) wSo) (fun t => t.outbox.length == 1) = true ∧
    goesTo (exec (.scaleOutAtomic 7 3 (atom 4 false .add 1 0)) wSo) wSo = true ∧
    nextIs (exec (.scaleOutAtomic 7 3 (atom 1 false .add 1 0)) wM) (fun t => t.flights.length == 1) = true := by decide +kernel

/-! ## Memory traffic -/

def wr (k : WKind) (l : Loc) (d : List Byte) : WritePkt := ⟨whoAt 3 0, k, l, none, 0x100, d⟩

theorem witness_MemoryTraffic : answering wM 0 = true ∧ (wr .store (.sp 0 0x100) [1]).who.core ≠ 0 ∧ (getCore wM 0).pair = none ∧
    (getCore wM 0).sp.wf = true ∧ writeWaits wM (wr .store (.phys 0x1000 0) [1]) = false ∧ wM.mem.wf = true ∧
    wM.regions.all (fun e => decide (0x1000 + 1 ≤ e.2.rcbPa ∨ e.2.rcbPa + 2 ^ 16 ≤ 0x1000)) = true ∧
    undoHolds wM 0 0x100 1 = false := by decide +kernel

/-- A load of x6 is outstanding as item 4. -/
def wLoad : State := modCur wM fun t => { t with
  pendX := [6], pendF := [2], out := [⟨4, .load, [.core 1], [], .x 6, .scalar 1 true, 1, 0, BitVec.allOnes 512, false, none⟩,
    ⟨5, .load, [.core 1], [], .f 2, .float 4, 1, 0, BitVec.allOnes 512, false, none⟩], nextItem := 6 }

theorem witness_MemoryTraffic_replies : (outIs wLoad (whoAt 0 4)).map (fun o => (o.dst, o.form, o.left)) = some (.x 6, .scalar 1 true, 1) ∧
    (outIs wLoad (whoAt 0 5)).map (fun o => (o.dst, o.form, o.left)) = some (.f 2, .float 4, 1) ∧ (whoAt 0 4).core < 8192 ∧
    (whoAt 0 4).item < 2 ^ 32 := by decide +kernel

theorem test_remote_write : nextIs (exec (.remoteWrite (wr .store (.sp 0 0x101) [1, 2])) wM) (spHas 0x100 4 0x020188) = true ∧
    nextIs (exec (.remoteWrite (wr .store (.phys 0x1000 0) [1, 2])) wM) (fun t => mgets t.mem 0x1000 3 == [1, 2, 0]) = true := by
  decide +kernel
theorem test_stn_message : nextIs (exec (.stnMessage (wr (.stn true) (.sp 0 0x100) [0xF5])) wM) (spHas 0x100 2 0x9958) = true ∧
    nextIs (exec (.stnMessage (wr (.stn false) (.sp 0 0x100) [0xF5])) wM) (spHas 0x100 2 0x9985) = true := by decide +kernel
theorem test_remote_read : nextIs (exec (.remoteRead ⟨whoAt 3 9, .sp 0 0x100, none, 0x100, 2, 0⟩) wM) (fun t =>
    t.flights.map (fun f => f.act) == [.loadReply ⟨whoAt 3 9, 0, 0x9988#512, false⟩]) = true := by decide +kernel
theorem test_replies : nextIs (exec (.loadReply ⟨whoAt 0 4, 0, 0x80#512, false⟩) wLoad) (fun t => getX (curSlot t) 6 == 0xFFFFFFFFFFFFFF80 &&
      (curSlot t).pendX == []) = true ∧
    nextIs (exec (.loadReply ⟨whoAt 0 5, 0, 0x80#512, false⟩) wLoad) (fun t => getF (curSlot t) 2 == 0xFFFFFFFF00000080) = true ∧
    nextIs (exec (.loadReply ⟨whoAt 0 4, 0, 0x80#512, true⟩) wLoad) (fun t => (curSlot t).trapNext == some ⟨11, 0, 0, 0⟩) = true ∧
    nextIs (exec (.writeAck (whoAt 0 4)) wLoad) (fun t => (curSlot t).out.length == 1) = true := by decide +kernel

def wSnoop : State := modDie wM 0 fun d => { d with snoop := [(0, [64, 65])] }

theorem witness_HostLineReturns : wSnoop.mem.wf = true ∧ (List.replicate 64 7#8).length = 64 ∧ ([] : List Byte).length ≠ 64 ∧
    64 ∈ tget (getDie wSnoop 0).snoop 0 [] := by decide +kernel

theorem test_host_line_returns : nextIs (exec (.backInvalidateResponse 0 0 64 (List.replicate 64 7#8)) wSnoop) (fun t =>
    mget t.mem 4096 == 7 && tget (getDie t 0).snoop 0 [] == [65]) = true := by decide +kernel

/-! ## Fences and waits -/

/-- x1 = a scope of cores; x2 has a reserved bit; one store to core 1 and one to the host are outstanding. -/
def wFence : State := modCur (modCur wM fun t => { t with x := [(1, 0x177F0000), (2, 0x80), (3, 0x177F0000)] }) fun t => { t with
  out := [⟨4, .store, [.core 1], [], .none, .none, 0, 0, 0, false, none⟩, ⟨5, .store, [.host], [], .none, .none, 0, 0, 0, false, none⟩], nextItem := 6 }

theorem witness_FencesAndWaits : operandsFree wFence [1] .none = true ∧ sourceWords [1] wFence = some ([0x177F0000], wFence) ∧
    scopeBad (0x177F0000#64).toNat = false ∧ scopeBad (0x80#64).toNat = true := by decide +kernel

def wParked : State := modCur wM fun t => { t with park := .fence 0x177F0000 [], nextPc := 0x44 }

def wLogged : State := { wParked with mem := mwrite wParked.mem (region1.rcbPa + 8 * 21) 8 1 }

theorem witness_FencesAndWaits_completion : fenceDone wParked 0 0 = true ∧ getRegion wParked (getSlot wParked 0 0).region = some region1 ∧
    logCount wParked region1 = 0 ∧ fenceDone wLogged 0 0 = true ∧ logCount wLogged region1 ≠ 0 ∧ fenceDone wFence 0 0 = false ∧
    wellFormed (.waitr 0 4 0 0) = true ∧ isPending (curSlot wLoad) (.x 6) = true ∧ isPending (curSlot wLoad) (.x 4) = false := by
  decide +kernel

theorem test_fence : trapsWith (.fence 2) wFence ⟨1, 0, 0, 0⟩ = true ∧
    nextIs (exec (.fenceComplete 0 0) wParked) (fun t => (getSlot t 0 0).pc == 0x44 && (getSlot t 0 0).park == .none) = true ∧
    nextIs (exec (.fenceComplete 0 0) wLogged) (fun t => (trapOf (getSlot t 0 0)).map (fun x => x.cause) == some 16) = true := by
  decide +kernel
theorem test_waitr : nextIs (exec (.waitr 0 6 0 0) wLoad) (fun t => (curSlot t).park == .waitr [.x 6]) = true ∧
    goesTo (exec (.waitr 0 4 0 0) wLoad) wLoad = true := by decide +kernel

/-! ## Copies -/

/-- The descriptor at 0x200: 2 bytes from 0x100 to 0x300. x1 = 0x200, x2 misaligned, x3 beyond the scratchpad. -/
def wC : State := modCore (modCur wM fun t => { t with x := [(1, 0x200), (2, 0x210), (3, 0x7C000)] }) 0 fun k => { k with
  sp := mwrite (mwrite (mwrite k.sp 0x200 8 0x300) 0x208 8 0x100) 0x210 8 2 }

def copy1 (started : Bool) : Copy :=
  { id := 0, who := whoAt 0 4, region := 1, token := 6, two := false, dst := 0x300, src := 0x100, len := 2, rows := 1, dpitch := 0,
    spitch := 0, bad := false, waits := [], phys := false, pos := 0, started := started, line := none, result := 0x8000000000000002, failVa := 0 }

def wCopy (b : Bool) : State := { wC with copies := [(0, copy1 b)], nextCopy := 1 }

def wCopyOut : State := modCur (wCopy true) fun t => { t with
  pendX := [6], out := [⟨4, .copy, [], [], .x 6, .none, 1, 0, 0, false, none⟩], nextItem := 5 }

theorem witness_Copies : operandsFree wC [1] (.x 6) = true ∧ soundSources wC [1] = true ∧ (6 : XField) ≠ 0 ∧
    sourceWords [1] wC = some ([0x200], wC) ∧ oscOf (curSlot wC) < 1024 ∧ coreCopies wC 0 < 8 ∧ (0x210#64).toNat % 32 ≠ 0 ∧
    0x7C000 < (0x7C000#64).toNat + 32 ∧ spBad wC 0 0x200 32 = false ∧
    8 ≤ coreCopies { wC with copies := (List.range 8).map fun i => (i, copy1 true) } 0 := by decide +kernel

theorem witness_CopyRuns : tfind (wCopy false).copies 0 = some (copy1 false) ∧ copyReady (wCopy false) (copy1 false) = true ∧
    (copy1 false).src.toNat % 64 + 2 ≤ 64 ∧ (copy1 false).dst.toNat % 64 + 2 ≤ 64 ∧ spBad (wCopy false) 0 0x100 2 = false ∧
    windowRefusal (wCopy false) 0 0x300 2 true = none ∧ (getCore (wCopy false) 0).sp.wf = true ∧
    (outIs wCopyOut (whoAt 0 4)).map (fun o => o.kind) = some .copy ∧ tfind wCopyOut.copies 0 = some (copy1 true) := by decide +kernel

theorem test_cpy : nextIs (exec (.cpy 6 1) wC) (fun t => (curSlot t).pendX == [6] && (tfind t.copies 0).map (fun c => (c.dst, c.src, c.len)) ==
      some (0x300, 0x100, 2)) = true ∧ trapsWith (.cpy 6 2) wC ⟨3, 0, 0, 0x210⟩ = true ∧ trapsWith (.cpy 6 3) wC ⟨4, 0, 0, 0x7C000⟩ = true ∧
    trapsWith (.cpy2 6 3) wC ⟨4, 0, 0, 0x7C000⟩ = true := by decide +kernel
theorem test_copy_steps : nextIs (exec (.copyStart 0) (wCopy false)) (fun t => spHas 0x300 2 0x9988 t && t.flights.length == 1) = true ∧
    nextIs (exec (.copyComplete 0) wCopyOut) (fun t => getX (curSlot t) 6 == 0x8000000000000002 && (curSlot t).pendX == [] &&
      (curSlot t).out == []) = true := by decide +kernel

end Sys2Proof.Tests
end

