-- ==== Sys2Proof/Tests/Guards.lean ====
section
/-! SUPPORT. Guards: witnesses of the hypotheses of the statements about them, and single results by hand from the rules. -/

namespace Sys2Proof.Tests

set_option Elab.async false

open Machine

def gv : Word := BitVec.ofNat 64 guardVa
def gpa : Nat := phys guardVa

/-- A guard descriptor (05 R116) of two sub-blocks of 256 bytes at 0x200, one of a guard on chip 9 at 0x280, and a record at 0x240.
x1 the guard, x2 and x7 the descriptors, x3 and x4 misaligned, x5 beyond the scratchpad, x6 the record, x8 a bad descriptor. -/
def wG : State :=
  let s := inRegion [(1, gv), (2, 0x200), (3, gv + 1), (4, 0x210), (5, 0x7C000), (6, 0x240), (7, 0x280), (8, 0x2C0), (9, 0x40)]
  modCore s 0 fun k => { k with
    sp := mwrite (mwrite (mwrite (mwrite (mwrite (mwrite (mwrite [] 0x200 8 guardedVa) 0x208 8 0xFF00000002)
      0x240 8 0x400) 0x248 4 0x200) 0x280 8 guardedVa) 0x288 8 0x900000002) 0x2C0 8 (2 ^ 60) }

/-- No guard of the region may be bound any more: GUARDQ of its control block is 0. -/
def wGfull : State := { wG with regions := [(1, { region1 with guardq := 0 })] }

def wGheld (h : Hold) : State := modCore wG 0 fun k => { k with holds := [h] }

def hold2 (st : HoldState) (x inp : Bool) : Hold := { hold1 3 st x inp with nsb := 2, window := 0x400, wlen := 0x200 }

/-! ## What the words ask -/

theorem witness_GuardRequests : operandsFree wG [1] (.x 10) = true ∧ sourceWords [1] wG = some ([gv], wG) ∧ gv.toNat % 64 = 0 ∧
    (gv + 1).toNat % 64 ≠ 0 ∧ sourceWords [3] wG = some ([gv + 1], wG) ∧ (guardPlace wG 0 1 gv true).2 = some gpa ∧
    (guardPlace wG 0 1 gv false).2 = some gpa ∧ guardRanges wG 0 1 gv ≠ [] ∧
    (guardPlace wG 0 1 (2 ^ 56) true).2 = none ∧ guardRanges wG 0 1 0x40 = [] := by decide +kernel

theorem witness_GuardRequests_flush : (getCore wG 0).holds.filter (fun h => h.state == .pinned && sameGuard wG 1 gv h) = [] ∧
    (getCore (wGheld (hold2 .pinned true false)) 0).holds.filter (fun h => h.state == .pinned && sameGuard wG 1 gv h) ≠ [] := by
  decide +kernel

theorem witness_GuardRequests_bind : operandsFree wG [1, 2] (.x 10) = true ∧ (10 : XField) ≠ 0 ∧
    sourceWords [1, 2] wG = some ([gv, 0x200], wG) ∧ (0x200#64).toNat % 32 = 0 ∧ (0x200#64).toNat + 32 ≤ 0x7C000 ∧
    sourceWords [1, 4] wG = some ([gv, 0x210], wG) ∧ (0x210#64).toNat % 32 ≠ 0 ∧
    sourceWords [1, 5] wG = some ([gv, 0x7C000], wG) ∧ 0x7C000 < (0x7C000#64).toNat + 32 ∧
    leNat (spRead wG 0 0x200 8) = guardedVa ∧ leNat (spRead wG 0 0x208 8) = 0xFF00000002 ∧
    leNat (spRead wG 0 0x288 8) = 0x900000002 ∧ (2 ^ 56 : Nat) ≤ leNat (spRead wG 0 0x2C0 8) ∧ guardedVa % 256 = 0 ∧
    (reserveGuard (guardPlace wG 0 1 gv true).1 1).isSome = true ∧ (reserveGuard (guardPlace wGfull 0 1 gv true).1 1).isNone = true ∧
    (guardPlace wGfull 0 1 gv true).2 = some gpa ∧ wG.chipId = 0 ∧ bindStructBad wG 0 1 0 8 = false := by decide +kernel

def sentOps (t : State) : List Event := t.flights.map fun f => f.act

def statusOf (o : Res) (st : Nat) : Bool :=
  nextIs o fun t => (sentOps t).any fun e =>
    match e with
    | .guardAnswer _ _ w => w == guardWord st 0 0
    | _ => false

theorem test_bind : nextIs (exec (.bind 10 1 2) wG) (fun t => (curSlot t).park == .answer 10 0 &&
      sentOps t == [.capoOperation (whoAt 0 0) ⟨gpa, gv, 1, 0, 0, 0, 0, 0, 0, 0⟩ (.bind guardedVa 0 0 2 0)]) = true ∧
    nextIs (exec (.bind 10 1 7) wG) (fun t => (sentOps t == [.capoOperation (whoAt 0 0) ⟨gpa, gv, 1, 0, 9, 0, 0, 0, 0, 0⟩
      (.bind guardedVa 0 0 2 0)])) = true ∧ statusOf (exec (.bind 10 1 8) wG) 11 = true ∧ statusOf (exec (.bind 10 1 2) wGfull) 8 = true := by
  decide +kernel
theorem test_bind_traps : trapsWith (.bind 10 3 2) wG ⟨3, 0, 0, gv + 1⟩ = true ∧ trapsWith (.bind 10 1 4) wG ⟨3, 0, 0, 0x210⟩ = true ∧
    trapsWith (.bind 10 1 5) wG ⟨4, 0, 0, 0x7C000⟩ = true ∧ trapsWith (.unbind 0 1) wG ⟨1, 0, 0, 0⟩ = true := by decide +kernel
theorem test_unbind_gstat : nextIs (exec (.unbind 10 1) wG) (fun t => sentOps t ==
      [.capoOperation (whoAt 0 0) ⟨gpa, gv, 1, 0, 0, 0, 0, 0, 0, 0⟩ .unbind]) = true ∧
    nextIs (exec (.gstat 10 1) wG) (fun t => sentOps t == [.capoOperation (whoAt 0 0) ⟨gpa, gv, 1, 0, 0, 0, 0, 0, 0, 0⟩ .gstat]) = true ∧
    statusOf (exec (.unbind 10 9) wG) 3 = true := by decide +kernel
theorem test_gflush : statusOf (exec (.gflush 10 1) wG) 7 = true ∧
    nextIs (exec (.gflush 10 1) (wGheld (hold2 .pinned true false))) (fun t => (curSlot t).park == .flush 10 1 0 0 &&
      (getCore t 0).holds == []) = true := by decide +kernel

/-! ## Acquires and releases -/

/-- The mapping of the guard is read-only, and every hold of the core taken. -/
def wGro : State := { wG with clusters := [(0, { Cluster.reset 0 with
  sets := [(0, { tables1 with ranges := [⟨guardedVa, 0x200000, 1, false, true, gv⟩] })] })] }

def wGsixteen : State := modCore wG 0 fun k => { k with holds := (List.range 16).map fun i =>
  { hold2 .held false true with guardVa := BitVec.ofNat 64 i, guardPa := 64 * i, hix := i } }

def wGeight : State := modCore wG 0 fun k => { k with holds := (List.range 8).map fun i =>
  { hold2 .held false false with guardVa := BitVec.ofNat 64 i, guardPa := 64 * i, hix := i } }

theorem witness_AcquiresAndReleases : acqForms[0]?.isSome = true ∧ acqForms[3]?.isSome = true ∧
    operandsFree wG [1, 6] (.x 10) = true ∧ sourceWords [1, 6] wG = some ([gv, 0x240], wG) ∧ isCompute 0 = true ∧ isCompute 3072 = false ∧
    (0x240#64).toNat % 32 = 0 ∧ (0x240#64).toNat + 32 ≤ 0x7C000 ∧
    (getCore wG 0).holds = [] ∧ (guardPlace wG 0 1 gv false).2 = some gpa ∧
    (guardRanges wG 0 1 gv).any (fun e => e.r && e.w) = true ∧ leNat (spRead wG 0 0x240 8) < 2 ^ 19 ∧
    windowBad wG 0 0x400 0x200 = false ∧ windowBad wG 0 0x401 0x200 = true ∧
    (guardRanges wGro 0 1 gv).any (fun e => e.w) = false ∧ 16 ≤ (getCore wGsixteen 0).holds.length ∧
    tracksGuard wGsixteen 0 1 gv = false ∧ tracksGuard wGeight 0 1 gv = false ∧
    8 ≤ ((getCore wGeight 0).holds.filter fun h => !h.inPlace).length ∧
    findHold (wGheld (hold2 .held true false)) 0 1 gv = some (hold2 .held true false) := by decide +kernel

/-- A store into the window is outstanding. -/
def wGdrain : State := modCur (wGheld (hold2 .held true false)) fun t => { t with
  out := [⟨4, .store, [.core 0], [(0x410, 8)], .none, .none, 0, 0, 0, false, none⟩], nextItem := 5 }

theorem witness_AcquiresAndReleases_release : findHold wG 0 1 gv = none ∧
    findHold (wGheld (hold2 .pending true false)) 0 1 gv = some (hold2 .pending true false) ∧
    findHold (wGheld (hold2 .pinned true false)) 0 1 gv = some (hold2 .pinned true false) ∧
    drainItems wGdrain 0 (curSlot wGdrain) (hold2 .held true false) gv = [4] ∧
    drainItems (wGheld (hold2 .held true false)) 0 (curSlot wG) (hold2 .held true false) gv = [] ∧
    operandsFree wG [1] (.x 10) = true := by decide +kernel

theorem test_acquire : nextIs (exec (.acqX 10 1 6) wG) (fun t => (curSlot t).pendX == [10] && (getCore t 0).holds.map (fun h => (h.guardVa,
      h.excl, h.inPlace, h.window)) == [(gv, true, false, 0x400)] && spHas 0x250 8 guardVa t && spHas 0x258 8 2 t &&
      sentOps t == [.acqreq ⟨whoAt 0 0, 1, gpa, gv, true, false, 0, 0x400, 0x200, 0, 0⟩]) = true ∧
    statusOf (exec (.acqX 10 1 6) wGro) 3 = true ∧ statusOf (exec (.acqS 10 1 6) wGeight) 8 = true ∧
    statusOf (exec (.acqSi 10 1 6) wGsixteen) 8 = true := by decide +kernel
theorem test_acquire_in_place : statusOf (exec (.acqXi 10 1 6) wG) 3 = true ∧
    nextIs (exec (.acqXi 10 1 9) wG) (fun t => (getCore t 0).holds.map (fun h => (h.inPlace, h.hix)) == [(true, 0)]) = true ∧
    nextIs (exec (.acqS 10 1 6) wG) (fun t => (getCore t 0).holds.map (fun h => (h.inPlace, h.excl)) == [(false, false)]) = true ∧
    statusOf (exec (.acqX 10 1 6) (wGheld (hold2 .held true false))) 9 = true := by decide +kernel
theorem test_release : statusOf (exec (.rel 10 1) wG) 7 = true ∧ statusOf (exec (.relW 10 1) (wGheld (hold2 .pending true false))) 9 = true ∧
    nextIs (exec (.rel 10 1) wGdrain) (fun t => (curSlot t).park == .releaseDrain 10 5 [4] gv false) = true ∧
    nextIs (exec (.rel 10 1) (wGheld { hold2 .held true false with dirty := [1] })) (fun t => (getCore t 0).holds.map (fun h => h.state) == [.pinned]) = true := by
  decide +kernel

/-! ## Between the Capo and the cores -/

/-- The guard object of two sub-blocks of 256 bytes, with MODE m, N holders and V = 3; x a proxy of chip 9. -/
def object (m n : Nat) (proxy : Bool) (s : State) : State :=
  { s with
    mem := mwrite (mwrite (mwrite s.mem gpa 8 (m * 2 ^ 62 + 2 ^ 60 + (if proxy then 2 ^ 57 else 0) + n * 2 ^ 32 + 3)) (gpa + 8) 8
      ((if proxy then 9 else 255) * 2 ^ 56 + guardedVa)) (gpa + 16) 8 2
    capos := [(gpa, { CapoGuard.empty with region := 1 })] }

def gref : GRef := ⟨gpa, 0⟩

def gPkt (n : Nat) : GuardPkt := ⟨gpa, gv, 1, 0, 0, 1, 3, n, 0x400, 0⟩

def gAcq (x inp : Bool) : AcqPkt := ⟨whoAt 0 7, 1, gpa, gv, x, inp, 1, 0x400, 0x200, 0, 0⟩

def memberOf (pulled : Bool) (due : Option (List Nat)) : Member := ⟨gAcq true false, pulled, due, 0, 0, false⟩

/-- The group of one grantee, which a hold of core 0 awaits. -/
def granted (dirty pulled : Bool) (due : Option (List Nat)) : State :=
  { object 3 0 false (wGheld { hold2 .pending true false with tokenReg := 10, v := 0 }) with
    capos := [(gpa, { CapoGuard.empty with region := 1, group := [memberOf pulled due], wasDirty := dirty, lxCore := 5 })] }

theorem witness_GuardMessages_answers : (getSlot (modCur wG fun t => { t with park := .answer 10 7 }) 0 0).park = .answer 10 (whoAt 0 7).item ∧
    holdsTask (getSlot wG 0 0) (whoAt 0 7).gtid = true ∧ (gPkt 0).n = 0 ∧ (gPkt 1012).n = 1000 + 12 ∧ (gPkt 1).n = 1 := by decide +kernel

theorem witness_GuardMessages_capo : (gAcq true false).chip = (object 0 0 false wG).chipId ∧ answering wG 0 = true ∧
    gRefOf (object 0 0 false wG) 1 gpa gv = gref ∧ gBound wG gref = false ∧ gBound (object 0 0 false wG) gref = true ∧
    gProxy (object 0 0 false wG) gref = false ∧ gNsb (object 0 0 false wG) gref * gSize (object 0 0 false wG) gref = 0x200 ∧
    gMode (object 0 0 false wG) gref = 0 ∧ gMode (object 1 2 false wG) gref = 1 ∧ gMode (object 2 0 false wG) gref = 2 ∧
    (object 0 0 false wG).mem.wf = true ∧ gPoison (object 0 0 false wG) gref = false ∧
    (getCapo (object 0 0 false wG) gpa).queue = [] ∧ gField (object 1 2 false wG) gref 0 47 32 = 2 ∧
    gReserved wG gref = false := by decide +kernel

theorem witness_GuardMessages_grant : ((getCore (granted false false none) 0).holds.find? (fun h => h.guardVa == gv && h.hix == 1 && h.state == .pending)).isSome = true ∧
    (findMember (getCapo (granted false false none) gpa) 0 0).isSome = true ∧
    (findMember (getCapo (granted true true (some [])) gpa) 0 0).map (fun m => m.due) = some (some []) ∧
    (getCapo (granted true false none) gpa).lxChip = 0 ∧ (getCapo (granted true false none) gpa).poisoned = false ∧
    holdsTask (getSlot wG 0 0) (hold2 .pending true false).token.gtid = true ∧
    gProxy (object 3 0 true (wGheld (hold2 .pending true false))) gref = true := by decide +kernel

theorem test_guard_answer : nextIs (exec (.guardAnswer (whoAt 0 7) (gPkt 0) 99) (modCur wG fun t => { t with park := .answer 10 7 })) (fun t =>
      getX (curSlot t) 10 == 99 && (curSlot t).park == .none) = true ∧
    nextIs (exec (.guardAnswer (whoAt 0 7) (gPkt 1012) 99) (modCur wG fun t => setPending t (.x 12))) (fun t => getX (curSlot t) 12 == 99 &&
      (curSlot t).pendX == []) = true := by decide +kernel
theorem test_acqreq : nextIs (exec (.acqreq (gAcq true false)) (object 0 0 false wG)) (fun t => gMode t gref == 3 && gV t gref == 4 &&
      sentOps t == [.grant ⟨gpa, gv, 1, 0, 0, 1, 4, 0, 0x400, 0⟩ 0 false (gAcq true false)]) = true ∧
    nextIs (exec (.acqreq (gAcq true false)) (object 2 0 false wG)) (fun t => (getCapo t gpa).queue == [gAcq true false] &&
      gWord t gref 4 == 0xC0000020) = true ∧
    nextIs (exec (.acqreq (gAcq false false)) wG) (fun t => sentOps t == [.grant ⟨gpa, gv, 1, 0, 0, 1, 0, 0, 0x400, 0⟩ 2 false (gAcq false false)]) = true := by
  decide +kernel
theorem test_grant_pull : nextIs (exec (.grant (gPkt 0) 0 false (gAcq true false)) (granted false false none)) (fun t =>
      sentOps t == [.pull ⟨gpa, gv, 1, 0, 0, 1, 3, 0, 0x400, 0⟩ false]) = true ∧
    nextIs (exec (.pull (gPkt 0) true) (granted false false none)) (fun t => (sentOps t).length == 1) = true ∧
    nextIs (exec (.pull (gPkt 0) true) (granted true false none)) (fun t => (sentOps t).any fun e => match e with
      | .forward f 0 true => f.core == 5
      | _ => false) = true := by decide +kernel
theorem test_forward : nextIs (exec (.forward (gPkt 0) 7 true) (object 3 0 false (wGheld (hold2 .pinned true false)))) (fun t =>
      (getCore t 0).holds.map (fun h => h.home) == [true]) = true ∧
    nextIs (exec (.fwddone (gPkt 0) 0 0) (granted true true (some []))) (fun t => (sentOps t).any fun e => match e with
      | .done _ 0 => true
      | _ => false) = true := by decide +kernel
theorem test_done_unpin : nextIs (exec (.done (gPkt 0) 0) (object 3 0 true (wGheld { hold2 .pending true false with v := 3 }))) (fun t =>
      (getCore t 0).holds.map (fun h => h.state) == [.held] && getX (curSlot t) 12 == 0x8000000000000003) = true ∧
    nextIs (exec (.unpin (gPkt 0)) (wGheld (hold2 .pinned true false))) (fun t => (getCore t 0).holds == []) = true := by decide +kernel
theorem test_guard_release : nextIs (exec (.guardRelease (whoAt 0 7) (gPkt 0) .shared) (object 1 2 false wG)) (fun t =>
      gField t gref 0 47 32 == 1 && gMode t gref == 1) = true ∧
    nextIs (exec (.guardRelease (whoAt 0 7) (gPkt 0) .none) (object 2 0 false wG)) (fun t => gMode t gref == 0) = true := by decide +kernel
theorem test_capo : nextIs (exec (.capoOperation (whoAt 0 7) (gPkt 0) (.bind guardedVa 0 0 2 0)) wG) (fun t => gBound t gref && gV t gref == 1 &&
      gNsb t gref == 2) = true ∧
    nextIs (exec (.capoOperation (whoAt 0 7) (gPkt 0) .unbind) wG) (fun t => sentOps t == [.guardAnswer (whoAt 0 7) (gPkt 0) 0x8002000000000000]) = true ∧
    nextIs (exec (.capoOperation (whoAt 0 7) { gPkt 0 with chip := 9 } (.bind guardedVa 0 0 2 0)) wG) (fun t => gProxy t gref &&
      gField t gref 1 63 56 == 9) = true := by decide +kernel
theorem test_guard_bounds : nextIs (exec (.guardHomeTimeout (whoAt 0 7) (gPkt 0)) (wGheld { hold2 .pending true false with v := 0 })) (fun t =>
      (getCore t 0).holds == [] && getX (curSlot t) 12 == 0x8004000000000000) = true ∧
    nextIs (exec (.forwardTimeout (gPkt 0)) (granted true true (some [1]))) (fun t => (sentOps t).any fun e => match e with
      | .done _ 4 => true
      | _ => false) = true := by decide +kernel

end Sys2Proof.Tests
end

