-- ==== Sys2Proof/Tests/Units.lean ====
section
/-! SUPPORT. Rows and banks, barriers and the loop unit: witnesses of the hypotheses of the statements about them, and single
results by hand from the rules. -/

namespace Sys2Proof.Tests

set_option Elab.async false

open Machine

/-! ## Rows and banks -/

/-- Handle 5 names a row of read-only memory in bank 0 of cluster 0; handle 6 a row of die 1; handle 7 names none. x1 = 5,
x2 = 6, x3 = 7, x4 = row slot 2, x5 = 64, x6 = row slot 4. -/
def wR (b : Bank) : State :=
  let s := inRegion [(1, 5), (2, 6), (3, 7), (4, 2), (5, 64), (6, 4)]
  { s with
    clusters := [(0, { Cluster.reset 0 with
      sets := [(0, { tables1 with ranges := [⟨devVa, 0x10000, 2, false, true, 0⟩], harp := [(5, ⟨devVa, phys devVa⟩), (6, ⟨devVa, 2 ^ 37⟩)] })]
      banks := [(0, b)] })]
    mem := mwrite s.mem (phys devVa) 2 0xABCD }

def opened : Bank := { Bank.reset with st := .open_, handle := 5, ready := 90, readEnd := 100, rowPa := phys devVa, row := some 0xABCD }

theorem witness_RowsAndBanks_words : operandsFree (wR Bank.reset) [1] .none = true ∧
    sourceWords [1] (wR Bank.reset) = some ([5], wR Bank.reset) ∧ handleOf (wR Bank.reset) 7 = none ∧
    handleOf (wR Bank.reset) 5 = some ⟨devVa, phys devVa⟩ ∧ paCluster (phys devVa) = clusterOf 0 ∧ paCluster (2 ^ 37) ≠ clusterOf 0 ∧
    handleOf (wR Bank.reset) 6 = some ⟨devVa, 2 ^ 37⟩ ∧ rangeCheck (wR Bank.reset) 0 1 .rowact devVa 8192 = none ∧
    (match rowTranslate 5 ⟨devVa, phys devVa⟩ (wR Bank.reset) with | .ok _ => true | .error _ => false) = true ∧
    bankBusy Bank.reset = false ∧ bankBusy opened = true ∧ opened.readEnd ≤ (wR opened).cycle ∧
    (wR opened).cycle < { opened with readEnd := 104 }.readEnd := by decide +kernel

theorem witness_RowsAndBanks_use : operandsFree (wR opened) [1, 4] .none = true ∧
    sourceWords [1, 4] (wR opened) = some ([5, 2], wR opened) ∧ (2 : Nat) / 4 = bankChannel 0 ∧ (4 : Nat) / 4 ≠ bankChannel 0 ∧
    tget (getCluster (wR opened) 0).chanUsed 0 0 ≤ (wR opened).cycle ∧ slotRead (wR opened) 0 2 = false ∧
    (63 : Nat) < 64 ∧ { opened with lost := some (5, 0, 9) }.lost = some (5, 0, 9) ∧ operandsFree (wR opened) [1] (.x 9) = true := by
  decide +kernel

/-- The hazard word of R138 for a handle. -/
def hz (detail reason sub slot h : Nat) : Trap := ⟨7, detail, 0, BitVec.ofNat 64 (reason * 2 ^ 28 + sub * 2 ^ 24 + slot * 2 ^ 18 + h)⟩

theorem test_rowact : nextIs (exec (.rowact 1) (wR Bank.reset)) (fun t => (getBank t 0 0).st == .opening && (getBank t 0 0).ready == 136 &&
      sentOps t == [.bankReady 0 0]) = true ∧ trapsWith (.rowact 3) (wR Bank.reset) (hz 3 0 0 0 7) = true ∧
    trapsWith (.rowact 2) (wR Bank.reset) (hz 3 1 0 0 6) = true ∧ trapsWith (.rowact 1) (wR opened) (hz 2 0 0 0 5) = true := by decide +kernel
theorem test_rowuse : nextIs (exec (.rowuse 1 4) (wR opened)) (fun t => (getRowSlot t 0 2).coming.map (fun e => e.2.1) == [0xABCD#65536] &&
      t.flights.map (fun f => f.due) == [120]) = true ∧ trapsWith (.rowuse 1 6) (wR opened) (hz 3 5 0 4 5) = true ∧
    trapsWith (.rowuse 1 5) (wR opened) (hz 3 5 0 0 5) = true ∧ trapsWith (.rowuse 1 4) (wR Bank.reset) (hz 0 0 0 2 5) = true := by
  decide +kernel
theorem test_rowclose : nextIs (exec (.rowclose 1) (wR opened)) (fun t => (getBank t 0 0).st == .precharge && (getBank t 0 0).until_ == 108) = true ∧
    nextIs (exec (.rowclose 1) (wR { opened with readEnd := 104 })) (fun t => t.flights.map (fun f => f.due) == [104]) = true ∧
    trapsWith (.rowclose 1) (wR { opened with core := 3 }) (hz 2 0 0 0 5) = true := by decide +kernel
theorem test_rowstat : nextIs (exec (.rowstat 9 1) (wR opened)) (fun t => (sentOps t).any fun e => match e with
      | .rowstatStatus _ w => w == 0x700000000000005A
      | _ => false) = true ∧ goesTo (exec (.rowstat 0 1) (wR opened)) (wR opened) = true := by decide +kernel

def opening : Bank := { opened with
  st := .opening, ready := 100, row := none, region := 1, va := devVa
  locs := [.phys (phys devVa) 0, .phys (phys devVa + 4096) 0] }
def ending (due : Bool) : Bank := { Bank.reset with st := .precharge, until_ := 100, refreshDue := due }
def refreshing : Bank := { Bank.reset with st := .refresh, until_ := 100 }
def expiring : Bank := { opened with ready := 100 - 7000 }

/-- The cycle of the bank events is 10000 where a row of 7000 cycles expires. -/
def wLate (b : Bank) : State := { wR b with cycle := 10000 }

def oldRow : Bank := { opened with ready := 3000 }

theorem witness_RowsAndBanks_events : (getBank (wR opening) 0 0).ready = (wR opening).cycle ∧ (ending true).until_ = (wR (ending true)).cycle ∧
    refreshing.until_ = (wR refreshing).cycle ∧ (getBank (wLate oldRow) 0 0).ready + 7000 = (wLate oldRow).cycle ∧
    { opened with closeAsked := some true }.closeAsked = some true ∧ opened.readEnd ≤ (wR opened).cycle ∧
    (getCluster (wR Bank.reset) 0).mmaRun = none ∧ holdsTask (getSlot (wR Bank.reset) 0 0) (whoAt 0 9).gtid = true := by decide +kernel

theorem test_bank_ready : nextIs (exec (.bankReady 0 0) (wR opening)) (fun t => (getBank t 0 0).st == .open_ &&
      (getBank t 0 0).row == some 0xABCD#65536 && t.flights.map (fun f => f.due) == [7100]) = true := by decide +kernel
theorem test_bank_events : nextIs (exec (.prechargeEnd 0 0) (wR (ending false))) (fun t => (getBank t 0 0).st == .idle) = true ∧
    nextIs (exec (.prechargeEnd 0 0) (wR (ending true))) (fun t => (getBank t 0 0).until_ == 800) = true ∧
    nextIs (exec (.refreshWindow 0 0) (wR opened)) (fun t => (getBank t 0 0).refreshDue) = true ∧
    nextIs (exec (.refreshEnd 0 0) (wR refreshing)) (fun t => (getBank t 0 0).st == .idle) = true := by decide +kernel
theorem test_bank_closes : nextIs (exec (.autoClose 0 0) (wLate oldRow)) (fun t => (getBank t 0 0).lost == some (5, 0, 10000)) = true ∧
    nextIs (exec (.deferredClose 0 0) (wR { opened with closeAsked := some false })) (fun t => (getBank t 0 0).lost == none &&
      (getBank t 0 0).st == .precharge) = true := by decide +kernel

def wPouring : State := setRowSlot (wR Bank.reset) 0 2 ⟨false, 0, [], [(3, (0xABCD, []))]⟩

theorem test_row_transfer : ((fun t => (getRowSlot t 0 2).valid && (getRowSlot t 0 2).row == 0xABCD#65536) (rowArrives false 0 2 (3 * 64) wPouring)) = true ∧
    nextIs (exec (.rowstatStatus (whoAt 0 9) 77) (modCur (wR Bank.reset) fun t => setPending t (.x 9))) (fun t => getX (curSlot t) 9 == 77 &&
      (curSlot t).pendX == []) = true := by decide +kernel

/-! ## Barriers -/

/-- A barrier object at 0x300 of core 0: expects 3, has ARR arrivals, PHASE 1, name 5. x1 = 0x300, x2 = 0x308, x3 = 0x7C000,
x4 the last object below the mailbox, x5 device memory, x6 = 1, x7 = a wait of phase 1 bounded by 9 cycles, x8 = core 1's 0x300. -/
def wB (arr : Nat) : State :=
  let s := inRegion [(1, 0x300), (2, 0x308), (3, 0x7C000), (4, 0x7BFF0), (5, BitVec.ofNat 64 devVa), (6, 1), (7, 0x900000001), (8, 0x1080300)]
  modCore s 0 fun k => { k with sp := mwrite [] 0x300 8 (3 + arr * 2 ^ 16 + 2 ^ 32 + 5 * 2 ^ 40), names := [(5, ⟨0x300, []⟩)] }

def barPlaceIs (o : Except Trap (Nat × Nat)) : Option (Nat × Nat) :=
  match o with
  | .ok p => some p
  | .error _ => none

/-- A store to the issuer's cluster is outstanding. -/
def wBwrites : State := modCur (wB 0) fun t => { t with
  out := [⟨4, .store, [.core 1], [], .none, .none, 0, 0, 0, false, none⟩], nextItem := 5 }

theorem witness_BarrierWords : operandsFree (wB 0) [1, 6] (.x 10) = true ∧ soundSources (wB 0) [1] = true ∧
    sourceWords [1, 6] (wB 0) = some ([0x300, 1], wB 0) ∧ barPlaceIs (barPlace 0 0x300) = some (0, 0x300) ∧
    barPlaceIs (barPlace 0 0x7BFF0) = some (0, 0x7BFF0) ∧ barPlaceIs (barPlace 0 0x7C000) = none ∧ barPlaceIs (barPlace 0 0x308) = none ∧
    barPlaceIs (barPlace 0 0x1080300) = some (1, 0x300) ∧ (getCore (wB 0) 0).heldRel = [] ∧ arrivalWaits (wB 0) = [] ∧
    arrivalWaits wBwrites = [4] ∧ (curSlot (wB 0)).barPhase = none ∧
    (curSlot (modCur (wB 0) fun t => { t with barPhase := some 1 })).barPhase = some 1 ∧ boundEnds (wB 0) 9 = some 109 := by decide +kernel

def asks (s t : State) (op : BarOp) : Bool := sentOps t == sentOps s ++ [.barrierOperation ⟨whoAt 0 0, 0, 0x300, op⟩]

theorem test_barrier_words : nextIs (exec (.barinit 10 1 6) (wB 0)) (fun t => asks (wB 0) t (.init 1) && (curSlot t).park == .answer 10 0) = true ∧
    nextIs (exec (.bararr 10 1 6) (wB 0)) (fun t => asks (wB 0) t (.arrive 1)) = true ∧
    nextIs (exec (.bararr 10 1 6) wBwrites) (fun t => t.flights == [] && (getCore t 0).heldRel.length == 1) = true ∧
    trapsWith (.barwait 10 2 6) (wB 0) ⟨3, 0, 0, 0x308⟩ = true := by decide +kernel
theorem test_barrier_waits : nextIs (exec (.barwait 10 1 7) (wB 0)) (fun t => (curSlot t).park == .barrier 10 0 0 0x300 (some 1) none (some 109) false &&
      (t.flights.map fun f => f.due) == [110, 100]) = true ∧
    nextIs (exec (.bararw 10 1 7) (wB 0)) (fun t => (curSlot t).park == .barrier 10 0 0 0x300 none none (some 109) true) = true ∧
    trapsWith (.bararw 10 3 6) (wB 0) ⟨4, 0, 0, 0x7C000⟩ = true := by decide +kernel

/-- An empty object at 0x300, and one that a waiter of phase 1 waits for. -/
def wBnew : State := modCore (wB 0) 0 fun k => { k with sp := [], names := [] }

def wBwaited (arr : Nat) : State := modCore (wB arr) 0 fun k => { k with names := [(5, ⟨0x300, [⟨whoAt 1 4, 1⟩]⟩)] }

theorem witness_BarrierMessages : answering (wB 0) 0 = true ∧ answering (modDie (wB 0) 0 fun d => { d with fused := [2] }) 2 = false ∧ undoHolds (wB 0) 0 0x300 16 = false ∧
    (getCore (wB 0) 0).sp.wf = true ∧ (0x50003#64).toNat < 2 ^ 24 ∧ (barObj wBnew 0 0x300).hi = 0 ∧ bExp (barObj wBnew 0 0x300) = 0 ∧
    bExp (barObj (wB 1) 0 0x300) = 3 ∧ bArr (barObj (wB 1) 0 0x300) + 2 = 3 ∧ bArr (barObj (wB 1) 0 0x300) + 3 > 3 ∧
    barPassed 1 0 = true ∧ barPassed 1 1 = false ∧ barPassed 1 9 = true ∧ barPassed 1 8 = false ∧
    barName (wBwaited 2) 0 5 = some ⟨0x300, [⟨whoAt 1 4, 1⟩]⟩ ∧ staggerOf (wB 0) 0 1 = 0 ∧ isCompute 3071 = true := by decide +kernel

def wParkedBar (seen : Option (Nat × Nat)) (st : Nat) : State :=
  let s := modCur (wB 0) fun t => { t with park := .barrier 10 7 0 0x300 (some 1) seen (some 109) false, nextPc := 0x44 }
  { s with regions := [(1, { region1 with stagger := st })] }

/-- The same in slot 0 of core 1, whose stagger step is 6 cycles. -/
def wStagger : State :=
  let s := withRegion (atCore 1 fun t => { t with park := .barrier 10 7 0 0x300 (some 1) none none false, nextPc := 0x44 })
  { s with regions := [(1, { region1 with stagger := 6 })] }

theorem witness_BarrierMessages_waiting : holdsTask (getSlot (wParkedBar none 0) 0 0) (whoAt 0 7).gtid = true ∧
    (getSlot (wParkedBar none 0) 0 0).park = .barrier 10 7 0 0x300 (some 1) none (some 109) false ∧
    staggerOf (wParkedBar none 0) 0 1 = 0 ∧ staggerOf wStagger 1 1 = 6 ∧ (parkedWord 1 2).toNat ≥ 2 ^ 32 ∧
    (getSlot (wParkedBar (some (2, 1)) 0) 0 0).park = .barrier 10 7 0 0x300 (some 1) (some (2, 1)) (some 109) false := by decide +kernel

def bp (o : BarOp) : BarPkt := ⟨whoAt 1 4, 0, 0x300, o⟩

def answered (t : State) (w : Word) : Bool := (sentOps t).any fun e => e == .barrierAnswer (whoAt 1 4) w

theorem test_barrier_init : nextIs (exec (.barrierOperation (bp (.init 0x50003))) wBnew) (fun t => spHas 0x300 8 0x50000000003 t && answered t 0) = true ∧
    nextIs (exec (.barrierOperation (bp (.init 0x1000000))) wBnew) (fun t => answered t 6) = true ∧
    nextIs (exec (.barrierOperation (bp (.arrive 1))) wBnew) (fun t => answered t 3) = true := by decide +kernel
theorem test_barrier_arrive : nextIs (exec (.barrierOperation (bp (.arrive 1))) (wB 0)) (fun t => spHas 0x300 8 0x50100010003 t && answered t 0x10100) = true ∧
    nextIs (exec (.barrierOperation (bp (.arrive 3))) (wB 0)) (fun t => spHas 0x300 8 0x50200000003 t && answered t 0x1100) = true ∧
    nextIs (exec (.barrierOperation (bp (.arrive 3))) (wB 1)) (fun t => spHas 0x300 8 0x51100010003 t && answered t 0x10101) = true ∧
    nextIs (exec (.barrierOperation (bp (.arrive 0))) (wB 1)) (fun t => answered t 4) = true := by decide +kernel
theorem test_barrier_wait : nextIs (exec (.barrierOperation (bp (.wait 0))) (wB 1)) (fun t => answered t 0x10100) = true ∧
    nextIs (exec (.barrierOperation (bp (.wait 1))) (wB 1)) (fun t => answered t 0x10102) = true ∧
    nextIs (exec (.barrierOperation (bp (.wait 0x900000001))) (wB 1)) (fun t => spHas 0x300 8 0x52100010003 t && answered t (parkedWord 1 1)) = true ∧
    nextIs (exec (.barrierOperation (bp (.arriveWait 0x900000001))) (wB 2)) (fun t => sentOps t == [.barrierRelease (whoAt 1 4) 0x1200]) = true := by decide +kernel
theorem test_barrier_release : nextIs (exec (.barrierOperation (bp (.arrive 1))) (wBwaited 2)) (fun t => (sentOps t).any fun e => e == .barrierRelease (whoAt 1 4) 0x200) = true ∧
    nextIs (exec (.barrierRelease (whoAt 0 7) 0x200) (wParkedBar none 0)) (fun t => getX (curSlot t) 10 == 0x200 && (curSlot t).pc == 0x44) = true ∧
    nextIs (exec (.barrierRelease (whoAt 1 7) 0x200) wStagger) (fun t => (t.flights.map fun f => f.due) == [106]) = true ∧
    nextIs (exec (.barrierCancel (whoAt 1 4) 0 0x300) (wBwaited 2)) (fun t => barName t 0 5 == some ⟨0x300, []⟩) = true := by decide +kernel
theorem test_barrier_bound : nextIs (exec (.barrierBoundExpiry (whoAt 0 7)) (wParkedBar (some (2, 1)) 0)) (fun t => getX (curSlot t) 10 == 0x20102) = true ∧
    nextIs (exec (.barrierAnswer (whoAt 0 7) (parkedWord 1 2)) (wParkedBar none 0)) (fun t => (curSlot t).park ==
      .barrier 10 7 0 0x300 (some 1) (some (2, 1)) (some 109) false) = true ∧
    nextIs (exec (.staggerExpiry (whoAt 0 7) 0x200) (modCur (wB 0) fun t => { t with park := .answer 10 7 })) (fun t => getX (curSlot t) 10 == 0x200) = true := by
  decide +kernel

/-! ## The loop unit -/

/-- x1 = 100 iterations, x2 = counter 3, 4 workers, a least chunk of 2, x3 without workers. -/
def wL (k : Option LoopCtr) : State :=
  let s := inRegion [(1, 100), (2, 0x20000040003), (3, 0x20000000003), (4, 3)]
  modCluster s 0 fun c => { c with loops := (k.toList.map fun x => (3, x)) }

def wChunk (k : LoopCtr) : State := modCur (wL (some k)) fun t => { t with
  pendX := [6], out := [⟨4, .load, [], [], .x 6, .none, 1, 0, BitVec.allOnes 512, false, none⟩], nextItem := 5 }

theorem witness_LoopUnit : operandsFree (wL none) [1, 2] (.x 10) = true ∧ sourceWords [1, 2] (wL none) = some ([100, 0x20000040003], wL none) ∧
    loopCtr (wL none) 0 3 = none ∧ loopCtr (wL (some ⟨5, 100, 4, 2, 9⟩)) 0 3 = some ⟨5, 100, 4, 2, 9⟩ ∧ (9 : Nat) ≠ 1 ∧
    (getCluster (wChunk ⟨10, 100, 4, 2, 1⟩) 0).chunks = [] ∧
    (wL none).flights = [] ∧ operandsFree (wL none) [4] (.x 10) = true ∧
    (outIs (wChunk ⟨10, 100, 4, 2, 1⟩) (whoAt 0 4)).map (fun o => o.dst) = some (.x 6) ∧
    loopCtr (wChunk ⟨10, 100, 4, 2, 1⟩) 0 3 = some ⟨10, 100, 4, 2, gtidRegion (taskOf 0)⟩ := by decide +kernel

def loopStatus (o : Res) (st : Word) : Bool := nextIs o fun t => sentOps t == [.barrierAnswer (whoAt 0 0) st]

theorem test_loopinit : loopStatus (exec (.loopinit 10 1 2) (wL none)) 0 = true ∧ loopStatus (exec (.loopinit 10 1 3) (wL none)) 2 = true ∧
    loopStatus (exec (.loopinit 10 1 2) (wL (some ⟨5, 100, 4, 2, 9⟩))) 1 = true ∧
    nextIs (exec (.loopinit 10 1 2) (wL none)) (fun t => loopCtr t 0 3 == some ⟨0, 100, 4, 2, 1⟩) = true := by decide +kernel
/-- 90 iterations are left for 4 workers: 23 of them, from 10 on. -/
theorem test_getchunk : nextIs (exec (.getchunk 10 4) (wL none)) (fun t => (curSlot t).pendX == [10] && t.flights.map (fun f => f.due) == [106]) = true ∧
    nextIs (exec (.getchunkResult (whoAt 0 4) 3) (wChunk ⟨10, 100, 4, 2, 1⟩)) (fun t => getX (curSlot t) 6 == BitVec.ofNat 64 (23 * 2 ^ 40 + 10) &&
      (loopCtr t 0 3).map (fun k => k.next) == some 33) = true ∧
    nextIs (exec (.getchunkResult (whoAt 0 4) 3) (wChunk ⟨10, 100, 4, 2, 9⟩)) (fun t => getX (curSlot t) 6 == 0xFFFFFFFFFF) = true := by decide +kernel

end Sys2Proof.Tests
end

