-- ==== Sys2Proof/Tests/Tasks.lean ====
section
/-! SUPPORT. Tasks, dispatch, tags, messages and nets: witnesses of the hypotheses of the statements about them, and single
results by hand from the rules. -/

namespace Sys2Proof.Tests

set_option Elab.async false

open Machine

/-! ## SPAWN, JOIN, TAIL, YIELD -/

/-- x1 a spawn word of class 2 at PC word 0x10 for any die, x2 reserved affinity 9, x3 for die 7, x4 the argument, x5 a control
block of a child of region 1, x6 misaligned, x7 none in range, x8 of another's child. -/
def wT : State :=
  let s := inRegion [(1, 0xF200010), (2, 0x9000010), (3, 0x7000010), (4, 55), (5, BitVec.ofNat 64 devVa),
    (6, BitVec.ofNat 64 (devVa + 8)), (7, BitVec.ofNat 64 (devVa + 2 ^ 29)), (8, BitVec.ofNat 64 (devVa + 0x100))]
  let m := mwrite (mwrite s.mem (phys devVa) 8 (2 ^ 32 + 2 * 2 ^ 24)) (phys devVa + 8 * 27) 8 0x77
  { s with mem := mwrite m (phys devVa + 0x100) 8 (9 * 2 ^ 32 + 2 * 2 ^ 24) }

/-- The same with the child ended. -/
def wTended : State := { wT with mem := mwrite wT.mem (phys devVa) 8 (2 ^ 32 + 4 * 2 ^ 24) }

def inGang (s : State) : State := modCore s 0 fun k => { k with gang := some ⟨0, 2, [0, 0], [0, 0], [(0, false), (0, false)]⟩ }

/-- One store is outstanding, and the retirement tracker has n entries. -/
def wTail (n : Nat) : State :=
  let s := modCur wT fun t => { t with out := [⟨4, .store, [.core 1], [], .none, .none, 0, 0, 0, false, none⟩], nextItem := 5 }
  modCore s 0 fun k => { k with tracker := (List.range n).map fun i => ⟨BitVec.ofNat 64 i, 1, 0, []⟩ }

theorem witness_TaskWords : operandsFree wT [1, 4] (.x 10) = true ∧ sourceWords [1, 4] wT = some ([0xF200010, 55], wT) ∧
    (0xF200010#64).toNat < 2 ^ 28 ∧ (0x9000010#64).toNat / 2 ^ 24 % 16 = 9 ∧ getRegion wT 1 = some region1 ∧
    bit region1.dies 7 = true ∧ dieLive wT 7 = true ∧ dieLive wT 9 = false ∧ soundSources wT [5] = true ∧
    sourceWords [5] wT = some ([BitVec.ofNat 64 devVa], wT) ∧
    Got (devCheck wT (.core 0) 0 1 .load devVa 256) = some (.phys (phys devVa) 0, none) ∧
    byteWordAt (locRead wT (.phys (phys devVa) 0) 0 1 devVa 256) 0 / 2 ^ 24 % 256 = 2 ∧
    byteWordAt (locRead wTended (.phys (phys devVa) 0) 0 1 devVa 256) 0 / 2 ^ 24 % 256 = 4 ∧
    locBad wT (.phys (phys devVa) 0) 256 = false ∧ (getCore (inGang wT) 0).gang ≠ none := by decide +kernel

theorem witness_TaskWords_tail : (getCore wT 0).gang = none ∧ (curSlot wT).stagedHdr = none ∧ unlinked (curSlot wT) (pairingOf wT 0 0) = none ∧
    0 < oscOf (getSlot (commitNodes (wTail 4) 0 0) 0 0) ∧ trackerFull (commitNodes (wTail 4) 0 0) 0 = true ∧
    trackerFull (commitNodes (wTail 3) 0 0) 0 = false ∧ serialTask (getCore wT 0) (curSlot wT).origin = false := by decide +kernel

theorem test_spawn : nextIs (exec (.spawn 10 1 4) wT) (fun t => sentOps t == [.spawnPlace 0 (some (whoAt 0 0)) ⟨1, .spawn 0x1000000000000 55 0x10 2 15 100 false⟩] &&
      getX (landed t 0) 10 == 0x1000000000000) = true ∧ trapsWith (.spawn 10 2 4) wT ⟨1, 0, 0, 0⟩ = true ∧
    nextIs (exec (.spawn 10 3 4) wT) (fun t => sentOps t == [.spawnPlace 7 (some (whoAt 0 0)) ⟨1, .spawn 0x1000000000000 55 0x10 0 7 100 false⟩]) = true := by
  decide +kernel
theorem test_join : nextIs (exec (.join 10 5) wT) (fun t => (curSlot t).park == .join 10 (phys devVa)) = true ∧
    leavesX (.join 10 5) wTended 10 0x77 = true ∧ leavesX (.join 10 8) wT 10 (joinWord 8 0) = true ∧
    trapsWith (.join 10 6) wT ⟨3, 0, 0, BitVec.ofNat 64 (devVa + 8)⟩ = true := by decide +kernel
theorem test_tail : nextIs (exec .tail (wTail 3)) (fun t => !(getSlot t 0 0).held && (getCore t 0).tracker.length == 4) = true ∧
    waitsFor .tail (wTail 4) = true ∧ trapsWith .tail (inGang wT) ⟨1, 0, 0, 0⟩ = true ∧
    trapsWith .tail (modCur wT fun t => { t with stagedHdr := some 0 }) ⟨10, 4, 0, 0⟩ = true := by decide +kernel
theorem test_yield : nextIs (exec .yield wT) (fun t => (curSlot t).stop == some false && (curSlot t).stopRequeue) = true ∧
    trapsWith .yield (inGang wT) ⟨1, 0, 0, 0⟩ = true := by decide +kernel

/-- x1 = a control block; nothing is snooped or ahead of it. The task is `wT`'s, with no claim. -/
theorem witness_TaskFormsComplete : operandsFree wT [1, 4] (.x 10) = true ∧ sourceWords [1, 4] wT = some ([0xF200010, 55], wT) ∧
    oscOf (curSlot wT) < 1024 ∧ (0xF200010#64).toNat < 2 ^ 28 ∧ (0xF200010#64).toNat / 2 ^ 22 % 4 = 0 ∧
    (0xF200010#64).toNat / 2 ^ 19 % 2 = 0 ∧ (0xF200010#64).toNat / 2 ^ 24 = 15 ∧ operandsFree wT [5] (.x 10) = true ∧
    soundSources wT [5] = true ∧ sourceWords [5] wT = some ([BitVec.ofNat 64 devVa], wT) ∧ devVa % 256 = 0 ∧
    Got (devCheck wT (.core 0) 0 1 .load devVa 256) = some (.phys (phys devVa) 0, none) ∧
    locBad wT (.phys (phys devVa) 0) 256 = false ∧ behindAt wT (locPlace (.phys (phys devVa) 0)) = false ∧
    snooped wT (phys devVa) 256 = [] ∧ (curSlot wT).claimBuf = none ∧ (curSlot wT).staged = [] ∧ (curSlot wT).wires = [] ∧
    (curSlot wT).reserved = [] ∧ commitLines wT 0 0 = [] ∧ trackerFull (wTail 3) 0 = false ∧ 0 < oscOf (curSlot (wTail 3)) := by
  decide +kernel

/-! ## Dispatch -/

def qTask (cls : Nat) : QTask := ⟨taskOf 5, 1, cls, .spawn, .fresh 0x80 7 8, 50, none⟩

/-- A task of class 2 waits in the run queue of core 5 and another in class 0; the die's queue holds a spawn and a pair. -/
def wD : State :=
  let s := modCore wT 5 fun k => { k with runq := [qTask 2] }
  modDie s 0 fun d => { d with ready := [⟨1, .spawn 9 7 0x20 1 15 50 false⟩, ⟨1, .pair 3 4⟩] }

/-- Class 0 has starved. -/
def wStarved : State := modCore wT 5 fun k => { k with runq := [qTask 2, qTask 0], starve := [(0, 4096)] }

theorem witness_Dispatching : canDispatch wD 5 = true ∧ freeSlot wD.cycle (getCore wD 5) = some 0 ∧ (chooseClass wD (getCore wD 5)).map Prod.fst = some 2 ∧
    takeFirst (fun (q : QTask) => q.cls == 2 && isRunning wD q.region) (getCore wD 5).runq = some (qTask 2, []) ∧
    (candidate wStarved (getCore wStarved 5) 0).isSome = true ∧ tget (getCore wStarved 5).starve 0 0 = 4096 ∧ canPull wD 0 = true ∧
    (takeFirst (fun e => entryFits wD 0 e && (!isPairEntry e || decide ((getCore wD 0).bag.length < 768))) (getDie wD 0).ready).isSome = true ∧
    regionEnds wD 1 = false ∧ readyRoom wD 0 = true ∧ regionEnds State.reset 1 = true := by decide +kernel

def wFullQueue : State := modDie wT 0 fun d => { d with ready := List.replicate 4096 ⟨1, .pair 3 4⟩ }

def wSpawned : State := modCur wT fun t => { t with out := [⟨4, .spawn, [.core 3136], [], .none, .none, 0, 0, 0, false, none⟩], nextItem := 5 }

theorem witness_Dispatching_queues : readyRoom wFullQueue 0 = false ∧ regionEnds wFullQueue 1 = false ∧
    (outIs wSpawned (whoAt 0 4)).isSome = true ∧ dieLive wT 0 = true ∧ dieIdle wT 0 = true ∧
    nextNeighbour (neighbours wT 0) (getDie wT 0).stealNext = some 1 := by decide +kernel

/-- A task saved in context 2 of region 1 is read back into slot 3 of core 5. -/
def wSaved : State :=
  let s := { wT with saved := [⟨2, 1, 17, 5, false, { Slot.empty with held := true, gtid := taskOf 5, region := 1, pc := 0x90 }⟩] }
  setSlot s 5 3 { Slot.empty with held := true, gtid := taskOf 5, region := 1, park := .readBack 2 }

theorem witness_Dispatching_context : (savedAt wSaved 1 2).map (fun e => e.1) = some 0 ∧ (getSlot wSaved 5 3).park = .readBack 2 ∧
    (getSlot wSaved 5 3).gtid = taskOf 5 := by decide +kernel

theorem test_dispatch : nextIs (exec (.dispatch 5) wD) (fun t => (getSlot t 5 0).held && (getSlot t 5 0).pc == 0x80 && getX (getSlot t 5 0) 3 == 7 &&
      getX (getSlot t 5 0) 4 == 8 && getX (getSlot t 5 0) 5 == 0x1 + 5 * 2 ^ 36 % 2 ^ 32 && (getCore t 5).runq == []) = true ∧
    (chooseClass wStarved (getCore wStarved 5)).map Prod.fst = some 0 := by decide +kernel
theorem test_ready_queue : nextIs (exec (.readyQueuePull 0) wD) (fun t => (getCore t 0).runq.map (fun q => (q.gtid, q.cls)) == [(9, 1)]) = true ∧
    nextIs (exec (.spawnPlace 0 (some (whoAt 0 4)) ⟨1, .pair 3 4⟩) wSpawned) (fun t => (getDie t 0).ready == [⟨1, .pair 3 4⟩] &&
      (curSlot t).out == []) = true := by decide +kernel
theorem test_steal : nextIs (exec (.stealTimer 0) wT) (fun t => sentOps t == [.stealRequest 0 1]) = true ∧
    nextIs (exec (.stealRequest 3 0) wD) (fun t => sentOps t == [.stealAnswer 3 [⟨1, .spawn 9 7 0x20 1 15 50 false⟩]] &&
      (getDie t 0).ready == [⟨1, .pair 3 4⟩]) = true ∧
    nextIs (exec (.stealAnswer 3 []) wT) (fun t => (getDie t 3).tssteal == 1) = true ∧
    nextIs (exec (.stealAnswer 3 [⟨1, .pair 3 4⟩]) wT) (fun t => (getDie t 3).ready == [⟨1, .pair 3 4⟩]) = true := by decide +kernel
theorem test_context_read_back : nextIs (exec (.contextReadBack 5 3 2) wSaved) (fun t => (getSlot t 5 3).held && t.saved == []) = true := by
  decide +kernel

/-! ## Tags -/

/-- Tag 3 of core 0: V, EN, class 1, PC word 0x20, its region 1, with PEND as given; x1 = 3, x2 = 4, x3 = 256, x4 = 0xFE. -/
def wG3 (e : Nat) : State := modCore (inRegion [(1, 3), (2, 4), (3, 256), (4, 0xFE)]) 0 fun k => { k with
  tags := [(3, BitVec.ofNat 64 e), (0xFE, 0x80000000#64)], tagOwner := [(3, 1)] }

def tagEnabled : Nat := 2 ^ 31 + 2 ^ 30 + 2 ^ 26 + 0x20
def tagPending : Nat := 2 ^ 31 + 2 ^ 29 + 2 ^ 26 + 0x20

theorem witness_TagWords : operandsFree (wG3 tagEnabled) [1] .none = true ∧ sourceWords [1] (wG3 tagEnabled) = some ([3], wG3 tagEnabled) ∧
    tagV (getTag (getCore (wG3 tagEnabled) 0) 3) = true ∧ ownTag (wG3 tagEnabled) 3 = true ∧ tagV (getTag (getCore (wG3 tagEnabled) 0) 4) = false ∧
    tagQueue (getCore (wG3 tagEnabled) 0) 3 = [] ∧ tagV (getTag (getCore (wG3 tagEnabled) 0) 0xFE) = true ∧ ownTag (wG3 tagEnabled) 0xFE = false ∧
    tagPend (getTag (getCore (wG3 tagPending) 0) 3) = true ∧
    (List.range 3).all (fun m => !tagV (getTag (getCore (wG3 tagPending) 0) m)) = true := by decide +kernel

theorem test_tagen_tagdis : nextIs (exec (.tagen 1) (wG3 tagPending)) (fun t => getTag (getCore t 0) 3 == tagPending + 2 ^ 30) = true ∧
    nextIs (exec (.tagdis 1) (wG3 tagEnabled)) (fun t => getTag (getCore t 0) 3 == tagEnabled - 2 ^ 30) = true ∧
    trapsWith (.tagen 2) (wG3 tagEnabled) ⟨1, 0, 0, 0⟩ = true ∧ nextIs (exec (.tagdis 4) (wG3 tagEnabled)) (fun _ => true) = true := by decide +kernel
theorem test_tagpend_tagtest : leavesX (.tagpend 10) (wG3 tagPending) 10 3 = true ∧ leavesX (.tagpend 10) (wG3 tagEnabled) 10 0xFFFFFFFFFFFFFFFF = true ∧
    leavesX (.tagtest 10 1) (wG3 tagEnabled) 10 (BitVec.ofNat 64 tagEnabled) = true ∧ trapsWith (.tagtest 10 3) (wG3 tagEnabled) ⟨1, 0, 0, 0⟩ = true := by
  decide +kernel
theorem test_tagclr : leavesX (.tagclr 10 1) (wG3 tagPending) 10 0 = true ∧ trapsWith (.tagclr 10 4) (wG3 tagPending) ⟨1, 0, 0, 0⟩ = true ∧
    nextIs (exec (.tagclr 10 1) (modCore (wG3 (tagPending + 2 ^ 40)) 0 fun k => { k with tagWait := [(3, [7])], mbox := [(7, ⟨1, 3⟩)] })) (fun t =>
      getX (landed t 0) 10 == 1 && getTag (getCore t 0) 3 == tagPending - 2 ^ 29 && (getCore t 0).mbox == []) = true := by decide +kernel

/-! ## Messages -/

/-- A message of core 9 to this chip with one payload word. -/
def msgTo (core tag : Nat) : Msg :=
  ⟨BitVec.ofNat 64 (9 * 2 ^ 32 + 2 ^ 28 + tag * 2 ^ 20 + 255 * 2 ^ 12 + core), [0xAB], whoAt 9 0, false⟩

/-- The host's ring has 4 entries. -/
def wRing (tail : Nat) : State := { wT with host := { wT.host with hrsize := 4, hrhead := 0, hrtail := BitVec.ofNat 64 tail, hrbase := 0x1000 } }

/-- Region 1 may take q mailbox slots. -/
def wQuota (q e : Nat) : State := { wG3 e with regions := [(1, { region1 with mboxq := q })] }

def wBounce : State := modCore wT 9 fun k => { k with tags := [(0xFF, 0x80000000#64)] }

theorem witness_MessageArrivals : hdrSchip (msgTo 0 3).hdr = 0 ∧ hdrDcore (msgTo 0 3).hdr = 0 ∧ 3144 ≤ hdrDcore (msgTo 3144 3).hdr ∧
    ownChip wT (msgTo 0 3).hdr = true ∧ isMgmt (hdrDcore (msgTo 3136 0).hdr) = true ∧ answering wT 3136 = true ∧ answering wT 0 = true ∧
    isMgmt 0 = false ∧ quotaUsed (getCore (wQuota 200 tagPending) 0) 3 = 0 ∧ freeMbox (getCore (wQuota 200 tagPending) 0) 0 240 = some 0 ∧
    replayMode (wQuota 200 tagPending) 0 (itemRegion (wQuota 200 tagPending) 0 3 (msgTo 0 3)) = 0 ∧
    isDying (wQuota 200 tagPending) (itemRegion (wQuota 200 tagPending) 0 3 (msgTo 0 3)) = false ∧
    (getCore (wQuota 200 tagPending) 0).sp.wf = true ∧ hdrDcore (msgTo 4095 3).hdr = 4095 ∧ ringFull (wRing 3) = true ∧ ringFull (wRing 2) = false := by
  decide +kernel

theorem witness_MessageArrivals_bounce : hdrScore (msgTo 0 3).hdr = 9 ∧ answering wBounce 9 = true ∧
    tagV (getTag (getCore wBounce 9) 0xFF) = true ∧ freeMbox (getCore wBounce 9) 240 256 = some 240 ∧
    replayMode wBounce 0 (itemRegion wBounce 9 0xFF (msgTo 0 3)) = 0 ∧ (getCore wBounce 9).sp.wf = true ∧
    isDying wBounce (itemRegion wBounce 9 0xFF (msgTo 0 3)) = false ∧ holdsTask (getSlot wT 0 0) (whoAt 0 4).gtid = true ∧
    isMgmt 3136 = true ∧ (outIs wLoad (whoAt 0 4)).map (fun o => o.dst) = some (.x 6) := by decide +kernel

def bounced (i : Res) (r : Nat) : Bool := nextIs i fun t => (sentOps t).any fun e => match e with
  | .bounce _ n => n == r
  | _ => false

theorem test_message_arrives : nextIs (exec (.messageArrive (msgTo 0 3)) (wQuota 200 tagPending)) (fun t => tfind (getCore t 0).mbox 0 == some ⟨1, 3⟩ &&
      spHas 0x7C000 8 (msgTo 0 3).hdr.toNat t && spHas 0x7C008 8 0xAB t && getTag (getCore t 0) 3 == tagPending + 2 ^ 40) = true ∧
    nextIs (exec (.messageArrive (msgTo 0 3)) (wQuota 200 tagEnabled)) (fun t => (getCore t 0).runq.map (fun q => q.cls) == [1]) = true ∧
    nextIs (exec (.messageArrive (msgTo 4095 3)) (wRing 2)) (fun t => t.host.hrtail == 3 && t.host.interrupts == 1) = true := by decide +kernel
theorem test_message_refused : bounced (exec (.messageArrive (msgTo 0 4)) (wQuota 200 tagPending)) 3 = true ∧
    bounced (exec (.messageArrive (msgTo 0 3)) (wQuota 0 tagPending)) 4 = true ∧
    bounced (exec (.messageArrive (msgTo 0 3)) (wQuota 200 (tagPending + 2 ^ 40 + 2 ^ 32))) 5 = true ∧
    bounced (exec (.messageArrive (msgTo 3144 3)) wT) 1 = true ∧ bounced (exec (.messageArrive (msgTo 4095 3)) (wRing 3)) 6 = true := by decide +kernel
theorem test_bounce : nextIs (exec (.bounce (msgTo 0 3) 4) wBounce) (fun t => (mboxHdr t 9 240).toNat / 2 ^ 32 == 4) = true := by decide +kernel
theorem test_status_and_notice : nextIs (exec (.messageStatus (whoAt 0 4) 5) (modCur wT fun t => { t with ackFlying := 1 })) (fun t =>
      (curSlot t).q7 == [5] && (curSlot t).ackFlying == 0) = true ∧
    nextIs (exec (.errorNotice ⟨3136, whoAt 0 4, 2, 0, 0, 1, 0, 3072, 0⟩) wLoad) (fun t => getX (curSlot t) 6 == 0 &&
      (curSlot t).trapNext == some ⟨11, 0, 0, 0⟩) = true := by decide +kernel

/-! ## Nets -/

/-- Node n of core 0 in memory with a state, a claimer, a port 1 and port 2. -/
def nodeAt (n st claimer : Nat) (p1 p2 : Word) (s : State) : State :=
  let a := phys nodeBase + 64 * n
  { s with mem := mwrite (mwrite (mwrite s.mem a 8 (mkNodeHdr 0 0 0 5 claimer st 2 9).toNat) (a + 8) 8 p1.toNat) (a + 16) 8 p2.toNat }

def refA : Word := refWord 1 5 1
def refB : Word := refWord 1 5 2

def stagedNode : StagedNode := ⟨7, 6, 9, 2, List.replicate 4 0#64, [], List.replicate 3 0#64⟩

/-- The task holds claim buffer 0 with nodes 1 and 2, has node 7 staged and node 8 reserved. x1 = 8 + 2, x2 kind 9 with arity 2,
x3 the reserved word, x4 port 2 of node 7, x5 a literal, x6 an index, x7 = 1024, x8 port 2 of claimed node 0, x9 the principal port
of node 7, x10 and x11 refs, x12 port 3 of node 7, x13 too great a port, x14 a reference with tag 3. -/
def wN : State :=
  let s := inRegion [(1, 10), (2, 0x209), (3, refWord 1 6 8), (4, refWord 2 6 7), (5, 0xA000000000000001), (6, 1), (7, 1024),
    (8, 0xE000000000000002), (9, refWord 1 6 7), (10, refA), (11, refB), (12, refWord 3 6 7), (13, refWord 4 6 7), (14, refWord 3 5 1)]
  let s1 := modCore s 0 fun k => { k with
    claimBufs := [(0, ⟨1, refA, refB, 2, [mkNodeHdr 0 0 0 5 0 2 2 9, refB, 11, 12, 13, 21, 22, 23], [mkNodeHdr 0 0 0 5 0 2 2 9, refA, 31, 32, 33, 41, 42, 43],
      some (taskOf 0), false⟩)], freeNodes := [(1, 3)] }
  modCur s1 fun t => { t with origin := .pair 0, claimBuf := some 0, staged := [stagedNode], reserved := [refWord 1 6 8] }

def wNone : State := modCur wN fun t => { t with claimBuf := none }

def wNfull : State := modCur wN fun t => { t with staged := List.replicate 16 stagedNode }

def wNwires : State := modCur wN fun t => { t with wires := List.replicate 32 (.literal 0, .literal 0) }

def wNwired : State := modCur wN fun t => { t with staged := [{ stagedNode with wired := [2] }] }

theorem witness_NodeWords : operandsFree wN [1] (.x 20) = true ∧ isCompute wN.cur.core = true ∧ sourceWords [1] wN = some ([10], wN) ∧
    (claimedNode wN 1).isSome = true ∧ claimedNode wNone 1 = none ∧ (10 : Nat) < 16 ∧ operandsFree wN [2, 3] (.x 20) = true ∧
    sourceWords [2, 3] wN = some ([0x209, refWord 1 6 8], wN) ∧ refWord 1 6 8 ∈ (curSlot wN).reserved ∧ (curSlot wN).staged.length < 16 ∧
    16 ≤ (curSlot wNfull).staged.length ∧ poolHas wN 0 1 1 = true ∧ poolHas wT 0 1 1 = false ∧ (poolTake wN 0 1).isSome = true ∧
    operandsFree wN [5, 4] .none = true ∧ (stagedPort (curSlot wN) (refWord 2 6 7)).map (fun e => e.2) = some 2 ∧
    stagedPort (curSlot wN) refA = none ∧ wTag 0xA000000000000001 = 5 := by decide +kernel

def endIs (o : Except Trap Endpoint) : Option Endpoint :=
  match o with
  | .ok e => some e
  | .error _ => none

theorem witness_NodeWords_links : endIs (endpointOf wN (refWord 2 6 7)) = some (.fresh 7 2) ∧ endIs (endpointOf wN 0xE000000000000002) = some (.claimed 0 2) ∧
    endIs (endpointOf wN 0xA000000000000001) = some (.literal 0xA000000000000001) ∧ endIs (endpointOf wN refA) = none ∧
    endpointUsed (curSlot wN) (.fresh 7 2) = false ∧ endpointUsed (curSlot wNwired) (.fresh 7 2) = true ∧ 32 ≤ (curSlot wNwires).wires.length ∧
    sourceWords [4, 8] wN = some ([refWord 2 6 7, 0xE000000000000002], wN) ∧ operandsFree wN [4, 8] .none = true ∧
    (stagedOf (curSlot wN) (refWord 1 6 7)).isSome = true ∧ refA.toNat / 2 ^ 61 = 1 ∧ (refWord 3 5 1).toNat / 2 ^ 61 ≠ 1 ∧
    isCompute 3072 = false ∧ (getCore wN 0).bag.length < 768 := by decide +kernel

theorem test_nport_npay : leavesX (.nport 20 1) wN 20 31 = true ∧ leavesX (.npay 20 1) wN 20 43 = true ∧ trapsWith (.nport 20 1) wNone ⟨9, 1, 0, 10⟩ = true ∧
    trapsWith (.nport 20 7) wN ⟨9, 2, 0, 1024⟩ = true := by decide +kernel
theorem test_nnew : leavesX (.nnew 20 2 3) wN 20 (refWord 1 6 8) = true ∧ trapsWith (.nnew 20 7 3) wN ⟨9, 6, 0, 1024⟩ = true ∧
    trapsWith (.nnew 20 2 4) wN ⟨9, 3, 0, refWord 2 6 7⟩ = true ∧ leavesX (.nnew 20 2 0) wN 20 (refWord 1 1 3) = true := by decide +kernel
theorem test_nset_nsetp : nextIs (exec (.nset 5 4) wN) (fun t => (curSlot t).staged == [{ stagedNode with ports := [0, 0xA000000000000001, 0, 0], wired := [2] }]) = true ∧
    nextIs (exec (.nsetp 10 9 6) wN) (fun t => (curSlot t).staged == [{ stagedNode with pay := [0, refA, 0] }]) = true ∧
    trapsWith (.nset 5 4) wNwired ⟨9, 4, 0, refWord 2 6 7⟩ = true ∧ trapsWith (.nset 5 13) wN ⟨9, 3, 0, refWord 4 6 7⟩ = true := by decide +kernel
theorem test_nlink : nextIs (exec (.nlink 4 8) wN) (fun t => (curSlot t).wires == [(.fresh 7 2, .claimed 0 2)] &&
      (curSlot t).staged.map (fun n => n.wired) == [[2]]) = true ∧ trapsWith (.nlink 5 5) wN ⟨9, 6, 0, 0xA000000000000001⟩ = true ∧
    trapsWith (.nlink 4 4) wN ⟨9, 4, 0, refWord 2 6 7⟩ = true ∧ trapsWith (.nlink 4 5) wNwires ⟨9, 5, 0, refWord 2 6 7⟩ = true := by decide +kernel
theorem test_npush : nextIs (exec (.npush 10 11) wN) (fun t => (getCore t 0).bag == [(1, refA, refB)]) = true ∧
    trapsWith (.npush 14 11) wN ⟨9, 6, 0, refWord 3 5 1⟩ = true := by decide +kernel

/-! ## Messages between the owners of nodes -/

/-- Nodes 1 and 2 stand opposite each other, live; core 4's bag holds the pair. -/
def wPairs (st : Nat) (claimer : Nat) : State :=
  modCore (nodeAt 2 st claimer refA 0 (nodeAt 1 st claimer refB 0 (inRegion []))) 4 fun k => { k with bag := [(1, refB, refA)] }

def clm (which : Nat) : ClaimPkt := ⟨4, 0, 1, which, if which = 0 then refA else refB, if which = 0 then refB else refA⟩

def wClaiming : State := modCore (wPairs 2 4) 4 fun k => { k with claimBufs := [(0, ⟨1, refB, refA, 0, [], [], none, false⟩)] }

def lnk (o : Option Origin) : LinkPkt := ⟨4, taskOf 4, 4, 0, 1, 1, 5, 2, 0xA000000000000001, o, 4⟩

theorem witness_NodeMessages : liveCore (wPairs 1 0) 4 = true ∧ freeBuf (getCore (wPairs 1 0) 4) = some 0 ∧ (getCore (wPairs 1 0) 4).bag = [(1, refB, refA)] ∧
    regionEnds (wPairs 1 0) 1 = false ∧ nodeOwner (wIdx refA) = 0 ∧ nodeInRange (wPairs 1 0) 0 1 1 = true ∧
    ((nodeRead (wPairs 1 0) 1 1).map fun ws => (ws.length, hState (ws.getD 0 0), hGen (ws.getD 0 0), ws.getD 1 0, unusable ws)) = some (8, 1, 5, refB, false) ∧
    (tfind (getCore wClaiming 4).claimBufs 0).isSome = true ∧ (getCore wClaiming 4).runq.length < 320 ∧ (getCore wClaiming 4).runHold = [] ∧
    ((nodeRead (wPairs 2 4) 1 1).map fun ws => (hState (ws.getD 0 0), hClaimer (ws.getD 0 0))) = some (2, 4) ∧
    ((nodeRead (wPairs 3 4) 1 1).map fun ws => (hState (ws.getD 0 0), hOut (ws.getD 0 0), hExpect (ws.getD 0 0))) = some (3, 0, 0) := by decide +kernel

/-- The task of slot 0 of core 4 has the LINK outstanding. -/
def wLinked (st : Nat) : State :=
  setSlot (wPairs st 4) 4 0 { Slot.empty with
    held := true, gtid := taskOf 4, region := 1, out := [⟨4, .node, [.core 0], [], .none, .none, 0, 0, 0, false, none⟩], nextItem := 5 }

def wHolding (own : Option Word) : State := modCore (wPairs 2 4) 4 fun k => { k with
  claimBufs := [(0, ⟨1, refA, refB, 2, List.replicate 8 0#64, List.replicate 8 0#64, own, false⟩)] }

theorem witness_NodeMessages_links : bufHolding (wPairs 2 4) 4 1 1 5 = none ∧
    (bufHolding (wHolding none) 4 1 1 5).map (fun e => (e.1, e.2.2)) = some (0, true) ∧ (lnk (some ⟨1, 2⟩)).origin = some ⟨1, 2⟩ ∧
    isTomb (wLinked 1) 1 1 = false ∧ isTomb (wLinked 3) 1 1 = true ∧ (outIs (wLinked 3) ⟨4, 0, taskOf 4, 4⟩).isSome = true := by decide +kernel

theorem test_claims : nextIs (exec (.bagPop 4) (wPairs 1 0)) (fun t => sentOps t == [.claim (clm 0)] && (getCore t 4).bag == []) = true ∧
    nextIs (exec (.claim (clm 0)) (wPairs 1 0)) (fun t => (nodeRead t 1 1).map (fun ws => (hState (ws.getD 0 0), hClaimer (ws.getD 0 0))) == some (2, 4)) = true ∧
    nextIs (exec (.claim (clm 0)) (wPairs 2 4)) (fun t => sentOps t == [.claimReply (clm 0) none]) = true := by decide +kernel
theorem test_claim_reply : nextIs (exec (.claimReply (clm 0) none) wClaiming) (fun t => (getCore t 4).ncfail == 1 && (getCore t 4).claimBufs == []) = true ∧
    nextIs (exec (.claimReply (clm 0) (some [])) wClaiming) (fun t => sentOps t == [.claim (clm 1)]) = true ∧
    nextIs (exec (.claimReply (clm 1) (some [])) wClaiming) (fun t => (getCore t 4).ncclaim == 1 && (getCore t 4).runq.length == 1) = true := by decide +kernel
theorem test_release_tomb : nextIs (exec (.release (clm 0)) (wPairs 2 4)) (fun t => (nodeRead t 1 1).map (fun ws => hState (ws.getD 0 0)) == some 1 &&
      (getCore t 0).bag == [(1, refA, refB)]) = true ∧
    nextIs (exec (.tomb ⟨4, taskOf 4, 4, 0, 1, 1, [0, 0, 0], 0⟩) (wLinked 2)) (fun t => (getCore t 0).ncfree == 1 && (getSlot t 4 0).out == []) = true := by
  decide +kernel
theorem test_links : nextIs (exec (.link (lnk (some ⟨2, 2⟩))) (wPairs 1 0)) (fun t => (nodeRead t 1 1).map (fun ws => ws.getD 2 0) == some 0xA000000000000001 &&
      sentOps t == [.ack { lnk (some ⟨2, 2⟩) with last := 0 }]) = true ∧
    nextIs (exec (.redefer (lnk none)) (wPairs 2 4)) (fun t => sentOps t == [.defer 4 { lnk none with last := 0 }]) = true ∧
    nextIs (exec (.defer 4 (lnk none)) (wPairs 2 4)) (fun t => sentOps t == [.redefer (lnk none)]) = true ∧
    nextIs (exec (.defer 4 (lnk (some ⟨2, 2⟩))) (wHolding none)) (fun t => sentOps t == [.settle (lnk (some ⟨2, 2⟩)) false]) = true := by decide +kernel
theorem test_ack_settle : nextIs (exec (.ack (lnk (some ⟨1, 2⟩))) (wLinked 3)) (fun t => (getSlot t 4 0).out == []) = true ∧
    nextIs (exec (.settle (lnk (some ⟨1, 2⟩)) true) (wLinked 3)) (fun t => (getSlot t 4 0).out == [] &&
      (nodeRead t 1 1).map (fun ws => hExpect (ws.getD 0 0)) == some 1) = true := by decide +kernel

end Sys2Proof.Tests
end

