-- ==== Sys2Proof/Tests/Control.lean ====
section
/-! SUPPORT. Gangs, checked pairs, special registers and the TSYS forms: witnesses of the hypotheses of the statements about them,
and single results by hand from the rules. -/

namespace Sys2Proof.Tests

set_option Elab.async false

open Machine

/-! ## Gangs -/

/-- x1 = the spec of a gang of two, x2 = a bound of 50 cycles, x3 = 0, x4 = a bad spec. -/
def wGang : State := inRegion [(1, 1), (2, 50), (3, 0), (4, 9)]

/-- Core 1's slot 2 waits in GANGWAIT with rd = 6 before the bundle at 0x84. -/
def wWaiting : State := setSlot wGang 1 2 { Slot.empty with held := true, gtid := taskOf 1, region := 1, pc := 0x80, nextPc := 0x84, park := .gangWait 6 }

def gang01 : Gang := ⟨0, 2, [0, 2], [0, 6], [(0, false), (0x84, false)]⟩

def wFormed : State := formGang wWaiting gang01

def wForming (due : Nat) : State := modCur wWaiting fun t => { t with park := .gangForm 9 2 due, nextPc := 0x44 }

theorem witness_Gangs : operandsFree wGang [1, 2] (.x 9) = true ∧ sourceWords [1, 2] wGang = some ([1, 50], wGang) ∧
    sourceWords [1, 3] wGang = some ([1, 0], wGang) ∧ isCompute wGang.cur.core = true ∧ isMember (getCore wGang 0) 0 0 = false ∧
    (getCore wGang 0).gang = none ∧ gangShape wGang 0 1 = some 2 ∧ gangShape wGang 0 9 = none ∧ followers wGang 0 2 = none ∧
    followers wWaiting 0 2 = some [(2, 6, 0x84, false)] ∧ gangFree (getCore wWaiting 0) = true ∧ (getCore wFormed 0).gang = some gang01 ∧
    isMember (getCore wFormed 0) 0 0 = true ∧ (0 : Nat) = gang01.base ∧ (formable (wForming 150) 0).isSome = true ∧
    (getSlot (wForming 99) 0 0).park = .gangForm 9 2 99 ∧ (99 : Nat) < (wForming 99).cycle := by decide +kernel

theorem test_gangform : leavesX (.gangform 9 1 2) wWaiting 9 0 = true ∧ leavesX (.gangform 9 4 2) wWaiting 9 2 = true ∧
    leavesX (.gangform 9 1 3) wGang 9 1 = true ∧ nextIs (exec (.gangform 9 1 2) wGang) (fun t => (curSlot t).park == .gangForm 9 2 150 &&
      t.flights.map (fun f => f.due) == [151]) = true := by decide +kernel
theorem test_gangwait_disband : nextIs (exec (.gangwait 9) wGang) (fun t => (curSlot t).park == .gangWait 9) = true ∧
    nextIs (exec (.disband 9) wFormed) (fun t => (getCore t 0).gang == none && (getCore t 1).gang == none &&
      (getSlot t 1 2).pc == 0x84 && getX (getSlot t 1 2) 6 == 0) = true ∧ leavesX (.disband 9) wGang 9 5 = true := by decide +kernel
theorem test_gang_events : nextIs (exec (.gangForms 0) (wForming 150)) (fun t => (getCore t 1).gang == some gang01 && getX (curSlot t) 9 == 0 &&
      (curSlot t).park == .none) = true ∧
    nextIs (exec (.gangformTimeout 0) (wForming 99)) (fun t => getX (curSlot t) 9 == 1 && (curSlot t).park == .none) = true := by decide +kernel

/-! ## Checked pairs -/

/-- x1 = 1 (east), x2 = 0 (west), x3 = 2. -/
def wP : State := inRegion [(1, 1), (2, 0), (3, 2)]

def pair01 (a b : Byte) (undo : List (Nat × Word)) : Pair :=
  ⟨1, 0, 0, { curSlot wP with pc := 0x20 }, { curSlot wP with pc := 0x20 }, undo, [⟨7, none, 90, false, false, .dispatch 3⟩],
    [.data [a]], [.data [b]], [], 1, false, false, false, true, none⟩

def wPaired (p : Pair) : State := modCore (modCore (setSlot wP 1 0 (curSlot wP)) 0 fun k => { k with pair := some p }) 1 fun k => { k with pairedTo := some 0 }

def exchanging (p : Pair) : Pair := { p with exchange := some 100 }

theorem witness_Pairs : operandsFree wP [1] (.x 9) = true ∧ sourceWords [1] wP = some ([1], wP) ∧ isMember (getCore wP 0) 0 0 = false ∧
    liveCore wP 1 = true ∧ gangFree (getCore wP 0) = true ∧ freeSlot wP.cycle (getCore wP 1) = some 0 ∧ (0 : Nat) % 48 % 8 = 0 ∧
    inPair wP 0 0 = false ∧ (getCore (syncPair (wPaired (pair01 1 1 [])) 0) 0).pair = some (pair01 1 1 []) ∧
    canClose (syncPair (wPaired (pair01 1 1 [])) 0) 0 = true ∧ ((pair01 1 1 []).gate.map fun f => f.chan) = [none] ∧
    fingerprint (pair01 1 1 []).fedSelf = fingerprint (pair01 1 1 []).fedPartner ∧
    (exchanging (pair01 1 1 [])).exchange ≠ none ∧ fingerprint (pair01 1 2 []).fedSelf ≠ fingerprint (pair01 1 2 []).fedPartner ∧ (pair01 1 2 []).retried = false := by
  decide +kernel

theorem test_pairon : nextIs (exec (.pairon 9 1) wP) (fun t => (getCore t 1).pairedTo == some 0 && (getSlot t 1 0).pc == 0x40 &&
      getX (landed t 0) 9 == 0) = true ∧ leavesX (.pairon 9 2) wP 9 2 = true ∧ trapsWith (.pairon 9 3) wP ⟨1, 0, 0, 0⟩ = true ∧
    leavesX (.pairon 9 1) (wPaired (pair01 1 1 [])) 9 1 = true := by decide +kernel
theorem test_pairoff : leavesX (.pairoff 9) wP 9 3 = true ∧ nextIs (exec (.pairoff 9) (wPaired (pair01 1 1 []))) (fun t => (getCore t 0).pair == none &&
    (getCore t 1).pairedTo == none && !(getSlot t 1 0).held) = true := by decide +kernel
theorem test_interval_close : nextIs (exec (.intervalClose 0) (wPaired (pair01 1 1 []))) (fun t => t.flights.map (fun f => f.due) == [108]) = true := by
  decide +kernel
theorem test_fingerprints : nextIs (exec (.fingerprintExchange 0) (wPaired (exchanging (pair01 1 1 [])))) (fun t => sentOps t == [.dispatch 3]) = true ∧
    nextIs (exec (.fingerprintExchange 0) (wPaired (exchanging (pair01 1 2 [(0x100, 5)])))) (fun t => (getSlot t 0 0).pc == 0x20 &&
      spHas 0x100 8 5 t && sentOps t == []) = true := by decide +kernel

/-! ## Special registers -/

/-- x1 = all ones, x2 = 0xF. Region 1's task runs on core 0, or on control core 3072. -/
def wSr (c : Nat) : State := withRegion (atCore c fun t => { t with x := [(1, 0xFFFFFFFFFFFFFFFF), (2, 0xF)], fpen := 0x30, l2psel := 0xE1FF })

theorem witness_SpecialRegisterWords : operandsFree (wSr 0) [] (.x 9) = true ∧ srRead (wSr 0) 0 0 0x777 = none ∧ srRead (wSr 0) 0 0 0x011 = some 0x30 ∧
    (srRead (wSr 0) 0 0 0x00F).isSome = true ∧ writeForms[0]?.isSome = true ∧ writeForms[2]?.isSome = true ∧ operandsFree (wSr 0) [1] .none = true ∧
    sourceWords [1] (wSr 0) = some ([0xFFFFFFFFFFFFFFFF], wSr 0) ∧ srBusy (wSr 0) 0x011 = false ∧
    srBusy (modCore (wSr 3072) 3072 fun k => { k with tlbBusy := some 3 }) 0x040 = true ∧ srWo 0x040 = true ∧ srCtl 0x030 = true ∧
    isCompute 3072 = false ∧ plainRegisters ≠ [] ∧ fixedRegisters ≠ [] := by decide +kernel

theorem test_srrd : leavesX (.srrd 9 0x011) (wSr 0) 9 0x30 = true ∧ trapsWith (.srrd 9 0x777) (wSr 0) ⟨1, 0, 0, 0⟩ = true ∧
    nextIs (exec (.srrd 9 0x00F) (wSr 0)) (fun t => (curSlot t).l2psel == 0xE000) = true := by decide +kernel
theorem test_srwr : nextIs (exec (.srwr 1 0x011) (wSr 0)) (fun t => (curSlot t).fpen == 0x3F) = true ∧
    nextIs (exec (.srset 2 0x011) (wSr 0)) (fun t => (curSlot t).fpen == 0x3F) = true ∧
    nextIs (exec (.srclr 1 0x011) (wSr 0)) (fun t => (curSlot t).fpen == 0) = true ∧ trapsWith (.srwr 1 0x030) (wSr 0) ⟨1, 0, 0, 0⟩ = true := by
  decide +kernel
theorem test_srwr_control : nextIs (exec (.srwr 1 0x030) (wSr 3072)) (fun t => (getCore t 3072).rqwt == 0xFFFFFFFF) = true ∧
    waitsFor (.srwr 1 0x040) (modCore (wSr 3072) 3072 fun k => { k with tlbBusy := some 3 }) = true ∧
    nextIs (exec (.srwr 2 0x012) (wSr 0)) (fun t => (curSlot t).fpctl == 8) = true := by decide +kernel

/-! ## The steps of register accesses -/

/-- Core 3's TLB holds a page of region 1 and one of region 2. -/
def wTlb : State := modCore (wSr 3072) 3 fun k => { k with tlb := [⟨1, devVa, 4096, 0⟩, ⟨2, devVa, 4096, 0⟩] }

def vpnOf (va : Nat) : BitVec 44 := BitVec.ofNat 44 (va / 4096)

/-- A write to the page of devVa is held at its controller, 4. -/
def held0 : HeldWrite := ⟨0x10000, ⟨whoAt 3 0, .store, .held 0 4 (phys devVa) 0, none, BitVec.ofNat 64 devVa, [7]⟩⟩

def wHeld : State := modDie (wSr 3072) 0 fun d => { d with holdq := [(4, [held0])] }

/-- A table image at 0x800 that gives every endpoint its boot direction; another with an unmatched endpoint at 0x900. -/
def bootTable : List Byte := (List.range 128).map fun i => BitVec.ofNat 8 (if i % 16 < 4 then 0 else if i % 16 < 8 then 1 else 2)

def wTable (ch : Option CtChange) : State :=
  let s := wSr 3072
  { s with
    mem := mwrite (mwrite s.mem 0x800 128 (leNat bootTable)) 0x900 128 (leNat (0#8 :: 1#8 :: bootTable.drop 2))
    ctChange := ch }

def tableNats : List Nat := bootTable.map BitVec.toNat

theorem witness_RegisterSteps : (pageNow wTlb 1 (4096 * (vpnOf devVa).toNat)).isSome = true ∧ (getCore (modCore wTlb 3072 fun k => { k with tlbBusy := some 3 }) 3072).tlbBusy = some 3 ∧
    accessesLeft wTlb 3 = false ∧ (pageNow wHeld 1 devVa).map (fun e => (e.2.1, e.2.2)) = some (0, 4) ∧
    (pageNow wHeld 1 devVa).map (fun e => heldOf (rootOf wHeld 1) e.1 held0) = some true ∧ held0 ∈ holdQueue wHeld 0 4 ∧
    holdQueue wTlb 0 4 = [] ∧ tableOk (wTable none) (tableImage (wTable none) 0x800) = true ∧ tableOk (wTable none) (tableImage (wTable none) 0x900) = false ∧
    inDram (wTable none) 0x800 = true ∧ (0x800#64).toNat / 2 ^ 7 % 2 ^ 45 * 128 = 0x800 := by decide +kernel

theorem witness_RegisterSteps_table : networkEmpty (wTable (some ⟨3072, tableNats, 0⟩)) = true ∧
    (wTable (some ⟨3072, tableNats, 2⟩)).ctChange = some ⟨3072, tableNats, 2⟩ ∧ getRegion (wSr 0) 1 = some region1 ∧ (wSr 0).mem.wf = true := by
  decide +kernel

theorem test_tlbinv : nextIs (exec (.tlbinvPage (vpnOf devVa)) wTlb) (fun t => (getCore t 3).tlb == [⟨2, devVa, 4096, 0⟩] && (getCore t 3072).tlbBusy == some 0) = true ∧
    nextIs (exec (.tlbinvPage (vpnOf (devVa + 4096))) wTlb) (fun t => (getCore t 3).tlb.length == 2) = true ∧
    nextIs (exec .tlbinvRegion wTlb) (fun t => (getCore t 3).tlb.length == 1) = true ∧
    nextIs (exec .tlbinvEveryRegion wTlb) (fun t => (getCore t 3).tlb == []) = true := by decide +kernel
theorem test_register_dones : nextIs (exec (.tlbInvalidationDone 3072) (modCore wTlb 3072 fun k => { k with tlbBusy := some 3 })) (fun t =>
      (getCore t 3072).tlbBusy == none) = true ∧
    nextIs (exec (.holdrel (vpnOf devVa)) wHeld) (fun t => (getCore t 3072).holdBusy == some (1, devVa)) = true ∧
    nextIs (exec (.holdReleaseDone 3072) (modCore wHeld 3072 fun k => { k with holdBusy := some (1, devVa) })) (fun t => mget t.mem (phys devVa) == 7 &&
      holdQueue t 0 4 == [] && (getCore t 3072).holdBusy == none) = true := by decide +kernel
theorem test_ctreq : nextIs (exec (.ctreq 0x800) (wTable none)) (fun t => t.ctChange == some ⟨3072, tableNats, 0⟩ && (getCore t 3072).ctBusy) = true ∧
    nextIs (exec (.ctreq 0x900) (wTable none)) (fun t => t.ctChange == none && (getCore t 3072).ctResult) = true ∧
    nextIs (exec (.circuitRetrained 3072) (wTable (some ⟨3072, tableNats, 2⟩))) (fun t => t.ctChange == some ⟨3072, tableNats, 1⟩ &&
      t.flights.map (fun f => f.due) == [40100]) = true := by decide +kernel
theorem test_table_switch : nextIs (exec (.connectionTableSwitch 3072) (wTable (some ⟨3072, tableNats, 0⟩))) (fun t => t.ctChange == none) = true := by
  decide +kernel
theorem test_register_writes : nextIs (exec (.rqlotWrite 0x100000000) (wSr 3072)) (fun t => (getCore t 3072).rqlot == 1) = true ∧
    nextIs (exec (.mxlotWrite 0x7) (wSr 3072)) (fun t => (getCluster t 0).mxlot == 7) = true ∧
    nextIs (exec (.pwrcapWrite 4000) (wSr 3072)) (fun t => t.pwrcap == 3600) = true ∧
    nextIs (exec (.fpctlWrite 0xD) (wSr 3072)) (fun t => (curSlot t).fpctl == 8) = true := by decide +kernel
/-- A log of two entries in a HALTED region. -/
theorem test_alogcnt_clear : nextIs (exec (.alogcntClear 1) { wSr 0 with mem := mwrite (mwrite (wSr 0).mem (region1.rcbPa + 8 * 21) 8 2) region1.rcbPa 8 (2 ^ 48 + 3 * 2 ^ 24) })
    (fun t => logCount t region1 == 0 && regStatus t region1 == 2) = true ∧
    nextIs (exec (.registerWrite false 0x011 5) (wSr 0)) (fun t => (curSlot t).fpen == 5) = true ∧
    leavesX (.l2prdRead 9) (wSr 0) 9 ((srRead (wSr 0) 0 0 0x00F).getD 1) = true := by decide +kernel

/-! ## TSYS -/

def tgt : Word := taskOf 5

/-- Control core 3072 names the task of slot 2 of core 5 (x1), none (x2), itself (x3), a queued task (x9); x4 a buffer, x5 misaligned,
x6 too high, x7 = mode 0xFFF << 16, x8 = 1. -/
def wTs (park : Park) : State :=
  let s := withRegion (atCore 3072 fun t => { t with x := [(1, tgt), (2, 99), (3, taskOf 3072), (4, 0x1000), (5, 0x1010), (6, 0x7C000), (7, 0xFFF0000), (8, 1), (9, 77)] })
  let s1 := setSlot s 5 2 { Slot.empty with held := true, gtid := tgt, region := 1, pc := 0x80, x := [(9, 0x99)], park := park, nextPc := 0x84 }
  modCore s1 5 fun k => { k with runq := [{ qTask 0 with gtid := 77 }] }

def stopped : Park := .trapped ⟨12, 0, 0, 0⟩

/-- The buffer has a reserved bit set; it is poisoned. -/
def wTsReserved : State := modCore (wTs stopped) 3072 fun k => { k with sp := mwrite [] 0x1068 8 1 }

def wTsPoison : State := modCore (wTs stopped) 3072 fun k => { k with poison := [0x1040 / 64] }

theorem witness_TaskControl : isCompute 3072 = false ∧ operandsFree (wTs stopped) [1, 4] (.x 10) = true ∧ soundSources (wTs stopped) [4] = true ∧
    sourceWords [1, 4] (wTs stopped) = some ([tgt, 0x1000], wTs stopped) ∧ (0x1000#64).toNat % 64 = 0 ∧ (0x1000 : Nat) + 3328 ≤ 0x7C000 ∧
    findTarget (wTs stopped) 3072 tgt = some (.slot 5 2) ∧ findTarget (wTs stopped) 3072 99 = none ∧
    findTarget (wTs stopped) 3072 77 = some (.queued 5 { qTask 0 with gtid := 77 }) ∧ (contextOf (wTs stopped) (.slot 5 2)).isSome = true ∧
    contextOf (wTs .none) (.slot 5 2) = none ∧ bufferBad (wordsOf 352 (spRead (wTs stopped) 3072 0x1000 2816)) (wordsOf 64 (spRead (wTs stopped) 3072 (0x1000 + 2816) 512)) = false ∧
    bufferBad (wordsOf 352 (spRead wTsReserved 3072 0x1000 2816)) (wordsOf 64 (spRead wTsReserved 3072 (0x1000 + 2816) 512)) = true ∧
    spBad (wTs stopped) 3072 0x1000 3328 = false ∧ spBad wTsPoison 3072 0x1000 3328 = true ∧
    isStopped (getSlot (wTs stopped) 5 2) = true ∧ isStopped (getSlot (wTs .none) 5 2) = false ∧ resumeCoreOk (wTs stopped) 1 0xFFF = true ∧
    sourceWords [1, 7] (wTs stopped) = some ([tgt, 0xFFF0000], wTs stopped) ∧ serialTask (getCore (wTs .none) 5) (getSlot (wTs .none) 5 2).origin = false := by
  decide +kernel

def stallIs (o : Except Machine.Stop (Unit × State)) : Option Bool :=
  match o with
  | .ok _ => some false
  | .error .stall => some true
  | .error (.trap _) => none
  | .error (.await _) => none
  | .error .seal => none

def asked (kill : Bool) : State := modSlot (wTs .none) 5 2 fun t => { t with stop := some kill, stopper := some (whoAt 3072 6) }

/-- Region 1 has no context. -/
def wNoContext : State := { asked false with regions := [(1, { region1 with ctxn := 0 })] }

theorem witness_TaskControl_stops : stallIs (stallBehind tgt (wTs .none)) = some false ∧ stallIs (stallBehind tgt (asked true)) = some true ∧
    stopReady (asked true) 5 2 = true ∧ stopReady (asked false) 5 2 = true ∧ (getSlot (asked true) 5 2).trapNext = none ∧
    (getCore (asked true) 5).gang = none ∧ (getSlot (asked true) 5 2).stopper = some (whoAt 3072 6) ∧ freeContext (asked false) region1 = some 0 ∧
    freeContext wNoContext { region1 with ctxn := 0 } = none ∧ stopReady wNoContext 5 2 = true := by decide +kernel

def statusSent (o : Res) (st : Word) : Bool := nextIs o fun t => (sentOps t).any fun e => e == .barrierAnswer (whoAt 3072 0) st
  || e == .barrierAnswer ⟨3072, 0, taskOf 3072, 0⟩ st

theorem test_tctx : statusSent (exec (.tctxrd 10 1 4) (wTs stopped)) 0 = true ∧ statusSent (exec (.tctxrd 10 1 4) (wTs .none)) 2 = true ∧
    statusSent (exec (.tctxwr 10 2 4) (wTs stopped)) 1 = true ∧ trapsWith (.tctxrd 10 1 5) (wTs stopped) ⟨3, 0, 0, 0x1010⟩ = true := by decide +kernel
theorem test_tctxwr : nextIs (exec (.tctxwr 10 1 4) (modCore (wTs stopped) 3072 fun k => { k with sp := mwrite (mwrite [] 0x1008 8 0x64) (0x1000 + 8 * 20) 8 77 })) (fun t =>
      (getSlot t 5 2).pc == 0x64 && getX (getSlot t 5 2) 4 == 77 && (getSlot t 5 2).gtid == tgt) = true ∧
    trapsWith (.tctxwr 10 1 6) (wTs stopped) ⟨4, 0, 0, 0x7C000⟩ = true ∧ statusSent (exec (.tctxwr 10 1 4) wTsReserved) 5 = true ∧
    trapsWith (.tctxwr 10 1 4) wTsPoison ⟨11, 0, 0, 0x1000⟩ = true := by decide +kernel
theorem test_tresume : statusSent (exec (.tresume 10 1 7) (wTs .none)) 2 = true ∧ statusSent (exec (.tresume 10 1 4) (wTs stopped)) 5 = true ∧
    nextIs (exec (.tresume 10 1 7) (wTs stopped)) (fun t => (getSlot t 5 2).park == .none && (getSlot t 5 2).pc == 0x80) = true := by decide +kernel
theorem test_tkill_tpreempt : nextIs (exec (.tkill 10 1) (wTs .none)) (fun t => (getSlot t 5 2).stop == some true && (curSlot t).park == .answer 10 0) = true ∧
    statusSent (exec (.tkill 10 3) (wTs .none)) 2 = true ∧ waitsFor (.tkill 10 1) (asked true) = true ∧
    nextIs (exec (.tpreempt 10 1 8) (wTs .none)) (fun t => (getSlot t 5 2).stop == some false && (getSlot t 5 2).stopRequeue) = true := by decide +kernel
theorem test_task_stop : nextIs (exec (.taskStop 5 2) (asked true)) (fun t => !(getSlot t 5 2).held && sentOps t == [.barrierAnswer (whoAt 3072 6) 0]) = true ∧
    nextIs (exec (.taskStop 5 2) (asked false)) (fun t => !(getSlot t 5 2).held && t.saved.map (fun v => (v.ctx, v.core)) == [(0, 5)]) = true ∧
    nextIs (exec (.taskStop 5 2) wNoContext) (fun t => (getSlot t 5 2).held && sentOps t == [.barrierAnswer (whoAt 3072 6) 4]) = true := by decide +kernel

end Sys2Proof.Tests
end

