-- ==== Sys2Proof/Tests/Package.lean ====
section
/-! SUPPORT. Regions, the host port, power, boot, scrubbing, sealing, the package network, tracing and replay: witnesses of the
hypotheses of the statements about them, and single results by hand from the rules. -/

namespace Sys2Proof.Tests

set_option Elab.async false

open Machine

/-! ## Regions -/

def rcbPa3 : Nat := phys (2 ^ 32 + 0x800000)

/-- A control block (16 R311) of region 3 for die 0, cluster 0: an image of no bytes, its log and page tables, entry at PC word 0x40. -/
def wBlock (w4 : Nat) : State :=
  let m := mwrite (mwrite [] 0x100000 8 0x20005) (0x20000 + 32) 8 0x40000003
  let m1 := mwrite (mwrite m rcbPa3 8 (3 * 2 ^ 48 + 0xFFF)) (rcbPa3 + 32) 8 w4
  let m2 := mwrite (mwrite m1 (rcbPa3 + 8 * 7) 8 0x100000) (rcbPa3 + 8 * 11) 8 (2 ^ 32)
  let m3 := mwrite m2 (rcbPa3 + 8 * 18) 8 1
  { State.reset with mem := mwrite (mwrite m3 (rcbPa3 + 8 * 15) 8 0x40) (rcbPa3 + 8 * 20) 8 (2 ^ 32 + 0x600000) }

def goodWord4 : Nat := 200 * 2 ^ 24 + 1 * 2 ^ 8 + 1

/-- The host's START and KILL of it, with a reply on tag 9 asked for. -/
def hostMsg (tag pa : Nat) : Msg :=
  ⟨BitVec.ofNat 64 (4095 * 2 ^ 32 + 3 * 2 ^ 28 + tag * 2 ^ 20 + 255 * 2 ^ 12 + 3136), [BitVec.ofNat 64 pa, 0x109, BitVec.ofNat 64 (2 ^ 32 + 0x800000)],
    noWho 4095, false⟩

def outcomeIs (s : State) (m : Msg) : Option Nat :=
  match startOutcome s m rcbPa3 (2 ^ 32 + 0x800000) with
  | .ok _ => none
  | .error n => some n

theorem witness_Regions_start : startPlace (wBlock goodWord4) (hostMsg 0 rcbPa3) = some (rcbPa3, 2 ^ 32 + 0x800000) ∧
    startPlace (wBlock goodWord4) (hostMsg 0 (2 ^ 52)) = none ∧ outcomeIs (wBlock goodWord4) (hostMsg 0 rcbPa3) = none ∧
    outcomeIs (wBlock (goodWord4 + 2)) (hostMsg 0 rcbPa3) = none ∧ outcomeIs (wBlock (goodWord4 - 1)) (hostMsg 0 rcbPa3) = some 2 ∧
    outcomeIs { wBlock goodWord4 with regions := [(3, region1)] } (hostMsg 0 rcbPa3) = some 4 ∧
    startLines (wBlock goodWord4) (hostMsg 0 rcbPa3) = [] := by decide +kernel

/-- Region 1 RUNNING with a child, whose OTC is 0; a task of it in slot 0 of core 0; a joiner parked on it in slot 4 of core 7. -/
def wRun : State :=
  let s := wM
  let s1 := setSlot s 7 4 { Slot.empty with held := true, gtid := taskOf 7, region := 0, park := .join 9 (phys rcbVa1), nextPc := 0x44 }
  { s1 with regions := [(1, { region1 with startedBy := hostMsg 0 0 })] }

def parentMsg : Msg := ⟨0, [BitVec.ofNat 64 rcbVa1], whoAt 0 0, false⟩

theorem witness_Regions_end : startPlace wRun (hostMsg 1 (phys rcbVa1)) = some (phys rcbVa1, 2 ^ 32 + 0x800000) ∧
    (regionAt wRun (phys rcbVa1)).map (fun r => r.id) = some 1 ∧ fromHost (hostMsg 1 0) = true ∧ fromHost parentMsg = false ∧
    canComplete wRun 1 = true ∧ canComplete wRun 2 = false ∧ (getRegion wRun 1).map (fun r => (r.parent, r.id)) = some (0, 1) ∧
    regionAt wRun 0x5000 = none ∧ (getSlot wRun 7 4).park = .join 9 (phys rcbVa1) := by decide +kernel

theorem test_start : nextIs (exec (.start (hostMsg 0 rcbPa3)) (wBlock goodWord4)) (fun t => (getRegion t 3).map (fun r => (regStatus t r, r.dies, r.entry)) == some (2, 1, 0x40) &&
    (sentOps t).any fun e => e == .spawnPlace 0 none ⟨3, .spawn 0 (BitVec.ofNat 64 (2 ^ 32 + 0x800000)) 0x40 0 0 0 true⟩) = true := by decide +kernel
theorem test_start_refused : nextIs (exec (.start (hostMsg 0 rcbPa3)) (wBlock (goodWord4 - 1))) (fun t => t.regions == [] &&
    (sentOps t).any fun e => match e with
      | .messageArrive m => m.pay == [BitVec.ofNat 64 rcbPa3, 0x3000000000002] && hdrTag m.hdr == 9
      | _ => false) = true := by decide +kernel
theorem test_kill : nextIs (exec (.kill (hostMsg 1 (phys rcbVa1))) wRun) (fun t => (getRegion t 1).map (fun r => (r.dying, r.killCause)) == some (true, some (7, 2)) &&
    (getSlot t 0 0).stop == some true) = true ∧ goesTo (exec (.kill parentMsg) wRun) wRun = true := by decide +kernel
theorem test_region_complete : nextIs (exec (.regionComplete 1) wRun) (fun t => t.regions == [] && getX (getSlot t 7 4) 9 == 0x0400000000000000 &&
    (getSlot t 7 4).pc == 0x44) = true ∧ goesTo (exec (.regionComplete 2) wRun) wRun = true := by decide +kernel

/-! ## The host port -/

def withHost (f : HostPort → HostPort) : State := { wM with host := f wM.host }

def hostWords : List Word := [0x1003FF000, 5, 0, 0, 0, 0, 0, 0]

theorem witness_HostPort : wM.mem.wf = true ∧ inHostWindow (2 ^ 49) = true ∧ inHostWindow (2 ^ 49 + 2 ^ 44 - 1) = true ∧
    inHostWindow (2 ^ 49 - 1) = false ∧ inDram wM 0x5000 = true ∧ inReserved 0x5000 = false ∧ inDram wM (2 ^ 48) = false ∧
    wM.host.stage < 5 ∧ 5 ≤ (withHost fun h => { h with stage := 5 }).host.stage ∧ hostWords.length = 8 ∧ hdrTag (hostWords.getD 0 0) < 0xFC ∧
    wM.host.busy = false ∧ (withHost fun h => { h with busy := true }).host.busy = true := by decide +kernel

theorem test_host_access : nextIs (exec (.hostMemoryAccess 0x5000 (some [1, 2]) 2 false) wM) (fun t => mgets t.mem 0x5000 3 == [1, 2, 0]) = true ∧
    nextIs (exec (.hostMemoryAccess (phys devVa) none 2 true) wT) (fun t => t.outbox.getLast? == some (.hostData (phys devVa) [0, 0]) &&
      snoopLines t (phys devVa) == [phys devVa / 64]) = true ∧ goesTo (exec (.hostMemoryAccess (2 ^ 48) (some [1]) 1 false) wM) wM = true := by decide +kernel
theorem test_host_message : goesTo (exec (.hostMessageWrite 0 hostWords) wM) wM = true ∧
    nextIs (exec (.hostMessageWrite 8 hostWords) (withHost fun h => { h with stage := 5 })) (fun t => t.host.hmdrop == 1) = true ∧
    nextIs (exec (.hostMessageWrite 64 hostWords) (withHost fun h => { h with stage := 5 })) (fun t => (sentOps t).any fun e => match e with
      | .messageArrive m => hdrScore m.hdr == 4095 && m.pay == []
      | _ => false) = true := by decide +kernel
theorem test_control_page : nextIs (exec (.hrheadWrite 0x10003) (withHost fun h => { h with intOut := true })) (fun t => t.host.hrhead == 3 && !t.host.intOut) = true ∧
    nextIs (exec (.registerWrite true 0x038 0x12345) wM) (fun t => t.host.secbuf == 0x12000) = true ∧
    nextIs (exec (.registerWrite true 0x030 0) wM) (fun t => t.host.busy && sentOps t == [.securityRequestDone 1 0]) = true ∧
    nextIs (exec (.expanderSnoop 2 64) wM) (fun t => t.outbox == [.snoopReply 2 64]) = true := by decide +kernel

/-- Key slot 4 is of region 9, which has ended; slot 5 of region 1. -/
def wKeys : State := withHost fun h => { h with keys := [(4, ⟨9, [], false⟩), (5, ⟨1, [], false⟩)] }

theorem witness_SecurityRequests : (getRegion wM 7).isNone = true ∧ (getRegion wM 1).isSome = true ∧ (withHost fun h => { h with leaf := 2 ^ 20 }).host.leaf = 2 ^ 20 ∧
    wM.host.leaf < 2 ^ 20 ∧ tfind wKeys.host.keys 6 = none ∧ (tfind wKeys.host.keys 4).map (fun k => k.region) = some 9 ∧
    (tfind wKeys.host.keys 5).map (fun k => k.region) = some 1 ∧ (getRegion wKeys 9).isNone = true ∧ tfind wM.host.keys 1 = none := by decide +kernel

/-- Whether a key transport decapsulates is not fixed: each outcome's hypothesis is one of the two. -/
theorem witness_SecurityRequests_transport (b : List Byte) : Config.kemDecapsulate b = none ∨ ∃ k, Config.kemDecapsulate b = some k := by
  cases Config.kemDecapsulate b with
  | none => exact .inl rfl
  | some k => exact .inr ⟨k, rfl⟩

theorem test_security : nextIs (exec (.attest 7) wM) (fun t => sentOps t == [.securityRequestDone 5 0]) = true ∧
    nextIs (exec (.attest 0) (withHost fun h => { h with leaf := 2 ^ 20 })) (fun t => sentOps t == [.securityRequestDone 3 0]) = true ∧
    nextIs (exec (.keyload 0 false) wM) (fun t => sentOps t == [.securityRequestDone 1 0]) = true ∧
    nextIs (exec (.securityRequestDone 2 6) (withHost fun h => { h with busy := true })) (fun t => !t.host.busy && t.host.result == 2 && t.host.rslot == 6) = true := by
  decide +kernel
theorem test_keyfree : nextIs (exec (.keyfree 0 4) wKeys) (fun t => sentOps t == [.securityRequestDone 0 0] && (tfind t.host.keys 4).isNone) = true ∧
    nextIs (exec (.keyfree 0 5) wKeys) (fun t => sentOps t == [.securityRequestDone 1 0]) = true := by decide +kernel

/-! ## Power and boot -/

theorem witness_PowerAndBoot : (([4000] : List Nat)[0]?) = some 4000 ∧ State.reset.pwrcap.toNat * 1 < 4000 ∧ (3000 : Nat) + 100 < State.reset.pwrcap.toNat ∧
    (getDie State.reset 0).leaf < 2 ^ 20 ∧ 2 ^ 20 ≤ (getDie (modDie State.reset 3 fun d => { d with leaf := 2 ^ 20 }) 3).leaf ∧
    ([⟨0, true, [5]⟩, ⟨3, false, []⟩] : List BootDie).find? (fun e => e.die == 3) = some ⟨3, false, []⟩ := by decide +kernel

theorem test_governor : nextIs (exec (.governorTick 4000) State.reset) (fun t => t.duty == 240 && t.pwrSum == [4000]) = true ∧
    nextIs (exec (.governorTick 3000) { State.reset with duty := 100 }) (fun t => t.duty == 108) = true ∧
    nextIs (exec (.governorTick 3550) { State.reset with duty := 100 }) (fun t => t.duty == 100) = true := by decide +kernel
theorem test_telemetry : nextIs (exec (.telemetrySample 900 [100, 200]) State.reset) (fun t => t.pkgPwr == 900 && (getDie t 1).pwr == 200 &&
    (getDie t 1).energy == 200000) = true := by decide +kernel
theorem test_reset_failed : nextIs (exec (.packageReset ⟨6, 3, [], []⟩) wKeys) (fun t => t.host.err == 3 && t.host.stage == 1 && t.chipId == 6 && t.mem == [] &&
      t.flights == []) = true := by decide +kernel

/-! ## Scrubbing and sealing -/

theorem witness_ScrubbingAndSealing : inDram wM 0x5000 = true ∧ inDram wM (2 ^ 48) = false ∧ (getDie wM 0).excluded = false ∧ (5 : Nat) < 3136 ∧
    (3136 : Nat) ≤ 3136 ∧ tget (getCore (modCore wM 0 fun k => { k with lineOwner := [(4, 1)] }) 0).lineOwner (0x100 / 64) 0 ≠ 0 := by decide +kernel

theorem test_scrub : nextIs (exec (.sramScrub 0 0x100 false) wM) (fun t => tget (getDie t 0).ec 0 0 == 1) = true ∧
    nextIs (exec (.sramScrub 0 0x100 true) wM) (fun t => tget (getDie t 0).ec 1 0 == 1 && spBad t 0 0x100 1) = true ∧
    nextIs (exec (.dramScrub 0x5000 true) wM) (fun t => tget (getDie t 0).ec 3 0 == 1 && physBad t 0x5000 1) = true ∧
    goesTo (exec (.dramScrub (2 ^ 48) true) wM) wM = true := by decide +kernel
theorem test_core_seal : nextIs (exec (.coreSeal 0) wM) (fun t => !liveCore t 0 && (getCore t 0).sp == [] && !(getSlot t 0 0).held &&
    (getDie t 0).gen == 1) = true ∧ goesTo (exec (.coreSeal 3136) wM) wM = true := by decide +kernel

/-! ## The package network -/

/-- A store of core 0 to core 500, of die 1, is on its way. -/
def wFlit : State := sendTo wM (taskSrc 0 (taskOf 0)) (.core 500) (.dispatch 0)

theorem witness_PackageNetwork_circuits : wFlit.flights.map (fun f => (f.id, f.chan.isSome)) = [(0, true)] ∧ placeDie (.core 500) = some 1 ∧
    (getCircuit wM 0 0).paused = false ∧ (getCircuit wM 0 0).retraining = false ∧
    (getCircuit (setCircuit wM 0 0 ⟨0, true, true, false⟩) 0 0).paused = true := by decide +kernel

theorem test_circuits : nextIs (exec (.flitReceive 0 false) wFlit) (fun t => tget (getDie t 1).ec 7 0 == 1) = true ∧
    nextIs (exec (.outputSpill 0 2) wM) (fun t => (getCircuit t 0 2).spilling && !(getCircuit t 0 3).spilling) = true ∧
    nextIs (exec (.spillDrain 0 2) (setCircuit wM 0 2 ⟨0, false, true, false⟩)) (fun t => !(getCircuit t 0 2).spilling) = true := by decide +kernel
theorem test_calibration : nextIs (exec (.calibrationPause 0 0) wM) (fun t => (getCircuit t 0 0).paused && (getCircuit t 1 4).paused &&
      t.flights.map (fun f => f.due) == [4100]) = true ∧
    nextIs (exec (.calibrationEnd 0 0) (setPaused wM 0 0 true)) (fun t => !(getCircuit t 0 0).paused && !(getCircuit t 1 4).paused) = true := by decide +kernel

/-- Port 2 reaches chip 9; frame 7 with one message is not acknowledged. -/
def wPort (up : Bool) (un : List (Nat × List Msg)) (now : Nat) : State :=
  { wM with cycle := now, ports := [(2, ⟨up, 9, 8, 4, un, 100, 100, 0⟩)] }

def farMsg (seq : Nat) : Msg := ⟨BitVec.ofNat 64 (seq * 2 ^ 52 + 9 * 2 ^ 44 + 6 * 2 ^ 32 + 3 * 2 ^ 20 + 255 * 2 ^ 12), [], noWho 6, false⟩

def frameOf (n : Nat) (m : Msg) : FramePkt := ⟨2, 0x9A17, 0, 9, n, 7, false, false, [m]⟩

theorem witness_PackageNetwork_ports : (getPort (wPort true [(7, [msgTo 0 3])] 100) 2).up = true ∧ (frameOf 4 (farMsg 0)).dstChip = (wPort true [] 100).chipId ∧
    (frameOf 4 (farMsg 0)).fseq = (getPort (wPort true [] 100) 2).expect ∧ (frameOf 5 (farMsg 0)).fseq ≠ (getPort (wPort true [] 100) 2).expect ∧
    (hdrSeq (farMsg 0).hdr + 4096 - 0) % 4096 < 2048 ∧ 2048 ≤ (hdrSeq (farMsg 4095).hdr + 4096 - 0) % 4096 ∧
    (getPort (wPort true [(7, [msgTo 0 3])] 20100) 2).oldestAt + 20000 ≤ 20100 ∧ (getPort (wPort true [(7, [msgTo 0 3])] 200100) 2).lastAckAt + 200000 ≤ 200100 ∧
    ((List.range 12).all fun q => q == 2 || !(getPort (wPort true [] 100) q).up) = true ∧ (11 : Nat) < 12 := by decide +kernel

theorem test_frames : nextIs (exec (.frameReceive (frameOf 4 (farMsg 0))) (wPort true [] 100)) (fun t => (getPort t 2).expect == 5 && (sentOps t).length == 1) = true ∧
    nextIs (exec (.frameReceive (frameOf 4 (farMsg 4095))) (wPort true [] 100)) (fun t => (getPort t 2).expect == 5 && sentOps t == []) = true ∧
    nextIs (exec (.frameReceive (frameOf 5 (farMsg 0))) (wPort true [] 100)) (fun t => t.outbox == [.frameAck 2 4 true]) = true ∧
    nextIs (exec (.frameReceive { frameOf 4 (farMsg 0) with ethertype := 0x800 }) (wPort true [] 100)) (fun t => (getPort t 2).dropped == 1 && t.outbox == []) = true := by decide +kernel
theorem test_port_timers : nextIs (exec (.retransmitTimeout 2) (wPort true [(7, [msgTo 0 3])] 20100)) (fun t => t.outbox == [.frame 2 7, .chip 9 (msgTo 0 3)] &&
      t.flights.map (fun f => f.due) == [40100]) = true ∧
    nextIs (exec (.portDown 2) (wPort true [(7, [msgTo 0 3])] 200100)) (fun t => !(getPort t 2).up && (sentOps t).length == 1) = true ∧
    goesTo (exec (.portDown 2) (wPort true [(7, [msgTo 0 3])] 200099)) (wPort true [(7, [msgTo 0 3])] 200099) = true := by decide +kernel
/-- A message to chip 9, which no port reaches, bounces with reason 2. -/
def wLost : State := sendTo wM (taskSrc 0 (taskOf 0)) (.chip 9) (.messageArrive (msgTo 0 3))
theorem witness_PackageNetwork_unreachable : wLost.flights.all (fun f => Machine.waitsFor 9 f) = true ∧
    ((List.range 12).all fun q => !(getPort wLost q).up) = true := by decide +kernel
theorem test_ports : nextIs (exec (.portTraining 3 9) wM) (fun t => (getPort t 3).up && (getPort t 3).far == 9) = true ∧
    goesTo (exec (.portTraining 12 9) wM) wM = true ∧
    nextIs (exec (.chipUnreachable 9) wLost) (fun t => sentOps t == [.bounce (msgTo 0 3) 2]) = true := by decide +kernel

/-! ## Tracing and replay -/

/-- Die 0's ring of 4 records at devVa. -/
def wTrace (head tail : Nat) : State := modDie wM 0 fun d => { d with
  trbase := BitVec.ofNat 64 devVa, trsize := 4, trhead := BitVec.ofNat 64 head, trtail := BitVec.ofNat 64 tail, trRegion := 1 }

/-- Region 1 replays on die 0, and core 4 has waited 2,000,000 cycles for its first entry. -/
def wReplay (mode : Nat) : State :=
  let s := modDie wM 0 fun d => { d with rprgn := 1, rpsize := 8, rpNext := [(4, [(0, 5, 100)])] }
  { s with cycle := 2000100, regions := [(1, { region1 with replay := mode })] }

theorem witness_TraceAndReplay : (getDie (wTrace 0 2) 0).trsize ≠ 0 ∧ (2 + 1) % 4 ≠ (getDie (wTrace 0 2) 0).trhead.toNat ∧
    (2 + 1) % 4 = (getDie (wTrace 3 2) 0).trhead.toNat ∧ (vaPlaces (wTrace 0 2) 1 (devVa + 64) 32).isSome = true ∧
    (getDie wM 0).trsize = 0 ∧ expected wM 4 = [] ∧ expected (wReplay 2) 4 = [(0, 5, 100)] ∧ replayMode (wReplay 2) 0 1 = 2 ∧
    replayMode (wReplay 1) 0 1 < 2 ∧ (100 : Nat) + 2000000 ≤ (wReplay 2).cycle := by decide +kernel

theorem test_trace_record : nextIs (exec (.traceRecordWrite 0 ⟨1, 2, 3, 4⟩) (wTrace 0 2)) (fun t => mread t.mem (phys devVa + 64 + 8) 8 == 2 && (getDie t 0).trtail == 3) = true ∧
    nextIs (exec (.traceRecordWrite 0 ⟨1, 2, 3, 4⟩) (wTrace 3 2)) (fun t => (getDie t 0).trdrop == 1 && (getDie t 0).trtail == 2) = true := by decide +kernel
theorem test_replay_timeout : nextIs (exec (.replayTimeout 0 4) (wReplay 2)) (fun t => (getRegion t 1).map (fun r => (r.replay, r.killCause)) == some (0, some (5, 6))) = true ∧
    goesTo (exec (.replayTimeout 0 4) (wReplay 1)) (wReplay 1) = true := by decide +kernel

end Sys2Proof.Tests
end

