-- ==== Sys2Proof/Tests/Core.lean ====
section
/-! SUPPORT. The matrix engine, the queue registers and the step itself: witnesses of the hypotheses of the statements about them,
and single results by hand from the rules. -/

namespace Sys2Proof.Tests

set_option Elab.async false

open Machine

/-! ## The matrix engine -/

/-- Records of a 1 by 1 by 1 product in FP64 (R212, R216): A and B in the scratchpad at 0x1000 and 0x1008, the output at 0x1010 of
core 0 with tag 9. -/
def recordA : Nat := 0x1000 + 2 ^ 64 * 8 + 2 ^ 128 * (2 ^ 32 + 1) + 2 ^ 192 * 2

def recordB : Nat := 0x1008 + 2 ^ 64 * 8 + 2 ^ 128 * (2 ^ 32 + 1) + 2 ^ 192 * 2

def recordO : Nat := 2 ^ 128 * 0x1010 + 2 ^ 192 * 8 + 2 ^ 256 * (9 * 2 ^ 23 + 2 ^ 18)

/-- x10, x11, x12 = the places of the output, A and B records; 2.0 times 3.0; x13 is not aligned. -/
def wMma : State := modCore (inRegion [(10, 0x180), (11, 0x100), (12, 0x140), (13, 0x108)]) 0 fun k => { k with
  sp := mwrite (mwrite (mwrite (mwrite (mwrite [] 0x100 64 recordA) 0x140 64 recordB) 0x180 64 recordO) 0x1000 8 0x4000000000000000)
    0x1008 8 0x4008000000000000 }

def wMmaNop : State := { wMma with cur := { wMma.cur with cIsNop := true } }

def qMma : MmaReq := ⟨curWho wMma, 1, 0, 0x180, 0x100, 0x140, 0x3F800000, 0x3F800000, 0, [], none⟩

/-- It is the one pending MMA of its cluster, its task parked. -/
def wPending (q : MmaReq) : State := modCluster (modCur wMma fun t => { t with park := .mma, nextPc := 0x48 }) 0 fun k => { k with
  mmaPending := [q] }

def runMma (writing : Bool) (waits : List Nat) (pieces : List (List Byte)) : MmaRun :=
  ⟨qMma, recordA, recordB, recordO, none, false, 0, 0, 0, none, pieces, [], writing, 60, waits, [(0, taskOf 0, 1)], 0, none⟩

/-- The engine holds it. -/
def wRunning (r : MmaRun) : State := modCluster (modCur wMma fun t => { t with park := .mma, nextPc := 0x48 }) 0 fun k => { k with
  mmaRun := some r }

/-- The operands of the product as the engine reads them: 3.0 of B, then 2.0 of A. -/
def readB : List Byte := natLe 8 0x4008000000000000

def readA : List Byte := natLe 8 0x4000000000000000

def computed (r : MmaRun) : Bool :=
  match mxCompute ⟨0, 0, 0, 1⟩ r (wRunning r, r.pieces) with
  | .ok (rows, _) => (mxRefused (wRunning r) 0 8 rows).isNone && rows.map (fun x => x.elems.map fun e => e.bits) == [[0x4018000000000000]] &&
    twinSays ⟨0, 0, 0, 1⟩ r rows (wRunning r) == .agrees
  | .error _ => false

/-- The next piece that the engine reads. -/
def nextPiece (r : MmaRun) : Option (List Byte) :=
  match mxCompute ⟨0, 0, 0, 1⟩ r (wRunning r, r.pieces) with
  | .error (.more bs _) => some bs
  | .error (.trap _ _) => none
  | .error (.line _) => none
  | .ok _ => none

/-- The same MMA of a pair whose members read different operands: the other's A record names what B holds. -/
def runTwin (again : Bool) : MmaRun :=
  { runMma false [] [readB, readA] with
    req := { qMma with twin := some ⟨0x180, 0x100, 0x140, 0x3F800000, 0x3F800000⟩ }
    twin := some (recordA + 8, recordB, recordO), again := again, twinPieces := [readB, readB] }

def differs (r : MmaRun) : Bool :=
  match mxCompute ⟨0, 0, 0, 1⟩ r (wRunning r, r.pieces) with
  | .ok (rows, _) => (mxRefused (wRunning r) 0 8 rows).isNone && twinSays ⟨0, 0, 0, 1⟩ r rows (wRunning r) == .differs
  | .error _ => false

theorem witness_MatrixIssue : mmaForms[0]?.isSome = true ∧ isCompute wMmaNop.cur.core = true ∧ wMmaNop.cur.cIsNop = true ∧
    wellFormed (.mmaD ⟨10, 11, 12, 0, 0⟩) = true ∧ operandsFree wMmaNop [11, 12, 10] .none = true ∧
    soundSources wMmaNop [11, 12, 10] = true ∧ sourceWords [11, 12, 10] wMmaNop = some ([0x100, 0x140, 0x180], wMmaNop) ∧
    sourceWords [13, 12, 10] wMmaNop = some ([0x108, 0x140, 0x180], wMmaNop) := by decide +kernel

theorem witness_MatrixAccept : (getCluster (wPending qMma) 0).mmaRun = none ∧ (getCluster (wPending qMma) 0).mmaIdle = false ∧
    (mmaDraw (wPending qMma) 0).map (fun e => e.1) = some qMma ∧ mmaDraw wMma 0 = none ∧
    ((mmaDraw (wPending qMma) 0).map fun e => mmaReady e.2 e.1) = some true ∧ mmaSlot (wPending qMma) qMma.who = some (0, 0) ∧
    shapeFault (wPending qMma) 0 0 0 recordA recordB recordO = none ∧
    shapeFault (wPending qMma) 0 1 0 recordA recordB recordO = some 0x2001 := by decide +kernel

theorem witness_MatrixBlock : (getCluster (wRunning (runMma false [] [])) 0).mmaRun = some (runMma false [] []) ∧
    (getCluster (wRunning (runMma false [] [])) 0).mmaIdle = false ∧ slotsComing (wRunning (runMma false [] [])) 0 (runMma false [] []) = false ∧
    (runMma false [] []).line = none ∧ nextPiece (runMma false [] []) = some readB ∧ nextPiece (runMma false [] [readB]) = some readA ∧
    computed (runMma false [] [readB, readA]) = true ∧ mmaSlot (wRunning (runMma false [] [])) qMma.who = some (0, 0) ∧
    differs (runTwin false) = true ∧ (runTwin true).again = true := by decide +kernel

theorem witness_MatrixRetires : (runMma true [5] []).waits ≠ [] ∧ (rExt (runMma true [] []).recA + 15) / 16 ≤ (runMma true [] []).blk + 1 ∧
    (getSlot (wRunning (runMma true [] [])) 0 0).fpen = 0 ∧ (getSlot (wRunning (runMma true [] [])) 0 0).trapNext = none ∧
    (getCore (wRunning (runMma true [] [])) 0).heldRel = [] := by decide +kernel

theorem test_mma_issue : nextIs (exec (.mmaD ⟨10, 11, 12, 0, 0⟩) wMmaNop) (fun t => (getCluster t 0).mmaPending == [qMma] &&
      (curSlot t).park == .mma) = true ∧ trapsWith (.mmaD ⟨10, 13, 12, 0, 0⟩) wMmaNop ⟨3, 0, 0, 0x108⟩ = true := by decide +kernel
theorem test_mma_accept : nextIs (exec (.mmaAccept 0) (wPending qMma)) (fun t => (getCluster t 0).mmaPending.isEmpty &&
    (getCluster t 0).mmaRun.map (fun r => (r.pieces, r.blk)) == some ([readB], 0)) = true := by decide +kernel
theorem test_mma_block : nextIs (exec (.rowBlockComplete 0) (wRunning (runMma false [] [readB, readA]))) (fun t => t.flights.any fun f =>
    match f.act with
    | .remoteWrite w => decide (w.loc = .sp 0 0x1010) && w.data == [0, 0, 0, 0, 0, 0, 0x18, 0x40]
    | _ => false) = true ∧
    nextIs (exec (.rowBlockComplete 0) (wRunning (runTwin true))) (fun t => trapOf (getSlot t 0 0) == some ⟨15, 1, 0, 0⟩) = true := by decide +kernel
theorem test_mma_retires : nextIs (exec (.rowBlockComplete 0) (wRunning (runMma true [] []))) (fun t => (getCluster t 0).mmaRun.isNone &&
    (curSlot t).pc == 0x48 && (curSlot t).park == .none) = true := by decide +kernel

/-! ## Queue registers -/

/-- Words waiting in q3, q6, q7 and q11, and a free node in the pool of core 0. -/
def wQueues : State := modCore (modCur (inRegion []) fun t => { t with q3 := [0x500], q6 := [7, 8], q7 := [1], q11 := [9], reserved := [refWord 1 0 5] }) 0
  fun k => { k with freeNodes := [(1, 5)] }

/-- A pair is on its way to the bag: its second word is produced in cycle 102. -/
def wPushed : State := modCur wQueues fun t => { t with q10 := [(refWord 1 0 5, 101), (refWord 1 0 6, 102)] }

/-- A control core's task, and half a notification waiting. -/
def wCtl (h : Option Word) : State := withRegion (atCore 3072 fun t => { t with q13Half := h })

/-- A header for core 2 with one payload word, and one without. -/
def header (n : Nat) : Word := BitVec.ofNat 64 (n * 2 ^ 28 + 9 * 2 ^ 20 + 255 * 2 ^ 12 + 2)

/-- The die accepts trace records. -/
def tracing (n : Nat) : State := modDie (modCur wQueues fun t => { t with q12 := List.replicate n ⟨0, 1, 0, 0, 0⟩ }) 0 fun d => { d with
  trctl := 1, trsize := 0x1000 }

def oneNotice : State :=
  { wCtl none with regions := [(1, { region1 with nqbase := devVa, nqsize := 4 })], mem := mwrite (mwrite (wCtl none).mem (phys rcbVa1 + 144) 8 (1 * 2 ^ 32)) (phys devVa) 8 0x77 }

theorem witness_QueueRegisters : queueReadable wQueues.cur.core 3 = true ∧ (curSlot wQueues).q3 = 0x500 :: [] ∧ (curSlot wMma).q3 = [] ∧
    (curSlot wQueues).q6 = 7 :: [8] ∧ (curSlot wMma).q6 = [] ∧ (curSlot wQueues).q7 = 1 :: [] ∧ (curSlot wQueues).q11 = 9 :: [] ∧
    isCompute wQueues.cur.core = true ∧ isCompute (wCtl none).cur.core = false ∧ queueWritable wQueues.cur.core 4 = true ∧
    (curSlot wQueues).stagedHdr = none ∧ hdrTag (header 1) < 0xFC ∧ hdrNpay (header 1) = 1 ∧ hdrNpay (header 0) = 0 ∧
    canSend wQueues (header 0) = true ∧ oscOf (curSlot wQueues) < 1024 ∧ heldFor wQueues 0 (msgPlace wQueues (header 0)) = false ∧
    takeLines wQueues 0 1 = [] ∧ poolHas wQueues 0 1 1 = true ∧ (poolTake wQueues 0 1).map (fun e => (e.1, e.2.1)) = some (5, 1) ∧
    poolHas wMma 0 1 1 = false ∧ (curSlot wQueues).reserved.contains (refWord 1 0 5) = true ∧ wTag (refWord 1 0 5) = 1 ∧
    (refWord 1 0 5).toNat / 2 ^ 56 % 32 = 0 ∧ wTag 0 ≠ 1 ∧ (curSlot wQueues).q10 = [] ∧ (curSlot wQueues).q9 = [] ∧ (getCore wQueues 0).bag.length < 768 := by
  decide +kernel

theorem witness_QueueRegisters13 : isControl (wCtl none).cur.core = true ∧ (curSlot (wCtl (some 6))).q13Half = some 6 ∧
    ringWords (wCtl none) = 0 ∧ ringWords oneNotice ≠ 0 ∧ (ringTake oneNotice).map (fun e => (e.1, e.2.1)) = some (0x77, 0) ∧
    isControl wQueues.cur.core = false ∧ traceOn wQueues 0 = false ∧ traceOn (tracing 0) 0 = true ∧ (curSlot (tracing 0)).q12.length < 8 ∧
    8 ≤ (curSlot (tracing 8)).q12.length ∧ queueWritable 0 12 = true := by decide +kernel

theorem test_pops : nextIs (exec .q3Pop wQueues) (fun t => t.cur.popped == [0x500] && (curSlot t).q3 == []) = true ∧
    nextIs (exec .q6Pop wQueues) (fun t => t.cur.popped == [7] && (curSlot t).q6 == [8]) = true ∧
    nextIs (exec .q7Pop wQueues) (fun t => t.cur.popped == [1]) = true ∧ nextIs (exec .q11Pop wQueues) (fun t => t.cur.popped == [9]) = true ∧
    waitsFor .q3Pop wMma = true ∧ trapsWith .q6Pop wMma ⟨10, 6, 0, 0⟩ = true := by decide +kernel
theorem test_staging : nextIs (exec (.q4Push (header 1)) wQueues) (fun t => (curSlot t).stagedHdr == some (header 1) && t.flights.isEmpty) = true ∧
    nextIs (exec (.q4Push (header 0)) wQueues) (fun t => t.flights.length == 1) = true ∧
    nextIs (exec (.q5Push 5) (modCur wQueues fun t => { t with stagedHdr := some (header 1) })) (fun t => (curSlot t).stagedHdr == none &&
      t.flights.length == 1) = true ∧ trapsWith (.q5Push 5) wQueues ⟨10, 5, 0, 0⟩ = true := by decide +kernel
theorem test_pool : nextIs (exec .q8Pop wQueues) (fun t => t.cur.popped == [refWord 1 1 5] && (getCore t 0).freeNodes == []) = true ∧
    nextIs (exec (.q9Push (refWord 1 0 5)) wQueues) (fun t => (curSlot t).reserved == [] && (curSlot t).q9 == [(refWord 1 0 5, 101)]) = true ∧
    nextIs (exec (.q10Push (refWord 1 0 5)) wQueues) (fun t => (curSlot t).q10 == [(refWord 1 0 5, 101)]) = true ∧
    (getCore (drainPushes wPushed 0 0 102) 0).bag = [(1, refWord 1 0 5, refWord 1 0 6)] ∧ (getCore (drainPushes wPushed 0 0 101) 0).bag = [] ∧
    waitsFor (.q10Push (refWord 1 0 7)) wPushed = true := by decide +kernel
theorem test_notices_and_trace : nextIs (exec .q13Pop oneNotice) (fun t => t.cur.popped == [0x77] && (curSlot t).q13Half == some 0) = true ∧
    nextIs (exec .q13Pop (wCtl (some 6))) (fun t => t.cur.popped == [6]) = true ∧
    nextIs (exec (.q12Push 3) (tracing 0)) (fun t => (curSlot t).q12 == [⟨101, 1, 100, 0x40, 3⟩]) = true ∧
    nextIs (exec (.trace 0) (tracing 0)) (fun t => (curSlot t).q12 == [⟨100, 2, 100, 0x40, 0⟩]) = true := by decide +kernel

/-! ## The step -/

/-- A taken BP to 20 words on in a lone word; ADD x9, x2, x3 and ADD x9, x2, x63 beside a C NOP. Field 63 is queue register 15,
which no word may read. -/
def wLone : State := State.reset.withFetchWord 32 0x88800014

def bLone : Bundle := ⟨false, 0, some (.bp 0 0 20), none⟩

def pairWord (a : Nat) : State := State.reset.withFetchWord 64 (a * 2 ^ 32)

def aAdd : Nat := ((encode (.add 9 2 3)).getD []).getD 1 0

def aTrap : Nat := ((encode (.add 9 2 63)).getD []).getD 1 0

def bPair (i : Instr) : Bundle := ⟨false, 0, some .nop, some (some i)⟩

def endedDone (o : Res) : Bool := nextIs o fun t => t.cur.ended == .done

def endedTrap (o : Res) : Bool := nextIs o fun t => (bundleTrapped t).isSome

theorem ok_of {a : Except Reject (Bundle × List Byte)} {r : Bundle × List Byte} (h : a.toOption = some r) : a = .ok r := by
  cases a with
  | error e => cases h
  | ok v => cases h; rfl

theorem witness_StepLone : mayIssue wLone 0 0 [] ∧ decodesTo wLone 0 0 bLone ∧ wellFormed (.bp 0 0 20) = true ∧
    endedDone (exec (.bp 0 0 20) (beginBundle { wLone with turns := [] } 0 0 bLone)) = true := by
  refine ⟨by unfold mayIssue; decide +kernel, ⟨by decide +kernel, by decide +kernel, [0, 0, 0, 0], ok_of (by decide +kernel)⟩,
    by decide +kernel, by decide +kernel⟩

theorem witness_StepPair : mayIssue (pairWord aAdd) 0 0 [] ∧ decodesTo (pairWord aAdd) 0 0 (bPair (.add 9 2 3)) ∧ actsLast .nop = false ∧
    pairClash .nop (.add 9 2 3) = false ∧
    endedDone (exec .nop (beginBundle { pairWord aAdd with turns := [] } 0 0 (bPair (.add 9 2 3)))) = true ∧
    endedDone (exec (.add 9 2 3) (beginBundle { pairWord aAdd with turns := [] } 0 0 (bPair (.add 9 2 3)))) = true ∧
    endedTrap (exec (.add 9 2 63) (beginBundle { pairWord aTrap with turns := [] } 0 0 (bPair (.add 9 2 63)))) = true := by
  refine ⟨by unfold mayIssue; decide +kernel, ⟨by decide +kernel, by decide +kernel, [], ok_of (by decide +kernel)⟩, ?_⟩
  decide +kernel

theorem witness_StepAdvance : nextIs (step wLone) (fun t => (getSlot t 0 0).pc == 80 && (getCore t 0).lastSlot == 0 && t.turns.isEmpty) = true ∧
    (beginBundle wLone 0 0 bLone).cur.freed = false ∧ (curSlot (beginBundle wLone 0 0 bLone)).park = .none ∧
    enabledFlags (curSlot (beginBundle wLone 0 0 bLone)) 0 = 0 := by decide +kernel

theorem test_step_pair : nextIs (step (setSlot (pairWord aAdd) 0 0 { getSlot (pairWord aAdd) 0 0 with x := [(2, 5), (3, 4)] })) (fun t =>
    (getSlot t 0 0).pc == 8 && getX (landed t 0) 9 == 9) = true := by decide +kernel
theorem test_step_trap : nextIs (step (pairWord aTrap)) (fun t => (getSlot t 0 0).pc == 0 && (trapOf (getSlot t 0 0)).isSome) = true := by
  decide +kernel

theorem witness_StepKeepsCanonical : Canonical wLone ∧ nextIs (step wLone) (fun _ => true) = true := by
  refine ⟨by unfold Canonical; decide +kernel, by decide +kernel⟩

theorem witness_RegisterResultFrame : (encodeA (.add 1 2 3)).isSome = true ∧ wordDst (.add 1 2 3) ≠ .none ∧
    nextIs (exec (.add 1 2 3) wMma) (fun t => t.cur.popped == wMma.cur.popped) = true := by decide +kernel

theorem witness_FalsePredicates : getP (curSlot wMma) 5 = false ∧ (getP (curSlot wMma) (0#3).toNat ^^ ((1#1) == 1#1)) = false := by
  decide +kernel

theorem witness_RoundTrips : wellFormed (.bp 0 0 20) = true ∧ encodeLone (.bp 0 0 20) = some 0x88800014 ∧ wellFormed (.add 1 2 3) = true ∧
    encode (.add 1 2 3) = some [0, 0x02084180] := by decide +kernel

end Sys2Proof.Tests
end

