-- ==== Sys2Proof/Tests/Clauses.lean ====
section
/-! SUPPORT. Further clauses of the statements: for each premise that a clause adds (a full count, a full hold queue, a poisoned unit,
a line with the host, a piece of a copy, a foreign chip), a state that meets it and one that does not. -/

namespace Sys2Proof.Tests

set_option Elab.async false

open Machine

/-! ## Lines with the host -/

/-- Line x of die 0 may be cached by the host. -/
def withLine (s : State) (x : Nat) : State := modDie s 0 fun d => { d with snoop := [(paCtl (64 * x), [x])] }

/-- The line of a page walk that waits for the host. -/
def walkLine (s : State) (va : Nat) : Option Nat :=
  match translate s (.core s.cur.core) (curSlot s).region va with
  | .ok _ => none
  | .error tr => if isLine tr then some tr.value.toNat else none

theorem witness_clause_walk : walkLine wM devVa = none ∧ walkLine (withLine wM 1024) devVa = some 1024 ∧
    walkLine wG guardVa = none ∧ walkLine (withLine wG 1024) guardVa = some 1024 ∧
    (GotTrap (devCheck (withLine wM 1024) (.core 0) 0 1 .load devVa 8)).map isLine = some true ∧
    isLine ⟨4, 0, 0, 1024⟩ = false := by decide +kernel

theorem witness_clause_snooped : anySnoop wM = false ∧ anySnoop (withLine wM 1024) = true ∧
    snooped wT (phys devVa) 256 = [] ∧ snooped (withLine wT (phys devVa / 64)) (phys devVa) 256 = [phys devVa / 64] ∧
    snooped (wR Bank.reset) (phys devVa) 8192 = [] ∧ commitLines wT 0 0 = [] ∧ takeLines wN 4 1 = [] := by decide +kernel

/-! ## Counts, hold queues, poison -/

/-- n stores are outstanding. -/
def wStores (n : Nat) : State := modCur wM fun t => { t with
  out := (List.range n).map fun i => ⟨i, .store, [.core 1], [], .none, .none, 0, 0, 0, false, none⟩, nextItem := n }

theorem witness_clause_count : ¬ 1024 < oscOf (curSlot (wStores 1023)) + countsOut (wStores 1023) [devVa] ∧
    1024 < oscOf (curSlot (wStores 1024)) + countsOut (wStores 1024) [devVa] ∧ countsOut wM [0x100, 0x1080100, devVa, 0x3000000] = 2 ∧
    elementAhead wM = false ∧ 1024 ≤ oscOf (curSlot (wStores 1024)) := by decide +kernel

def heldLoc : Loc := .held 0 2 (phys devVa) 0

/-- The hold queue of controller 2 of die 0 holds n writes. -/
def wQueueOf (n : Nat) : State := modDie wM 0 fun d => { d with holdq := [(2, List.replicate n ⟨0x10000, wr .store heldLoc [1]⟩)] }

theorem witness_clause_holds : holdRefuses wM heldLoc 0x10000 devVa = false ∧ (holdQueue (wQueueOf 255) 0 2).length = 255 ∧
    holdRefuses (wQueueOf 255) heldLoc 0x10000 devVa = false ∧ holdRefuses (wQueueOf 256) heldLoc 0x10000 devVa = true ∧
    locBad wHost (.phys (phys devVa) 0) 8 = true ∧ locBad wHost (.phys (phys devVa + 64) 0) 8 = false ∧
    locBad wBadSp (.sp 0 0x100) 8 = true ∧ spBad wBadSp 0 0x100 8 = true := by decide +kernel

theorem test_store_waits_and_poison : waitsFor (.std ⟨10, 7, 0, 0⟩) (wStores 1024) = true ∧
    trapsWith (.std ⟨10, 1, 0, 0⟩) wBadSp ⟨11, 0, 0, 0x100⟩ = true ∧ trapsWith (.std ⟨10, 7, 0, 0⟩) wHost ⟨11, 0, 0, BitVec.ofNat 64 devVa⟩ = true := by
  decide +kernel

/-! ## Residues (19 R347) -/

/-- MUL by 0 and SUB x, x predict the residue of their results whatever their source's; ADD passes a bad residue on. -/
theorem test_predicted_residue : predictedRes (· * ·) 7 0 0 3 0 = none ∧ predictedRes (· - ·) 7 7 0 3 3 = none ∧
    predictedRes (· + ·) 7 1 8 3 1 = some 4 := by decide +kernel

/-! ## Atomics of other chips -/

theorem witness_clause_foreign : foreignKey (foreignAtom 7 3 5) = 7 * 4096 + 3 ∧ foreignSeq (foreignAtom 7 3 5) = 5 ∧
    (tget wSo.soRecords (7 * 4096 + 3) ⟨0, 0, true⟩).last = foreignSeq (foreignAtom 7 3 5) ∧
    (tget wM.soRecords (7 * 4096 + 3) ⟨0, 0, true⟩).last ≠ foreignSeq (foreignAtom 7 3 5) ∧
    soTo wM (keyOf (.sp 0 0x100) 0) < 64 ∧ 64 ≤ soTo { wM with soOut := List.replicate 64 (0, 4096) } (keyOf (.phys 0 0) 0) ∧
    keyOf (.sp 0 0x100) 5 ≠ keyOf (.phys 0x100 0) 5 := by decide +kernel

/-! ## Copies in pieces -/

/-- A copy of 100 bytes: its first piece ends at byte 64, where the source meets a line of 64 bytes. -/
def copy100 (pos : Nat) : Copy := { copy1 false with len := 100, dst := 0x400, pos := pos }

def turnOf (o : CopyTurn) : Option (Nat × Word) :=
  match o with
  | .more _ n => some (n, 0)
  | .ends _ w _ => some (0, w)
  | .line _ => none
  | .full => none

theorem witness_clause_pieces : turnOf (copyRun (copy100 0) (wCopy false)) = some (64, 0) ∧
    turnOf (copyRun (copy100 64) (wCopy false)) = some (0, 0x8000000000000064) ∧ (copy100 0).bad = false ∧
    (copy100 0).phys = false ∧ (getCore (wCopy false) 0).sealed = false := by decide +kernel

/-! ## Guards -/

theorem witness_clause_guards : (2 ^ 19 : Nat) ≤ 2 ^ 63 ∧ releaseKind (hold2 .held false false) true = .shared ∧
    releaseKind (hold2 .held true true) true = .all ∧ releaseKind (hold2 .held true false) false = .none ∧
    releaseKind { hold2 .held true false with dirty := [1] } true = .written [1] ∧
    releaseKind { hold2 .held true false with dirty := [1] } false = .pinned [1] ∧
    forwardFrom (object 3 0 false (wGheld (hold2 .pinned true false))) (gPkt 0) = capoPlace (gPkt 0).guardPa ∧
    forwardFrom (object 3 0 true (wGheld (hold2 .pinned true false))) (gPkt 0) ≠ capoPlace (gPkt 0).guardPa ∧
    (hold2 .pinned true false).homeLeft = 0 ∧ (hold2 .pinned true false).flushing = false ∧
    (getCore (wGheld (hold2 .pinned true false)) 0).holds.find? (fun x => x.hix == 1) = some (hold2 .pinned true false) ∧
    (hold2 .pending true false).got < 1 * ((hold2 .pending true false).sbSize / 64) ∧
    gProxy (object 3 0 false wG) gref = false := by decide +kernel

/-! ## Barriers and rows -/

def heldOne : HeldRelease := ⟨0, taskSrc 0 (taskOf 0), .core 1, taskOf 0, [4], .dispatch 3⟩

theorem witness_clause_barriers : waiterName (wBwaited 0) 0 (whoAt 1 4) = some (5, ⟨0x300, [⟨whoAt 1 4, 1⟩]⟩) ∧
    waiterName (wB 0) 0 (whoAt 1 4) = none ∧ (getCore (wParkedBar (some (2, 1)) 0) 0).heldRel = [] ∧
    109 < { wParkedBar (some (2, 1)) 0 with cycle := 110 }.cycle ∧ ¬ 109 < (wParkedBar (some (2, 1)) 0).cycle ∧
    heldFor (modCore wM 0 fun k => { k with heldRel := [heldOne] }) 0 (.core 1) = true ∧ heldFor wM 0 (.core 1) = false := by
  decide +kernel

/-- The row of bank 0 closes in the cycle in which it becomes ready; a poisoned transfer of it arrives. -/
def wClosing : State := wR { opening with closeAsked := some false, readEnd := 0 }

def wPoisoned : State := setRowSlot (wR opened) 0 2 ⟨false, 0, [], [(3, (0xABCD, [7]))]⟩

theorem witness_clause_rows : (getBank wClosing 0 0).st = .opening ∧ (getBank wClosing 0 0).ready = wClosing.cycle ∧
    (getBank wClosing 0 0).closeAsked.isSome = true ∧
    (getRowSlot wPoisoned 0 2).coming.find? (fun e => e.1 == 3 * 64 / 64) = some (3, (0xABCD, [7])) ∧
    (getBank wPoisoned 0 0).st = .open_ ∧ (getCluster wPoisoned 0).mmaRun = none := by decide +kernel

theorem test_row_closings : nextIs (exec (.deferredClose 0 0) wClosing) (fun t => (getBank t 0 0).st == .precharge) = true ∧
    ((fun t => (getBank t 0 0).lost == some (5, 0, 100) && (getRowSlot t 0 2).poison == [7]) (rowArrives false 0 2 192 wPoisoned)) = true := by decide +kernel

/-! ## Tasks, messages, nets -/

theorem witness_clause_tasks : ((List.range 1).all fun j => !((candidate wStarved (getCore wStarved 5) j).isSome &&
      tget (getCore wStarved 5).starve j 0 != 4096) || j == 0) = true ∧ (itemOf wSpawned (whoAt 0 9)).isNone = true ∧
    (outIs wSpawned (whoAt 0 4)).isSome = true ∧ trackerFull (wTail 4) 0 = true ∧ 0 < oscOf (curSlot (wTail 4)) ∧
    behindAt wBehind (.core 0) = true ∧ behindAt wBehind (.core 1) = false := by decide +kernel

/-- A HOLDREL of core 0 for the page of device memory: nothing blocks it any more, or its leaf still has WB. -/
def rel1 : Released := ⟨0, 0x10000, devVa, 2 ^ 30⟩

def wBlocked : State := { wM with mem := mwrite wM.mem (0x20000 + 32) 8 0x4000000B }

theorem witness_clause_issue : timedDue wLone = false ∧ popsReady wLone none none = true ∧ popsReady wM (some (.jr 0 51)) none = false ∧
    (getCore wM 0).sealed = false ∧ (getCore (modCore wM 0 fun k => { k with sealed := true }) 0).sealed = true := by decide +kernel

theorem witness_clause_holdrel : stillBlocked wM rel1 = false ∧ stillBlocked wBlocked rel1 = true := by decide +kernel

end Sys2Proof.Tests
end

