-- ==== Sys2Proof/Tests/Scalar.lean ====
section
/-! SUPPORT. Scalar words: witnesses of the hypotheses of the statements about them, and single results by hand from the
rules. -/

namespace Sys2Proof.Tests

set_option Elab.async false

open Machine

/-- x1 = 7, x2 = -3, x4 = 2^63. -/
def w0 : State := withX [(1, 7), (2, 0xFFFFFFFFFFFFFFFD), (4, 0x8000000000000000)]

/-! ## Integer results -/

theorem witness_IntegerResults : operandsFree w0 [1, 2] (.xq 3) = true ∧ soundSources w0 [1, 2] = true ∧
    sourceWords [1, 2] w0 = some ([7, 0xFFFFFFFFFFFFFFFD], w0) ∧ (resultTo w0 3 1 4).isSome = true := by decide +kernel

theorem witness_IntegerResults_queue_destination : operandsFree w0 [1, 2] (.xq 50) = true ∧
    (resultTo w0 50 1 4).isSome = true ∧ nextIs (exec (.add 50 1 2) w0) (fun t => (curSlot t).q2 == 4) = true := by
  decide +kernel

theorem test_add : leavesX (.add 3 1 2) w0 3 4 = true := by decide +kernel
theorem test_add_to_x0 : nextIs (exec (.add 0 1 2) w0) (fun t => getX (landed t 0) 0 == 0) = true := by decide +kernel
theorem test_sub : leavesX (.sub 3 1 2) w0 3 10 = true := by decide +kernel
theorem test_mul : leavesX (.mul 3 1 2) w0 3 0xFFFFFFFFFFFFFFEB = true := by decide +kernel
theorem test_mulh : leavesX (.mulhSs 3 1 2) w0 3 0xFFFFFFFFFFFFFFFF = true ∧ leavesX (.mulhUu 3 1 2) w0 3 6 = true ∧
    leavesX (.mulhSu 3 2 1) w0 3 0xFFFFFFFFFFFFFFFF = true ∧ leavesX (.mulhSu 3 1 2) w0 3 6 = true := by decide +kernel
theorem test_logic : leavesX (.and 3 1 2) w0 3 5 = true ∧ leavesX (.or 3 1 2) w0 3 0xFFFFFFFFFFFFFFFF = true ∧
    leavesX (.xor 3 1 2) w0 3 0xFFFFFFFFFFFFFFFA = true ∧ leavesX (.andn 3 1 2) w0 3 2 = true := by decide +kernel
theorem test_shifts : leavesX (.sll 3 1 2) w0 3 0xE000000000000000 = true ∧ leavesX (.srl 3 4 2) w0 3 4 = true ∧
    leavesX (.sra 3 4 1) w0 3 0xFF00000000000000 = true ∧ leavesX (.rol 3 4 1) w0 3 0x40 = true ∧
    leavesX (.ror 3 1 1) w0 3 0x0E00000000000000 = true := by decide +kernel
theorem test_compare : leavesX (.slt 3 2 1) w0 3 1 = true ∧ leavesX (.sltu 3 2 1) w0 3 0 = true ∧
    leavesX (.min 3 1 2) w0 3 0xFFFFFFFFFFFFFFFD = true ∧ leavesX (.max 3 1 2) w0 3 7 = true ∧
    leavesX (.minu 3 1 2) w0 3 7 = true ∧ leavesX (.maxu 3 1 2) w0 3 0xFFFFFFFFFFFFFFFD = true := by decide +kernel
theorem test_unary : leavesX (.clz 3 1) w0 3 61 = true ∧ leavesX (.clz 3 0) w0 3 64 = true ∧ leavesX (.ctz 3 4) w0 3 63 = true ∧
    leavesX (.ctz 3 0) w0 3 64 = true ∧ leavesX (.popc 3 2) w0 3 63 = true ∧ leavesX (.bswap 3 4) w0 3 0x80 = true := by
  decide +kernel
theorem test_extensions : leavesX (.sext 3 2 .b) w0 3 0xFFFFFFFFFFFFFFFD = true ∧ leavesX (.sext 3 1 .h) w0 3 7 = true ∧
    leavesX (.zext 3 2 .b) w0 3 0xFD = true ∧ leavesX (.zext 3 2 .h) w0 3 0xFFFD = true ∧
    leavesX (.zext 3 2 .w) w0 3 0xFFFFFFFD = true ∧ leavesX (.sext 3 4 .w) w0 3 0 = true := by decide +kernel

/-- x1 holds a bad residue. -/
def wBad : State := atCore 0 fun t => { t with x := [(1, 7), (2, 0x100)], xRes := [(1, 3)] }

theorem witness_BadResidues : isQ 3 = false ∧ plainRegs [1, 2] = true ∧ operandsFree wBad [1, 2] (.xq 3) = true ∧
    soundSources wBad [1, 2] = false ∧ operandsFree wBad [1] (.xq 3) = true ∧ soundSources wBad [1] = false ∧
    operandsFree wBad [1] (.x 3) = true := by decide +kernel

theorem test_bad_residue_jr : nextIs (exec (.jr 0 1) wBad) (fun t => (getCore t 0).sealed) = true := by decide +kernel

/-! ## Immediates, bit fields, selection -/

theorem witness_ImmediateResults : operandsFree w0 [1] (.xq 3) = true ∧ soundSources w0 [1] = true ∧
    sourceWords [1] w0 = some ([7], w0) ∧ isQ 3 = false ∧ operandsFree w0 [] (.xq 3) = true ∧
    (resultTo w0 3 1 5).isSome = true ∧ (63#6).toNat + (0#6).toNat < 64 := by decide +kernel

theorem test_immediates : leavesX (.addi 3 1 0x1FFF) w0 3 6 = true ∧ leavesX (.andi 3 2 0x1000) w0 3 0xFFFFFFFFFFFFF000 = true ∧
    leavesX (.ori 3 1 8) w0 3 15 = true ∧ leavesX (.xori 3 1 0x1FFF) w0 3 0xFFFFFFFFFFFFFFF8 = true := by decide +kernel
theorem test_shift_immediates : leavesX (.slli 3 1 61) w0 3 0xE000000000000000 = true ∧ leavesX (.srli 3 4 63) w0 3 1 = true ∧
    leavesX (.srai 3 4 63) w0 3 0xFFFFFFFFFFFFFFFF = true := by decide +kernel
theorem test_set_immediates : leavesX (.slti 3 2 0xFFE) w0 3 1 = true ∧ leavesX (.sltiu 3 1 0xFFF) w0 3 1 = true := by
  decide +kernel
/-- 08 R164's example of MOVI and MOVHI: 0x13C6 and then 0x779B9 give 0x9E3779B9. -/
theorem test_movi_movhi : leavesX (.movi 7 0x13C6) w0 7 0x13C6 = true ∧ leavesX (.movi 7 0x40000) w0 7 0xFFFFFFFFFFFC0000 = true ∧
    leavesX (.movhi 7 0x779B9) (withX [(7, 0x13C6)]) 7 0x9E3779B9 = true := by decide +kernel
theorem test_bit_fields : leavesX (.bfx 3 2 8 3) w0 3 0xF = true ∧
    leavesX (.bfi 3 1 60 3) (withX [(1, 7), (3, 0xF000000000000001)]) 3 0x7000000000000001 = true := by decide +kernel
theorem test_sel : leavesX (.sel 3 1 2 0 0) w0 3 7 = true ∧ leavesX (.sel 3 1 2 0 1) w0 3 0xFFFFFFFFFFFFFFFD = true := by
  decide +kernel
theorem test_addsh : leavesX (.addsh 3 1 1 3) w0 3 63 = true := by decide +kernel

/-! ## Predicates -/

theorem witness_PredicateResults : operandsFree w0 [1, 2] (.p 2) = true ∧
    sourceWords [1, 2] w0 = some ([7, 0xFFFFFFFFFFFFFFFD], w0) ∧ operandsFree w0 [1] (.p 2) = true ∧ (5#3).toNat < 6 := by
  decide +kernel

theorem test_cmp : leavesP (.cmp 2 1 1 0) w0 2 true = true ∧ leavesP (.cmp 2 1 2 2) w0 2 false = true ∧
    leavesP (.cmp 2 1 2 4) w0 2 true = true ∧ leavesP (.cmp 2 1 2 3) w0 2 true = true := by decide +kernel
/-- 08 R166: `cmpi.lt p2, x5, -4`. -/
theorem test_cmpi : leavesP (.cmpi 2 5 2 0x3FC) (withX [(5, 0xFFFFFFFFFFFFFFFB)]) 2 true = true ∧
    leavesP (.cmpi 2 5 2 0x3FC) (withX [(5, 0xFFFFFFFFFFFFFFFC)]) 2 false = true := by decide +kernel
theorem test_plog : leavesP (.plog 2 0 1 0b0100) w0 2 true = true ∧ leavesP (.plog 2 0 1 0b1000) w0 2 false = true := by
  decide +kernel

/-! ## Transfers -/

theorem witness_ControlTransfers : (offTarget w0 (1#22)).toNat < 0x200000 ∧ 0x200000 ≤ (offTarget w0 (0x3FFFFF#22 <<< 5)).toNat ∧
    operandsFree w0 [] (.x 1#6) = true ∧ getP (curSlot w0) 0 ≠ ((1#1 : BitVec 1) == 0#1) ∧
    getP (curSlot w0) 0 = ((1#1 : BitVec 1) == 1#1) := by decide +kernel

/-- The last aligned address, the first beyond, one that is not a multiple of 4. -/
def wJr : State := withX [(1, 0x1FFFFC), (2, 0x200000), (3, 2)]

theorem witness_ControlTransfers_jr : operandsFree wJr [1] (.x 5) = true ∧ soundSources wJr [1] = true ∧
    sourceWords [1] wJr = some ([0x1FFFFC], wJr) ∧ (0x1FFFFC#64).toNat < 0x200000 ∧
    operandsFree wJr [2] (.x 5) = true ∧ sourceWords [2] wJr = some ([0x200000], wJr) ∧
    sourceWords [3] wJr = some ([2], wJr) := by decide +kernel

theorem test_branches : nextIs (exec (.b 0x3FFFFF) w0) (fun t => t.cur.target == some 0x3C) = true ∧
    nextIs (exec (.bp 0 0 2) w0) (fun t => t.cur.target == some 0x48) = true ∧
    goesTo (exec (.bp 0 1 2) w0) w0 = true := by decide +kernel
theorem test_bl_links : leavesX (.bl 4) w0 1 0x44 = true ∧ nextIs (exec (.bl 4) w0) (fun t => t.cur.target == some 0x50) = true := by
  decide +kernel
theorem test_jr : leavesX (.jr 5 1) wJr 5 0x44 = true ∧ nextIs (exec (.jr 5 1) wJr) (fun t => t.cur.target == some 0x1FFFFC) = true ∧
    trapsWith (.jr 5 2) wJr ⟨2, 0, 0, 0x200000⟩ = true ∧ trapsWith (.jr 5 3) wJr ⟨3, 0, 0, 2⟩ = true := by decide +kernel

/-! ## Traps of operands -/

theorem witness_SoftTraps : operandsFree w0 [1] .none = true ∧ sourceWords [1] w0 = some ([7], w0) := by decide +kernel

/-- 18 R336: the notice of `trap x1, 5` goes to the control core of core 0 on tag 0xFD with four words. -/
theorem test_trap_notice : nextIs (exec (.trap 1 5) w0) (fun t => t.flights.any fun f =>
    match f.act with
    | .messageArrive m => hdrTag m.hdr == 0xFD && hdrDcore m.hdr == 3072 && m.pay == [taskOf 0, 0x40, 0x50D, 7]
    | _ => false) = true := by decide +kernel

/-- Reading q0 or an empty q6 misuses it; q14 is never legal; x4 pends. -/
def wPend : State := atCore 0 fun t => { t with x := [(1, 7)], pendX := [4] }

theorem witness_OperandTraps : sourcesReady w0 [48, 1] = true ∧ dstReady w0 (.xq 3) = true ∧
    namesQ1415 [48, 1] (.xq 3) = false ∧ misuse w0 [48, 1] (.xq 3) = some 0 ∧ sourcesReady w0 [62, 1] = true ∧
    namesQ1415 [62, 1] (.xq 3) = true ∧ (sourcesReady wPend [1, 1] && dstReady wPend (.xq 4)) = false ∧
    dstReady w0 (.x 48) = true ∧ namesQ1415 [1, 2] (.x 48) = false ∧ isQ 48 = true ∧ plainRegs [1, 2] = true ∧
    isCompute 3071 = true ∧ isControl 3072 = true := by decide +kernel

theorem test_operand_traps : trapsWith (.or 3 48 1) w0 ⟨10, 0, 0, 0⟩ = true ∧ trapsWith (.or 3 54 1) w0 ⟨10, 6, 0, 0⟩ = true ∧ trapsWith (.or 3 62 1) w0 ⟨1, 0, 0, 0⟩ = true ∧
    waitsFor (.or 4 1 1) wPend = true ∧ trapsWith (.div 48 1 2) w0 ⟨10, 0, 0, 0⟩ = true := by decide +kernel

/-! ## Division -/

/-- x1 = -2^63, x2 = -1, x3 = 0, x4 = -7, x5 = 2. -/
def wDiv : State :=
  withX [(1, 0x8000000000000000), (2, 0xFFFFFFFFFFFFFFFF), (3, 0), (4, 0xFFFFFFFFFFFFFFF9), (5, 2)]

def job (v : Word) : DivJob := ⟨whoAt 0 0, .x 6, v, 36⟩

def wFull : State := modCore wDiv 0 fun k => { k with divQueue := [job 1, job 2, job 3, job 4] }

def wDividing : State := modCore wDiv 0 fun k => { k with divRun := [job 9], divFree := 100 }

def wGone : State := modCore wDiv 0 fun k => { k with divRun := [⟨⟨0, 0, 77, 0⟩, .x 6, 9, 36⟩] }

theorem witness_Divisions : operandsFree wDiv [4, 5] (.x 6) = true ∧
    sourceWords [4, 5] wDiv = some ([0xFFFFFFFFFFFFFFF9, 2], wDiv) ∧ (getCore wDiv 0).divQueue.length < 4 ∧
    operandsFree wFull [4, 5] (.x 6) = true ∧ 4 ≤ (getCore wFull 0).divQueue.length ∧
    sourceWords [1, 3] wDiv = some ([0x8000000000000000, 0], wDiv) := by decide +kernel

theorem witness_DividerRuns : (getCore wFull 0).divQueue = job 1 :: [job 2, job 3, job 4] ∧ (getCore wFull 0).divFree ≤ wFull.cycle ∧
    (getCore wDividing 0).divRun = job 9 :: [] ∧ (job 9).dst = .x 6 ∧ (job 9).who.core = 0 ∧
    holdsTask (getSlot wDividing 0 (job 9).who.slot) (job 9).who.gtid = true ∧
    locate (modCore wGone 0 fun k => { k with divRun := [] }) 0 0 77 = none := by decide +kernel

theorem test_divisions : goesTo (exec (.div 6 4 5) wDiv) (divJobOf wDiv (.x 6) 0xFFFFFFFFFFFFFFFD 36) = true ∧
    goesTo (exec (.rem 6 4 5) wDiv) (divJobOf wDiv (.x 6) 0xFFFFFFFFFFFFFFFF 36) = true ∧
    goesTo (exec (.div 6 1 2) wDiv) (divJobOf wDiv (.x 6) 0x8000000000000000 36) = true ∧
    goesTo (exec (.rem 6 1 2) wDiv) (divJobOf wDiv (.x 6) 0 36) = true := by decide +kernel
theorem test_divisions_by_zero : goesTo (exec (.divu 6 4 3) wDiv) (divJobOf wDiv (.x 6) 0 36) = true ∧
    goesTo (exec (.remu 6 4 3) wDiv) (divJobOf wDiv (.x 6) 0xFFFFFFFFFFFFFFF9 36) = true ∧
    waitsFor (.div 6 4 5) wFull = true := by decide +kernel

/-! ## Late results -/

theorem witness_RegistersAndLateResults : plainRegs [1, 2] = true ∧ isQ 3 = false ∧
    (∀ l ∈ [Late.mk 103 (.x 3) 5 (BitVec.allOnes 512) none], 102 < l.due) ∧
    (tickStep w0).cycle = 101 ∧ w0.flights.any (fun f => f.timed && decide (f.due ≤ w0.cycle)) = false := by decide +kernel

/-- 03 R73: the product is visible three cycles later and not before. -/
theorem test_mul_latency : nextIs (exec (.mul 3 1 1) w0) (fun t => getX (landLate (curSlot t) 102) 3 == 0 &&
    getX (landLate (curSlot t) 103) 3 == 49) = true := by decide +kernel

end Sys2Proof.Tests
end

