-- ==== Sys2Proof/Tests/Slice0.lean ====
section
/-! SUPPORT. Tests of the encodings: ill-formed operand codes are refused, and words of the spec's own examples decode to
what the spec says they are. -/

namespace Sys2Proof.Tests

set_option Elab.async false

/-- The C-word of a lone word, and the A-word of a pair with a C NOP. -/
def loneOf (w : Nat) : Option Instr := (frame 4 w 0).bind fun b => if b.a.isNone then b.c else none

def pairOf (w : Nat) : Option Instr := (frame 0 0 w).bind fun b => b.a.join

/-! ## Ill-formed operand codes -/

theorem test_illFormed_ldx : wellFormed (.ldx 1 2 3 0 1 3) = false := by decide
theorem test_illFormed_waitr_file : wellFormed (.waitr 3 0 0 0) = false := by decide
theorem test_illFormed_waitr_x_queue : wellFormed (.waitr 0 48 0 0) = false := by decide
theorem test_illFormed_waitr_f_over : wellFormed (.waitr 1 33 32 32) = false := by decide
theorem test_illFormed_bfx : wellFormed (.bfx 1 2 60 4) = false := by decide
theorem test_illFormed_bfi : wellFormed (.bfi 1 2 63 1) = false := by decide
theorem test_illFormed_cmp : wellFormed (.cmp 1 2 3 6) = false := by decide
theorem test_illFormed_cmpi : wellFormed (.cmpi 1 2 7 0) = false := by decide
theorem test_illFormed_fadd : wellFormed (.fadd .d 6 0 1 2) = false := by decide
theorem test_illFormed_fsub : wellFormed (.fsub .s 7 0 1 2) = false := by decide
theorem test_illFormed_fmul : wellFormed (.fmul .h 6 0 1 2) = false := by decide
theorem test_illFormed_fdiv : wellFormed (.fdiv .d 6 0 1 2) = false := by decide
theorem test_illFormed_fsqrt : wellFormed (.fsqrt .d 7 0 1) = false := by decide
theorem test_illFormed_fma : wellFormed (.fma .d 6 0 1 2 3) = false := by decide
theorem test_illFormed_fms : wellFormed (.fms .d 6 0 1 2 3) = false := by decide
theorem test_illFormed_fnma : wellFormed (.fnma .d 7 0 1 2 3) = false := by decide
theorem test_illFormed_fnms : wellFormed (.fnms .d 7 0 1 2 3) = false := by decide
theorem test_illFormed_fminmax : wellFormed (.fminmax .d 4 0 1 2) = false := by decide
theorem test_illFormed_fsgn_code : wellFormed (.fsgn .d 5 0 1 0) = false := by decide
theorem test_illFormed_fsgn_abs : wellFormed (.fsgn .d 3 0 1 2) = false := by decide
theorem test_illFormed_fcmp : wellFormed (.fcmp .d 6 1 1 2) = false := by decide
theorem test_illFormed_fcvt : wellFormed (.fcvt .d .s 6 0 1) = false := by decide
theorem test_illFormed_fcvti : wellFormed (.fcvti .d 7 1 0 1 2) = false := by decide
theorem test_illFormed_vint : wellFormed (.vint ⟨1, 2, 3, 0, 0, 0, 21⟩) = false := by decide
theorem test_illFormed_vfp_code : wellFormed (.vfp ⟨1, 2, 3, 0, 0, 2, 7⟩) = false := by decide
theorem test_illFormed_vfp_unary : wellFormed (.vfp ⟨1, 2, 3, 0, 0, 2, 5⟩) = false := by decide
theorem test_illFormed_vfp_variant : wellFormed (.vfp ⟨1, 2, 3, 0, 0, 2, 8⟩) = false := by decide
theorem test_illFormed_vfp_sat : wellFormed (.vfp ⟨1, 2, 3, 0, 0, 1, 16⟩) = false := by decide
theorem test_illFormed_vfma : wellFormed (.vfma ⟨1, 2, 3, 0, 0, 2, 4⟩) = false := by decide
theorem test_illFormed_vcmp : wellFormed (.vcmp ⟨1, 2, 3, 0, 0, 0, 6⟩) = false := by decide
theorem test_illFormed_vfcmp : wellFormed (.vfcmp ⟨1, 2, 3, 0, 0, 0, 16⟩) = false := by decide
theorem test_illFormed_vsel : wellFormed (.vsel ⟨1, 2, 3, 0, 0, 0, 0⟩) = false := by decide
theorem test_illFormed_vred : wellFormed (.vred ⟨1, 2, 3, 0, 0, 0, 8⟩) = false := by decide
theorem test_illFormed_vred_fp : wellFormed (.vred ⟨1, 2, 3, 0, 0, 0, 19⟩) = false := by decide
theorem test_illFormed_vdot : wellFormed (.vdot ⟨1, 2, 3, 0, 0, 2, 0⟩) = false := by decide
theorem test_illFormed_vcvt_part : wellFormed (.vcvt ⟨1, 2, 8, 0, 0, 0, 6⟩) = false := by decide
theorem test_illFormed_vcvt_rm : wellFormed (.vcvt ⟨1, 2, 6, 0, 0, 0, 6⟩) = false := by decide
theorem test_illFormed_vcvt_sat : wellFormed (.vcvt ⟨1, 2, 0, 0, 0, 2, 6⟩) = false := by decide
theorem test_illFormed_vperm : wellFormed (.vperm ⟨1, 2, 3, 0, 0, 0, 1⟩) = false := by decide
theorem test_illFormed_vslide : wellFormed (.vslide ⟨1, 2, 3, 0, 0, 0, 4⟩) = false := by decide
theorem test_illFormed_vbcast : wellFormed (.vbcast ⟨1, 2, 16, 0, 0, 2, 0⟩) = false := by decide
theorem test_illFormed_vmovx_fn : wellFormed (.vmovx 1 2 0 0 4) = false := by decide
theorem test_illFormed_vmovx_e : wellFormed (.vmovx 1 2 8 3 0) = false := by decide
theorem test_illFormed_vmovx_all : wellFormed (.vmovx 1 2 1 3 3) = false := by decide
theorem test_illFormed_vmask : wellFormed (.vmask ⟨1, 2, 3, 1, 0, 0, 0⟩) = false := by decide
theorem test_illFormed_vscale : wellFormed (.vscale ⟨1, 2, 3, 0, 0, 3, 4⟩) = false := by decide
theorem test_illFormed_viota : wellFormed (.viota ⟨1, 2, 0, 0, 0, 0, 0⟩) = false := by decide
theorem test_illFormed_vxch_fn : wellFormed (.vxch ⟨1, 2, 0, 0, 0, 0, 3⟩) = false := by decide
theorem test_illFormed_vxch_d : wellFormed (.vxch ⟨1, 2, 8, 0, 0, 0, 0⟩) = false := by decide
theorem test_illFormed_mma_scaled : wellFormed (.mmaD ⟨1, 2, 3, 4, 1⟩) = false := by decide
theorem test_illFormed_mma_fs : wellFormed (.mmaE4 ⟨1, 2, 3, 31, 1⟩) = false := by decide
theorem test_illFormed_mma_unscaled : wellFormed (.mmaE4 ⟨1, 2, 3, 4, 0⟩) = false := by decide
theorem test_illFormed_mmaI8 : wellFormed (.mmaI8 ⟨1, 2, 3, 4, 1⟩) = false := by decide

/-! ## Words of the spec -/

/-- 07 R149 example. -/
theorem test_word_ldw : loneOf 0x8145187E = some (.ldw ⟨5, 6, 0, 0x7E⟩) := by decide +kernel

/-- 07 R149 example. -/
theorem test_word_stn : loneOf 0x84071802 = some (.stn ⟨7, 6, 0, 2⟩) := by decide +kernel

/-- 07 R149 example. -/
theorem test_word_vld : loneOf 0x84831002 = some (.vld ⟨3, 4, 0, 2⟩) := by decide +kernel

/-- 07 R149 example. -/
theorem test_word_ldx : loneOf 0x838824AB = some (.ldx 8 9 10 1 0 3) := by decide +kernel

/-- 05 R114 example. -/
theorem test_word_bind_family : loneOf 0x8A0A2CC1 = some (.acqS 10 11 12) := by decide +kernel

/-- 05 R114 example. -/
theorem test_word_rel_w : loneOf 0x8A4D2C01 = some (.relW 13 11) := by decide +kernel

/-- 06 R138. -/
theorem test_word_rowact : loneOf 0x8B003000 = some (.rowact 12) := by decide +kernel

/-- 06 R138. -/
theorem test_word_rowuse : loneOf 0x8B4030D0 = some (.rowuse 12 13) := by decide +kernel

/-- 06 R138. -/
theorem test_word_rowclose : loneOf 0x8B803000 = some (.rowclose 12) := by decide +kernel

/-- 06 R138. -/
theorem test_word_rowstat : loneOf 0x8BCE3000 = some (.rowstat 14 12) := by decide +kernel

/-- 09 R201. -/
theorem test_word_gangform : loneOf 0x8E0A2CC0 = some (.gangform 10 11 12) := by decide +kernel

/-- 09 R201. -/
theorem test_word_gangwait : loneOf 0x8E0A0001 = some (.gangwait 10) := by decide +kernel

/-- 09 R201. -/
theorem test_word_disband : loneOf 0x8E0A0002 = some (.disband 10) := by decide +kernel

/-- 07 R155 example. -/
theorem test_word_cpy : loneOf 0x890A2C00 = some (.cpy 10 11) := by decide +kernel

/-- 07 R155 example. -/
theorem test_word_cpy2 : loneOf 0x894A2C00 = some (.cpy2 10 11) := by decide +kernel

/-- 12 R242 examples. -/
theorem test_word_amo_add : loneOf 0x86051870 = some (.amo 5 6 7 .add) := by decide +kernel

/-- 12 R242 examples. -/
theorem test_word_amo_ar_cas : loneOf 0x86C51872 = some (.amoAr 5 6 7 .cas) := by decide +kernel

/-- 12 R242 examples. -/
theorem test_word_red_rl_fadd : loneOf 0x87401876 = some (.redRl 6 7 .faddD) := by decide +kernel

/-- 13 R261. -/
theorem test_word_fence : loneOf 0x87802400 = some (.fence 9) := by decide +kernel

/-- 18 R344. -/
theorem test_word_waitr_x : loneOf 0x87CA0000 = some (.waitr 0 10 0 0) := by decide +kernel

/-- 18 R344. -/
theorem test_word_waitr_v : loneOf 0x87C31202 = some (.waitr 2 3 4 32) := by decide +kernel

/-- 18 R343. -/
theorem test_word_trap : loneOf 0x8F001C05 = some (.trap 7 5) := by decide +kernel

/-- 18 R345. -/
theorem test_word_srrd : loneOf 0x8E860100 = some (.srrd 6 0x010) := by decide +kernel

/-- 18 R345. -/
theorem test_word_srwr : loneOf 0x8EC70120 = some (.srwr 7 0x012) := by decide +kernel

/-- 14 R276. -/
theorem test_word_nport : loneOf 0x8DCA2C00 = some (.nport 10 11) := by decide +kernel

/-- 14 R276. -/
theorem test_word_npay : loneOf 0x8DCC2C01 = some (.npay 12 11) := by decide +kernel

/-- 14 R276. -/
theorem test_word_nnew : loneOf 0x8DCD3802 = some (.nnew 13 14 0) := by decide +kernel

/-- 14 R276. -/
theorem test_word_nset : loneOf 0x8DCF3403 = some (.nset 15 13) := by decide +kernel

/-- 14 R276. -/
theorem test_word_nsetp : loneOf 0x8DD03514 = some (.nsetp 16 13 17) := by decide +kernel

/-- 14 R276. -/
theorem test_word_nlink : loneOf 0x8DC03525 = some (.nlink 13 18) := by decide +kernel

/-- 14 R276. -/
theorem test_word_npush : loneOf 0x8DC04D46 = some (.npush 19 20) := by decide +kernel

/-- 15 R306. -/
theorem test_word_tagen : loneOf 0x8D802800 = some (.tagen 10) := by decide +kernel

/-- 15 R306. -/
theorem test_word_tagpend : loneOf 0x8D8B0002 = some (.tagpend 11) := by decide +kernel

/-- 15 R306. -/
theorem test_word_tagclr : loneOf 0x8D8B2803 = some (.tagclr 11 10) := by decide +kernel

/-- 15 R295. -/
theorem test_word_tail : loneOf 0x8D000000 = some (.tail) := by decide +kernel

/-- 15 R296. -/
theorem test_word_yield : loneOf 0x8D400000 = some (.yield) := by decide +kernel

/-- 16 R317. -/
theorem test_word_join : loneOf 0x8CCA2C00 = some (.join 10 11) := by decide +kernel

/-- 17 R324. -/
theorem test_word_barinit : loneOf 0x8C0A2CC0 = some (.barinit 10 11 12) := by decide +kernel

/-- 17 R324. -/
theorem test_word_bararw : loneOf 0x8C0A2CC3 = some (.bararw 10 11 12) := by decide +kernel

/-- 17 R331. -/
theorem test_word_loopinit : loneOf 0x8C4A2CC0 = some (.loopinit 10 11 12) := by decide +kernel

/-- 17 R331. -/
theorem test_word_getchunk : loneOf 0x8C4A2C01 = some (.getchunk 10 11) := by decide +kernel

/-- 18 R341. -/
theorem test_word_tctxrd : loneOf 0x8F4A2CC0 = some (.tctxrd 10 11 12) := by decide +kernel

/-- 18 R341. -/
theorem test_word_tkill : loneOf 0x8F4A2C03 = some (.tkill 10 11) := by decide +kernel

/-- 18 R341. -/
theorem test_word_tpreempt : loneOf 0x8F4A2CC4 = some (.tpreempt 10 11 12) := by decide +kernel

/-- 19 R352. -/
theorem test_word_pairon : loneOf 0x8E4A2C00 = some (.pairon 10 11) := by decide +kernel

/-- 19 R352. -/
theorem test_word_pairoff : loneOf 0x8E4A0001 = some (.pairoff 10) := by decide +kernel

/-- 20 R363. -/
theorem test_word_bkpt : loneOf 0x8F800000 = some (.bkpt) := by decide +kernel

/-- 20 R363. -/
theorem test_word_trace : loneOf 0x8F801C01 = some (.trace 7) := by decide +kernel

/-- 08 R162 examples. -/
theorem test_word_clz : pairOf 0x02212019 = some (.clz 4 9) := by decide +kernel

/-- 08 R162 examples. -/
theorem test_word_sext_h : pairOf 0x0221209D = some (.sext 4 9 .h) := by decide +kernel

/-- 08 R164, 03 R64. -/
theorem test_word_movi : pairOf 0x103813C6 = some (.movi 7 0x13C6) := by decide +kernel

/-- 08 R164. -/
theorem test_word_movhi : pairOf 0x123F79B9 = some (.movhi 7 0x779B9) := by decide +kernel

/-- 08 R165 example. -/
theorem test_word_bfx : pairOf 0x1430E203 = some (.bfx 6 7 8 3) := by decide +kernel

/-- 08 R166 example. -/
theorem test_word_cmpi_lt : pairOf 0x1A10ABFC = some (.cmpi 2 5 2 0x3FC) := by decide +kernel

/-- 08 R176 example. -/
theorem test_word_fma_d : pairOf 0x4A3214C0 = some (.fma .d 0 3 4 5 6) := by decide +kernel

/-- 08 R181 example. -/
theorem test_word_fcvti_d_w : pairOf 0x5C480804 = some (.fcvti .d 4 0 0 9 2) := by decide +kernel

/-- 09 R205 example. -/
theorem test_word_vxch : pairOf 0x80208440 = some (.vxch ⟨2, 1, 1, 0, 0, 2, 0⟩) := by decide +kernel

/-- 10 R210 example. -/
theorem test_word_mma_d : pairOf 0xC0516600 = some (.mmaD ⟨10, 11, 12, 0, 0⟩) := by decide +kernel

/-- 03 R72: C-major 0x3F is reserved, and a reserved field that is not zero is illegal. -/
theorem test_word_reserved : loneOf 0x8FC00000 = none ∧ loneOf 0x8F800001 ≠ some .bkpt ∧ pairOf 0x02180018 ≠ some (.add 3 1 2) := by
  decide +kernel

/-- 03 R58: a pair may not start at 4 mod 8. -/
theorem test_frame_pair_at_4 : frame 4 0 0 = none ∧ frame 12 0x02182100 0 = none := by decide +kernel

/-- A row of the table is decoded from its bits (C NOP; LDB x4, [x2+1]). -/
theorem test_tableWord : decodeTableWord 32 0x80000000 = some .nop ∧ decodeTableWord 32 0x80440801 = some (.ldb ⟨4, 2, 0, 1⟩) := by
  decide +kernel

end Sys2Proof.Tests
end

