-- ==== Sys2Proof/Tests/Vectors.lean ====
section
/-! SUPPORT. Floating-point, vector, matrix and special-function words: witnesses of the hypotheses of the statements about
them, and single results by hand from the rules. -/

namespace Sys2Proof.Tests

set_option Elab.async false

open Machine

/-! ## Scalar floating point -/

/-- f1 = 1.5, f2 = 2.25 (FP64), f3 = 1.0 (FP32, boxed), f4 = +infinity, f5 = NaN. -/
def wF : State := atCore 0 fun t => { t with
  f := [(1, 0x3FF8000000000000), (2, 0x4002000000000000), (3, 0xFFFFFFFF3F800000), (4, 0x7FF0000000000000),
    (5, 0x7FF8000000000000)]
  x := [(1, 0xFFFFFFFFFFFFFFFE)] }

theorem witness_FloatArithmetic : operandsFree wF [] (.f 6) = true ∧ curRm wF 0 = some .rne ∧ curRm wF 4 = some .rtz ∧
    curRm wF 5 = some .rne ∧ (getCore wF wF.cur.core).divQueue.length < 4 := by decide +kernel

theorem test_float_arithmetic : leavesF (.fadd .d 0 6 1 2) wF 6 0x400E000000000000 = true ∧
    leavesF (.fsub .d 0 6 1 2) wF 6 0xBFE8000000000000 = true ∧ leavesF (.fmul .d 0 6 1 2) wF 6 0x400B000000000000 = true ∧
    leavesF (.fma .d 0 6 1 2 1) wF 6 0x4013800000000000 = true := by decide +kernel
theorem test_fused_signs : leavesF (.fms .d 0 6 1 2 1) wF 6 0x3FFE000000000000 = true ∧
    leavesF (.fnma .d 0 6 1 2 1) wF 6 0xBFFE000000000000 = true ∧ leavesF (.fnms .d 0 6 1 2 1) wF 6 0xC013800000000000 = true := by
  decide +kernel
theorem test_infinity_minus_infinity : nextIs (exec (.fsub .d 0 6 4 4) wF) (fun t =>
    getF (landed t 0) 6 == 0x7FF8000000000000 && t.cur.flags != 0) = true := by decide +kernel
theorem test_fdiv_fsqrt : nextIs (exec (.fdiv .d 0 6 2 1) wF) (fun t =>
      (getCore t 0).divQueue.map (fun j => (j.val, j.occ)) == [(0x3FF8000000000000, 28)]) = true ∧
    nextIs (exec (.fsqrt .d 0 6 2) wF) (fun t =>
      (getCore t 0).divQueue.map (fun j => (j.val, j.occ)) == [(0x3FF8000000000000, 28)]) = true := by decide +kernel

theorem witness_FloatOtherForms : operandsFree wF [] (.f 6) = true ∧ operandsFree wF [] (.xq 6) = true ∧
    operandsFree wF [1] (.f 6) = true ∧ sourceWords [1] wF = some ([0xFFFFFFFFFFFFFFFE], wF) ∧
    (fsgnBits (fmtFF .d) 0 (fBits wF .d 1) (fBits wF .d 2)).isSome = true ∧
    (fcmpV 2 (fVal wF .d 1) (fVal wF .d 2)).isSome = true ∧ (resultTo wF 6 4 1).isSome = true := by decide +kernel

theorem test_minmax_sign : leavesF (.fminmax .d 0 6 1 2) wF 6 0x3FF8000000000000 = true ∧
    leavesF (.fminmax .d 1 6 1 2) wF 6 0x4002000000000000 = true ∧
    leavesF (.fsgn .d 1 6 1 2) wF 6 0xBFF8000000000000 = true := by decide +kernel
theorem test_fcmp_fclass : leavesP (.fcmp .d 2 2 1 2) wF 2 true = true ∧ leavesP (.fcmp .d 0 2 5 5) wF 2 false = true := by
  decide +kernel
/-- 1.0 in FP32 is 1.0 in FP64; -2 is 0xC0000000 in FP32; 2.25 rounds to 2 towards zero. -/
theorem test_conversions : leavesF (.fcvt .d .s 0 6 3) wF 6 0x3FF0000000000000 = true ∧
    leavesF (.fcvti .s 0 1 2 1 6) wF 6 0xFFFFFFFFC0000000 = true ∧ leavesX (.fcvti .d 4 0 2 6 2) wF 6 2 = true := by decide +kernel
theorem test_fmv : leavesX (.fmv .d 0 6 1) wF 6 0x3FF8000000000000 = true ∧
    leavesF (.fmv .s 1 1 6) wF 6 0xFFFFFFFFFFFFFFFE = true := by decide +kernel

/-- R35 at a tie: 3 units of a half round to 2 under RNE and RMM (1.5), 5 to 2 under RNE and 3 under RMM (2.5). -/
theorem test_rounding_ties : (roundAt .rne false 3 0 false 1).1 = 2 ∧ (roundAt .rne false 5 0 false 1).1 = 2 ∧
    (roundAt .rmm false 5 0 false 1).1 = 3 ∧ (roundAt .rtz false 5 0 false 1).1 = 2 ∧ (roundAt .rup false 5 0 false 1).1 = 3 ∧
    (roundAt .rup true 5 0 false 1).1 = 2 := by decide +kernel

theorem witness_RoundingModes : 0 < 1 ∧ fe2m1 ∈ [fp64, fp32, fp16, bf16, fe5m2, fe4m3, fe2m1] ∧ 7 < 2 ^ ffWidth fe2m1 ∧
    ffDecode fe2m1 7 = .fin false 3 1 := by decide +kernel

theorem witness_ExactSumsAndProducts : (3 : Nat) ≠ 0 ∧
    exMul (.fin false 3 0) (.fin true 5 1) = (.fin true 15 1 false, 0) := by decide +kernel

/-! ## Vectors -/

/-- v1 = bytes 0x7F, 1, 2, 0, ...; v2 = bytes 1, 1, 1, 0, ...; v29 = mask of elements 0 and 2. -/
def wV : State := atCore 0 fun t => { t with
  v := [(1, 0x02017F#512), (2, 0x010101#512), (3, 0xAA0000000000000000#512), (29, 5#512)], x := [(1, 9)] }

theorem witness_VectorElementwise : operandsFree wV [] (.v 4) = true ∧ (8 : Nat) ∈ [8, 16, 32, 64] := by decide +kernel

theorem test_vint : leavesV (.vint ⟨4, 1, 2, 0, 0, 0, 0⟩) wV 4 0x030280#512 = true ∧
    nextIs (exec (.vint ⟨4, 1, 2, 0, 0, 0, 16⟩) wV) (fun t => getV (landed t 0) 4 == 0x03027F#512 && t.cur.flags == fSAT) = true ∧
    leavesV (.vint ⟨4, 1, 2, 1, 0, 0, 0⟩) wV 4 0x030080#512 = true := by decide +kernel
/-- FP64 elements: 1.5 and 2.25, as in the scalar forms. -/
def wVF : State := atCore 0 fun t => { t with v := [(1, 0x3FF8000000000000#512), (2, 0x4002000000000000#512)] }
theorem test_vfp_vfma : nextIs (exec (.vfp ⟨4, 1, 2, 0, 0, 3, 0⟩) wVF) (fun t =>
      velem (getV (landed t 0) 4) 64 0 == 0x400E000000000000) = true ∧
    nextIs (exec (.vfma ⟨4, 1, 2, 0, 0, 3, 0⟩) wVF) (fun t => velem (getV (landed t 0) 4) 64 0 == 0x400B000000000000) = true := by
  decide +kernel
theorem test_vector_moves : nextIs (exec (.vperm ⟨4, 1, 2, 0, 0, 3, 0⟩) wV) (fun t =>
      velem (getV (landed t 0) 4) 64 0 == 0 && velem (getV (landed t 0) 4) 64 7 == 0x02017F) = true ∧
    leavesV (.vslide ⟨4, 1, 1, 0, 0, 0, 0⟩) wV 4 0x0201#512 = true ∧ leavesV (.vslide ⟨4, 1, 1, 0, 0, 0, 2⟩) wV 4 0x02017F00#512 = true ∧
    leavesX (.vmovx 6 1 0 0 0) wV 6 0x7F = true := by decide +kernel
theorem test_vbcast_viota : nextIs (exec (.vbcast ⟨4, 1, 1, 0, 0, 0, 0⟩) wV) (fun t => velem (getV (landed t 0) 4) 8 63 == 1) = true ∧
    nextIs (exec (.viota ⟨4, 0, 0, 0, 0, 0, 0⟩) wV) (fun t => velem (getV (landed t 0) 4) 8 63 == 63) = true := by decide +kernel
theorem test_vscale : nextIs (exec (.vscale ⟨4, 1, 2, 0, 0, 3, 0⟩)
    (atCore 0 fun t => { t with v := [(1, 0x3FF8000000000000#512), (2, 0x80#512)] })) (fun t =>
      velem (getV (landed t 0) 4) 64 0 == 0x4008000000000000) = true := by decide +kernel

theorem witness_VectorOtherForms : operandsFree wV [] (.v 4) = true ∧ curRm wV 0 = some .rne ∧ (63#6).toNat < elems 0 ∧
    operandsFree wV [] (.x 6) = true ∧ (resultTo wV 6 2 5).isSome = true ∧ operandsFree wV [1] (.v 4) = true ∧
    sourceWords [1] wV = some ([9], wV) := by decide +kernel

theorem test_vcmp_vsel : leavesV (.vcmp ⟨4, 1, 2, 0, 0, 0, 0⟩) wV 4 (0xFFFFFFFFFFFFFFFA#512) = true ∧
    leavesV (.vsel ⟨4, 1, 2, 1, 0, 0, 0⟩) wV 4 0x02017F#512 = true := by decide +kernel
theorem test_vred_vdot : nextIs (exec (.vred ⟨4, 1, 2, 0, 0, 0, 0⟩) wV) (fun t => velem (getV (landed t 0) 4) 8 0 == 0x83) = true ∧
    nextIs (exec (.vdot ⟨4, 1, 2, 0, 0, 0, 4⟩) wV) (fun t => velem (getV (landed t 0) 4) 32 0 == 0x82) = true := by decide +kernel
theorem test_vmask_vmovx : leavesV (.vmask ⟨4, 1, 2, 0, 0, 0, 0b1000⟩) wV 4 0x000101#512 = true ∧
    leavesV (.vmovx 1 4 3 0 2) wV 4 0x09000000#512 = true := by decide +kernel

/-! ## Gang exchange -/

def gang2 : Gang := ⟨0, 2, [0, 0], [0, 0], [(0, false), (0, false)]⟩

def wVecGang : State :=
  let s := setSlot wV 1 0 { Slot.empty with held := true, gtid := taskOf 1, region := 1, v := [(1, 0x55#512)] }
  formGang s gang2

theorem witness_GangExchange : (getCore wVecGang wVecGang.cur.core).gang = some gang2 ∧ operandsFree wVecGang [] (.v 4) = true ∧
    (1#5).toNat < gang2.size ∧ (0#5).toNat < 3 ∧ gang2.base ≤ wVecGang.cur.core ∧ wVecGang.cur.core < gang2.base + gang2.size ∧
    (getCore wV wV.cur.core).gang = none ∧ gang2.size ≤ (2#5).toNat := by decide +kernel

theorem test_vxch : leavesV (.vxch ⟨4, 1, 1, 0, 0, 0, 0⟩) wVecGang 4 0x55#512 = true ∧
    trapsWith (.vxch ⟨4, 1, 1, 0, 0, 0, 0⟩) wV ⟨1, 0, 0, 0⟩ = true ∧ trapsWith (.vxch ⟨4, 1, 2, 0, 0, 0, 0⟩) wVecGang ⟨1, 0, 0, 0⟩ = true := by
  decide +kernel

/-! ## Special functions -/

/-- q0 = FUNC 5 (reciprocal), FP64. -/
def wS : State := atCore 0 fun t => { t with q0 := 5, x := [(1, 0x4000000000000000)] }

def wSfull : State := modCur wS fun t => { t with sfuReq := List.replicate 8 ⟨5, 0, 1, 0, 1⟩ }

theorem witness_SfuRequests : queueWritable wS.cur.core 0 = true ∧ (255#64).toNat < 256 ∧ (0x45#64).toNat % 16 ≠ 15 ∧
    (0x45#64).toNat / 16 % 4 = 0 ∧ 256 ≤ (256#64).toNat ∧ (curSlot wS).q0.toNat % 16 ≠ 0 ∧ (curSlot (withX [])).q0.toNat % 16 = 0 ∧
    (curSlot wS).sfuReq.length < 8 ∧ 8 ≤ (curSlot wSfull).sfuReq.length := by decide +kernel

theorem test_sfu_pushes : nextIs (exec (.q0Push 0x45) (withX [])) (fun t => (curSlot t).q0 == 0x45) = true ∧
    trapsWith (.q0Push 0x15) (withX []) ⟨10, 0, 0, 0⟩ = true ∧ trapsWith (.q1Push 1) (withX []) ⟨10, 1, 0, 0⟩ = true ∧
    waitsFor (.q1Push 1) wSfull = true ∧ nextIs (exec (.q1Push 7) wS) (fun t => (curSlot t).sfuReq.length == 1) = true := by
  decide +kernel

/-- A reciprocal of 2.0 whose request stands in the FIFO since cycle 10. -/
def wReq : State := modCur wS fun t => { t with sfuReq := [⟨5, 0, 0x4000000000000000, 0, 10⟩] }

def wFly : State := modCur wS fun t => { t with sfuFly := [⟨5, 0, 0x3FE0000000000000, 0, 100⟩] }

def wRes : State := modCur wS fun t => { t with sfuRes := [⟨5, 0, 0x3FE0000000000000, 0, 100⟩] }

theorem witness_SfuResults : sfuPick wReq 0 = some 0 ∧ sfuCoreAt 0 0 = 0 ∧
    (getSlot wReq 0 0).sfuReq = ⟨5, 0, 0x4000000000000000, 0, 10⟩ :: [] ∧
    (getSlot wFly 0 0).sfuFly = ⟨5, 0, 0x3FE0000000000000, 0, 100⟩ :: [] ∧ 100 ≤ wFly.cycle ∧
    { wFly with cycle := 99 }.cycle < 100 ∧ queueReadable wRes.cur.core 1 = true ∧
    (curSlot wRes).sfuRes = ⟨5, 0, 0x3FE0000000000000, 0, 100⟩ :: [] ∧ (curSlot wS).sfuRes = [] := by decide +kernel

theorem test_sfu_start : nextIs (exec (.sfuStart 0) wReq) (fun t =>
    (getSlot t 0 0).sfuFly.map (fun r => (r.val, r.doneAt)) == [(0x3FE0000000000000, 124)]) = true := by decide +kernel
theorem test_sfu_result_and_pop : nextIs (exec (.sfuResult 0 0) wFly) (fun t => (getSlot t 0 0).sfuRes.length == 1) = true ∧
    nextIs (exec .q1Pop wRes) (fun t => t.cur.popped == [0x3FE0000000000000] && (curSlot t).q3 == [0x500]) = true ∧
    waitsFor .q1Pop wS = true := by decide +kernel

end Sys2Proof.Tests
end

namespace Sys2Proof.Proofs

open Machine

/-! ## Predicated words (03 R63) -/

@[simp] theorem rdP_app (p : PField) (s : State) : rdP p s = .ok (getP (curSlot s) p.toNat, s) := rfl

/-- Under a false predicate the body of a CM form is never entered, so not even its operands are looked at. -/
theorem whenP_of_false {p : PField} {s : State} (body : Op Unit) (hp : getP (curSlot s) p.toNat = false) :
    whenP p body s = .ok ((), s) := by
  simp [whenP, hp]

theorem runOp_whenP_of_false {p : PField} {s : State} (body : Op Unit) (hp : getP (curSlot s) p.toNat = false) :
    runOp (whenP p body) s = .next s := by
  simp [runOp, whenP_of_false body hp]

/-- The word's whole meaning stands under the predicate `p`. -/
def Predicated (i : Instr) (p : PField) : Prop :=
  ∃ body : Op Unit, ∀ s, exec i s = runOp (whenP p body) s

theorem Predicated.exec_of_false {i : Instr} {p : PField} {s : State} (hi : Predicated i p)
    (hp : getP (curSlot s) p.toNat = false) : exec i s = .next s := by
  obtain ⟨body, hexec⟩ := hi
  rw [hexec, runOp_whenP_of_false body hp]

theorem predicated_scalarForm {form : Cm → Instr} (m : Cm)
    (hform : form ∈ ([.ldb, .ldbu, .ldh, .ldhu, .ldw, .ldwu, .ldd, .stb, .sth, .stw, .std, .stn] : List (Cm → Instr))) :
    Predicated (form m) m.p := by
  simp only [List.mem_cons, List.not_mem_nil, or_false] at hform
  rcases hform with rfl | rfl | rfl | rfl | rfl | rfl | rfl | rfl | rfl | rfl | rfl | rfl <;> exact ⟨_, fun _ => rfl⟩

theorem predicated_floatOrVectorForm {form : CmF → Instr} (m : CmF)
    (hform : form ∈ ([.fldS, .fldD, .fstS, .fstD, .vld, .vst] : List (CmF → Instr))) :
    Predicated (form m) m.p := by
  simp only [List.mem_cons, List.not_mem_nil, or_false] at hform
  rcases hform with rfl | rfl | rfl | rfl | rfl | rfl <;> exact ⟨_, fun _ => rfl⟩

/-- The condition by which `bpOp` branches is the exclusive or of R63. -/
theorem bp_taken_eq_xor (q : Bool) (n : BitVec 1) : (q != (n.toNat == 1)) = (q ^^ (n == 1#1)) := by
  decide +revert

theorem exec_bp_of_not_taken {p : PField} {n : BitVec 1} (off : BitVec 18) {s : State}
    (hnot : (getP (curSlot s) p.toNat ^^ (n == 1#1)) = false) : exec (.bp p n off) s = .next s := by
  rw [← bp_taken_eq_xor] at hnot
  have hop : bpOp p n off s = .ok ((), s) := by simp [bpOp, bne_eq_false_iff_eq.mp hnot]
  change runOp (bpOp p n off) s = .next s
  simp [runOp, hop]

/-- p0 reads true whatever stands in the slot (03 R66). -/
@[simp] theorem getP_zero (t : Slot) : getP t 0 = true := rfl

/-- Settles O59: every CM form stands whole under its predicate, and an untaken BP ends before its target is formed; p0 reads
true, which n = 1 inverts. -/
theorem falsePredicates : Obligations.FalsePredicates := by
  unfold Obligations.FalsePredicates
  refine ⟨?scalarForms, ?otherForms, ?bp, ?bpNever⟩
  case scalarForms =>
    intro k form m s hform hp
    exact (predicated_scalarForm m (List.mem_of_getElem? hform)).exec_of_false hp
  case otherForms =>
    intro k form m s hform hp
    exact (predicated_floatOrVectorForm m (List.mem_of_getElem? hform)).exec_of_false hp
  case bp => exact fun p n off s hnot => exec_bp_of_not_taken off hnot
  case bpNever => exact fun off s => exec_bp_of_not_taken off (by simp)

end Sys2Proof.Proofs

namespace Sys2Proof.Proofs

open Machine

/-! ## What a pop leaves of the registers (03 R66, R69) -/

/-- `t` has the same bundle at work as `s`, and every slot the same registers. -/
def KeepsRegisters (s t : State) : Prop :=
  t.cur.core = s.cur.core ∧ t.cur.slot = s.cur.slot ∧ ∀ c i, SameRegisters s t c i

theorem KeepsRegisters.refl (s : State) : KeepsRegisters s s :=
  ⟨rfl, rfl, fun _ _ => ⟨rfl, rfl, rfl, rfl⟩⟩

theorem KeepsRegisters.trans {s t u : State} (hst : KeepsRegisters s t) (htu : KeepsRegisters t u) :
    KeepsRegisters s u := by
  obtain ⟨hcore, hslot, hregs⟩ := hst
  obtain ⟨hcore', hslot', hregs'⟩ := htu
  refine ⟨hcore'.trans hcore, hslot'.trans hslot, fun c i => ?_⟩
  obtain ⟨hx, hf, hv, hp⟩ := hregs c i
  obtain ⟨hx', hf', hv', hp'⟩ := hregs' c i
  exact ⟨hx'.trans hx, hf'.trans hf, hv'.trans hv, hp'.trans hp⟩

theorem KeepsRegisters.xOf_eq {s t : State} (h : KeepsRegisters s t) (f : XField) : xOf t f = xOf s f := by
  obtain ⟨hcore, hslot, hregs⟩ := h
  obtain ⟨hx, _, _, _⟩ := hregs s.cur.core s.cur.slot
  simp [xOf, getX, curSlot, hcore, hslot, hx]

theorem KeepsRegisters.getP_eq {s t : State} (h : KeepsRegisters s t) (n : Nat) :
    getP (curSlot t) n = getP (curSlot s) n := by
  obtain ⟨hcore, hslot, hregs⟩ := h
  obtain ⟨_, _, _, hp⟩ := hregs s.cur.core s.cur.slot
  simp [getP, curSlot, hcore, hslot, hp]

/-- An operation that touches no core. -/
theorem keepsRegisters_of_sameCores {s t : State} (hcore : t.cur.core = s.cur.core) (hslot : t.cur.slot = s.cur.slot)
    (hcores : t.cores = s.cores) : KeepsRegisters s t := by
  simp [KeepsRegisters, SameRegisters, getSlot, getCore, hcore, hslot, hcores]

theorem keepsRegisters_modDie (s : State) (d : Nat) (f : Die → Die) : KeepsRegisters s (modDie s d f) :=
  keepsRegisters_of_sameCores rfl rfl rfl

theorem keepsRegisters_rcbPut (s : State) (r : Region) (w hi lo v : Nat) : KeepsRegisters s (rcbPut s r w hi lo v) :=
  keepsRegisters_of_sameCores rfl rfl rfl

theorem keepsRegisters_physWrite (s : State) (pa key : Nat) (d : List Byte) : KeepsRegisters s (physWrite s pa key d) :=
  keepsRegisters_of_sameCores rfl rfl rfl

theorem keepsRegisters_modRegion (s : State) (r : Nat) (f : Region → Region) : KeepsRegisters s (modRegion s r f) :=
  keepsRegisters_of_sameCores (by simp) (by simp) (by simp)

theorem getSlot_modCore_of_slots (s : State) (c : Nat) {f : Core → Core} (hf : ∀ k, (f k).slots = k.slots) (d i : Nat) :
    getSlot (modCore s c f) d i = getSlot s d i := by
  by_cases hd : d = c
  · subst hd; simp [getSlot, coreSlot, hf]
  · simp [getSlot, getCore_modCore_ne _ _ _ _ hd]

theorem keepsRegisters_modCore (s : State) (c : Nat) {f : Core → Core} (hf : ∀ k, (f k).slots = k.slots) :
    KeepsRegisters s (modCore s c f) := by
  simp [KeepsRegisters, SameRegisters, getSlot_modCore_of_slots s c hf]

theorem keepsRegisters_modCur (s : State) {f : Slot → Slot}
    (hf : ∀ t, (f t).x = t.x ∧ (f t).f = t.f ∧ (f t).v = t.v ∧ (f t).p = t.p := by exact fun _ => ⟨rfl, rfl, rfl, rfl⟩) :
    KeepsRegisters s (modCur s f) := by
  refine ⟨rfl, rfl, fun c i => ?_⟩
  by_cases h : c = s.cur.core ∧ i = s.cur.slot
  · obtain ⟨rfl, rfl⟩ := h
    simpa [SameRegisters, modCur] using hf _
  · have hne : getSlot (modCur s f) c i = getSlot s c i := getSlot_modSlot_ne _ _ _ _ _ _ (by omega)
    simp [SameRegisters, hne]

theorem keepsRegisters_mergeFlags (src : Nat) (fl : BitVec 6) (s : State) : KeepsRegisters s (mergeFlags src fl s) :=
  keepsRegisters_modCur s (f := fun t => { t with fpflg := t.fpflg ||| BitVec.ofNat 64 fl.toNat })

theorem keepsRegisters_foldl {α : Type} {f : State → α → State} (hf : ∀ s a, KeepsRegisters s (f s a)) (l : List α)
    (s : State) : KeepsRegisters s (l.foldl f s) := by
  induction l generalizing s with
  | nil => exact .refl s
  | cons a r ih => exact (hf s a).trans (ih (f s a))

/-! ### The node pool behind q8 (14 R280, 04 R100, R103) -/

theorem keepsRegisters_notifyAppend {s u : State} {r : Region} {va size die count : Nat}
    (h : notifyAppend s r va size die count = some u) : KeepsRegisters s u := by
  unfold notifyAppend at h
  split at h
  · cases h
  split at h
  · cases h
  dsimp only at h
  split at h
  · cases h
  split at h
  · cases h
  · cases h; exact (keepsRegisters_physWrite ..).trans (keepsRegisters_rcbPut ..)

theorem keepsRegisters_countAccess (s : State) (p : AccPage) (n : Nat) : KeepsRegisters s (countAccess s p n) := by
  unfold countAccess
  split
  · exact .refl s
  · dsimp only
    refine KeepsRegisters.trans ?_ (keepsRegisters_modDie ..)
    -- the page's count so far, then whether the threshold is met
    split
    all_goals
      split
      · cases hn : notifyAppend _ _ _ _ _ _ with
        | none => exact .refl s
        | some u => exact keepsRegisters_notifyAppend hn
      · exact .refl s

theorem keepsRegisters_countNode (s : State) (rid idx : Nat) : KeepsRegisters s (countNode s rid idx) := by
  unfold countNode
  split
  · exact .refl s
  · unfold countUnits
    split
    · exact .refl s
    · exact keepsRegisters_foldl (fun s _ => keepsRegisters_countAccess s _ 1) _ s

theorem keepsRegisters_alogClearStep (rid : Nat) (s : State) : KeepsRegisters s (alogClearStep rid s) := by
  unfold alogClearStep
  split
  · exact .refl s
  · dsimp only
    split
    · exact (keepsRegisters_rcbPut ..).trans (keepsRegisters_rcbPut ..)
    · exact keepsRegisters_rcbPut ..

theorem keepsRegisters_sawClear (s : State) (pa n : Nat) : KeepsRegisters s (sawClear s pa n) := by
  unfold sawClear
  split
  · split
    · exact keepsRegisters_alogClearStep ..
    · exact .refl s
  · exact .refl s

theorem keepsRegisters_physApply (s : State) (pa key : Nat) (w : WritePkt) : KeepsRegisters s (physApply s pa key w) := by
  refine KeepsRegisters.trans ?_ (keepsRegisters_sawClear _ pa w.data.length)
  cases w.kind <;> exact keepsRegisters_physWrite ..

theorem keepsRegisters_holdApply (s : State) (d c pa key root : Nat) (w : WritePkt) :
    KeepsRegisters s (holdApply s d c pa key root w) := by
  unfold holdApply
  split
  · exact keepsRegisters_physApply s pa key w
  · exact keepsRegisters_modDie ..

theorem keepsRegisters_markDirty (s : State) (core a n : Nat) : KeepsRegisters s (markDirty s core a n) := by
  unfold markDirty
  split
  · exact .refl s
  · exact keepsRegisters_modCore s core fun _ => rfl

theorem keepsRegisters_undoPatch (s : State) (c a : Nat) (w : WritePkt) : KeepsRegisters s (undoPatch s c a w) :=
  keepsRegisters_modCore s c fun k => by cases k.pair <;> rfl

theorem keepsRegisters_spWrite (s : State) (c a region : Nat) (d : List Byte) :
    KeepsRegisters s (spWrite s c a region d) :=
  keepsRegisters_modCore s c fun _ => rfl

theorem keepsRegisters_locApply (s : State) (rid : Nat) (w : WritePkt) : KeepsRegisters s (locApply s rid w) := by
  unfold locApply
  dsimp only
  split
  · split
    · split
      · exact keepsRegisters_spWrite ..
      all_goals exact (keepsRegisters_spWrite ..).trans (keepsRegisters_markDirty ..)
    · exact (keepsRegisters_spWrite ..).trans (keepsRegisters_undoPatch ..)
  · exact keepsRegisters_physApply ..
  · exact keepsRegisters_holdApply ..

theorem keepsRegisters_nodeWrite (s : State) (rid idx at_ : Nat) (ws : List Word) :
    KeepsRegisters s (nodeWrite s rid idx at_ ws) := by
  unfold nodeWrite
  split
  · exact .refl s
  · exact keepsRegisters_locApply ..

theorem keepsRegisters_poolTake {s u : State} {core rid i g : Nat} (h : poolTake s core rid = some (i, g, u)) :
    KeepsRegisters s u := by
  unfold poolTake at h
  split at h
  · cases h
  · cases h
    refine .trans ?_ (keepsRegisters_modRegion ..)
    refine .trans ?_ (keepsRegisters_modCore _ core fun _ => rfl)
    exact (keepsRegisters_countNode ..).trans (keepsRegisters_nodeWrite ..)

theorem keepsRegisters_ringTake {s u : State} {w0 w1 : Word} (h : ringTake s = some (w0, w1, u)) :
    KeepsRegisters s u := by
  unfold ringTake at h
  split at h
  · cases h
  split at h
  · cases h
  dsimp only at h
  split at h
  · cases h
  · cases h; exact keepsRegisters_rcbPut ..

/-! ### The pops -/

theorem keepsRegisters_change_popped {f : State → State} {s t : State} {v w : Word} (hf : KeepsRegisters s (f s))
    (h : (do change f; popped v) s = .ok (w, t)) : KeepsRegisters s t := by
  cases h
  exact hf.trans (keepsRegisters_of_sameCores rfl rfl rfl)

theorem keepsRegisters_popQ1 {s t : State} {v : Word} (h : popQ1 s = .ok (v, t)) : KeepsRegisters s t := by
  rw [popQ1, op_bind_ok, look_app] at h
  cases hq : (curSlot s).sfuRes <;> simp only [hq] at h
  · cases h
  · rw [op_bind_ok, change_app] at h
    exact (keepsRegisters_modCur ..).trans (keepsRegisters_change_popped (keepsRegisters_mergeFlags ..) h)

theorem keepsRegisters_popQ3 {s t : State} {v : Word} (h : popQ3 s = .ok (v, t)) : KeepsRegisters s t := by
  rw [popQ3, op_bind_ok, look_app] at h
  cases hq : (curSlot s).q3 <;> simp only [hq] at h
  · cases h
  · exact keepsRegisters_change_popped (keepsRegisters_modCur ..) h

theorem keepsRegisters_popQ6 {s t : State} {v : Word} (h : popQ6 s = .ok (v, t)) : KeepsRegisters s t := by
  rw [popQ6, op_bind_ok, look_app] at h
  cases hq : (curSlot s).q6 <;> simp only [hq] at h
  · cases h
  · exact keepsRegisters_change_popped (keepsRegisters_modCur ..) h

theorem keepsRegisters_popQ7 {s t : State} {v : Word} (h : popQ7 s = .ok (v, t)) : KeepsRegisters s t := by
  rw [popQ7, op_bind_ok, look_app] at h
  cases hq : (curSlot s).q7 <;> simp only [hq] at h
  · cases h
  · exact keepsRegisters_change_popped (keepsRegisters_modCur ..) h

theorem keepsRegisters_popQ11 {s t : State} {v : Word} (h : popQ11 s = .ok (v, t)) : KeepsRegisters s t := by
  rw [popQ11, op_bind_ok, look_app] at h
  cases hq : (curSlot s).q11 <;> simp only [hq] at h
  · cases h
  · exact keepsRegisters_change_popped (keepsRegisters_modCur ..) h

/-- A guard that lets the operation go on leaves the state as it is. -/
theorem of_stallIf_bind {α : Type} {b : Bool} {m : Unit → Op α} {s t : State} {a : α}
    (h : (stallIf b >>= m) s = .ok (a, t)) : m () s = .ok (a, t) := by
  cases b <;> simp_all

theorem of_awaitAll_bind {α : Type} {ls : List Nat} {m : Unit → Op α} {s t : State} {a : α}
    (h : (awaitAll ls >>= m) s = .ok (a, t)) : m () s = .ok (a, t) := by
  cases ls <;> simp_all [awaitAll]

theorem keepsRegisters_popQ8 {s t : State} {v : Word} (h : popQ8 s = .ok (v, t)) : KeepsRegisters s t := by
  rw [popQ8, op_bind_ok, look_app] at h
  replace h := of_awaitAll_bind (of_stallIf_bind h)
  cases htake : poolTake s s.cur.core (curSlot s).region <;> simp only [htake] at h
  · cases h
  · exact keepsRegisters_change_popped ((keepsRegisters_poolTake htake).trans (keepsRegisters_modCur ..)) h

theorem keepsRegisters_popQ13 {s t : State} {v : Word} (h : popQ13 s = .ok (v, t)) : KeepsRegisters s t := by
  rw [popQ13, op_bind_ok, look_app] at h
  cases hhalf : (curSlot s).q13Half <;> simp only [hhalf] at h
  · replace h := of_stallIf_bind h
    cases htake : ringTake s <;> simp only [htake] at h
    · cases h
    · exact keepsRegisters_change_popped ((keepsRegisters_ringTake htake).trans (keepsRegisters_modCur ..)) h
  · exact keepsRegisters_change_popped (keepsRegisters_modCur ..) h

theorem keepsRegisters_popQueue {q : Nat} {s t : State} {v : Word} (h : popQueue q s = .ok (v, t)) :
    KeepsRegisters s t := by
  unfold popQueue at h
  split at h
  · exact keepsRegisters_popQ1 h
  · exact keepsRegisters_popQ3 h
  · exact keepsRegisters_popQ6 h
  · exact keepsRegisters_popQ7 h
  · exact keepsRegisters_popQ8 h
  · exact keepsRegisters_popQ11 h
  · exact keepsRegisters_popQ13 h
  · cases h

/-- Reading a scalar source, popped or not, leaves every register alone. -/
theorem keepsRegisters_rdX {f : XField} {s t : State} {v : Word} (h : rdX f s = .ok (v, t)) : KeepsRegisters s t := by
  unfold rdX at h
  split at h
  · exact keepsRegisters_popQueue h
  · cases h; exact .refl s

end Sys2Proof.Proofs

namespace Sys2Proof.Proofs

open Machine

/-! ## Values of the immediate and bit-field forms (08 R164, R165, R169) -/

theorem eq_shiftLeft_of_toNat {n : Nat} {a w : Word} (h : w.toNat = a.toNat * 2 ^ n % 2 ^ 64) : w = a <<< n :=
  BitVec.eq_of_toNat_eq (by rw [h, BitVec.toNat_shiftLeft, Nat.shiftLeft_eq])

theorem eq_ushiftRight_of_toNat {n : Nat} {a w : Word} (h : w.toNat = a.toNat / 2 ^ n) : w = a >>> n :=
  BitVec.eq_of_toNat_eq (by rw [h, BitVec.toNat_ushiftRight, Nat.shiftRight_eq_div_pow])

theorem eq_sshiftRight_of_toInt {n : Nat} {a w : Word} (h : w.toInt = a.toInt / 2 ^ n) : w = a.sshiftRight n :=
  BitVec.eq_of_toInt_eq (by rw [h, BitVec.toInt_sshiftRight, Int.shiftRight_eq_div_pow]; norm_cast)

theorem eq_add_shiftLeft_of_toNat {n : Nat} {a b w : Word} (h : w.toNat = (a.toNat + b.toNat * 2 ^ n) % 2 ^ 64) :
    w = a + b <<< n :=
  BitVec.eq_of_toNat_eq (by simp [h, Nat.shiftLeft_eq])

theorem toInt_immS {n : Nat} (imm : BitVec n) (hn : n ≤ 64) : (immS imm).toInt = imm.toInt :=
  BitVec.toInt_signExtend_of_le hn

theorem boolWord_decide (p : Prop) [Decidable p] : boolWord (decide p) = if p then 1 else 0 := by
  by_cases hp : p <;> simp [boolWord, hp]

/-- MOVHI sets its 19 immediate bits below the shifted register, where nothing overlaps them. -/
theorem toNat_movhi (d : Word) (imm : BitVec 19) :
    ((d <<< (19 : Nat)) ||| imm.zeroExtend 64).toNat = d.toNat * 2 ^ 19 % 2 ^ 64 + imm.toNat := by
  have hhigh : d.toNat * 2 ^ 19 % 2 ^ 64 = 2 ^ 19 * (d.toNat % 2 ^ 45) := by omega
  rw [BitVec.toNat_or, BitVec.toNat_shiftLeft, BitVec.toNat_setWidth_of_le (by omega), Nat.shiftLeft_eq, hhigh,
    Nat.two_pow_add_eq_or_of_lt imm.isLt]

/-- The number with its bits [lo+n:lo] replaced, written from its high part, the new field and its low part. -/
theorem putBits_eq (v lo n x : Nat) : putBits v (lo + n) lo x =
    2 ^ lo * (2 ^ (n + 1) * (v / 2 ^ lo / 2 ^ (n + 1)) + x % 2 ^ (n + 1)) + v % 2 ^ lo := by
  have hhigh := Nat.div_add_mod (v / 2 ^ lo) (2 ^ (n + 1))
  have hall := Nat.div_add_mod v (2 ^ lo)
  rw [← hhigh, Nat.mul_add] at hall
  rw [putBits, bits, show lo + n + 1 - lo = n + 1 by omega, Nat.mul_add, Nat.mul_comm _ (2 ^ lo), Nat.mul_comm _ (2 ^ lo)]
  omega

theorem testBit_putBits (v lo n x k : Nat) :
    (putBits v (lo + n) lo x).testBit k = if lo ≤ k ∧ k ≤ lo + n then x.testBit (k - lo) else v.testBit k := by
  rw [putBits_eq, Nat.testBit_two_pow_mul_add _ (Nat.mod_lt _ (Nat.two_pow_pos _)),
    Nat.testBit_two_pow_mul_add _ (Nat.mod_lt _ (Nat.two_pow_pos _))]
  rcases Nat.lt_or_ge k lo with hlow | hge
  · simp [hlow, show ¬ lo ≤ k by omega]
  · rcases Nat.lt_or_ge (k - lo) (n + 1) with hin | hhigh
    · simp [hin, hge, show ¬ k < lo by omega, show k ≤ lo + n by omega]
    · simp only [show ¬ k < lo by omega, show ¬ k - lo < n + 1 by omega, show ¬ k ≤ lo + n by omega, and_false, if_false,
        Nat.testBit_div_two_pow]
      congr 1; omega

theorem getLsbD_bfxW (a : Word) (pos wm1 k : Nat) (hfit : pos + wm1 < 64) :
    (bfxW a pos wm1).getLsbD k = (decide (k ≤ wm1) && a.getLsbD (pos + k)) := by
  rw [bfxW, w64, BitVec.getLsbD_ofNat, Nat.testBit_mod_two_pow, Nat.testBit_div_two_pow, BitVec.testBit_toNat, Nat.add_comm k]
  by_cases hk : k ≤ wm1
  · simp [hk, show k < 64 by omega, show k < wm1 + 1 by omega]
  · simp [hk, show ¬ k < wm1 + 1 by omega]

theorem getLsbD_bfiW (d a : Word) (pos wm1 k : Nat) (hk : k < 64) :
    (bfiW d a pos wm1).getLsbD k = if pos ≤ k ∧ k ≤ pos + wm1 then a.getLsbD (k - pos) else d.getLsbD k := by
  rw [bfiW, w64, BitVec.getLsbD_ofNat, testBit_putBits, Nat.testBit_mod_two_pow]
  simp only [hk, decide_true, Bool.true_and, BitVec.testBit_toNat]
  refine ite_congr rfl (fun hin => ?_) fun _ => rfl
  simp [show k - pos < wm1 + 1 by omega]

/-! ## How the scalar forms run (08 R162-R169) -/

/-- A word that reads its destination takes a register there just where a word that may push takes it (03 R68). -/
theorem operandsFree_x_of_xq {s : State} {srcs : List XField} {rd : XField} (hrd : isQ rd = false)
    (hfree : operandsFree s srcs (.xq rd) = true) : operandsFree s srcs (.x rd) = true := by
  simpa [operandsFree, dstReady, dstReg, namesQ1415, misuse, hrd] using hfree

theorem mapM_rdX_of_sourceWords {srcs : List XField} {s s1 : State} {vs : List Word}
    (h : sourceWords srcs s = some (vs, s1)) : srcs.mapM rdX s = .ok (vs, s1) := by
  induction srcs generalizing s vs with
  | nil => cases h; rfl
  | cons f r ih =>
    rw [sourceWords] at h
    split at h
    · next v s2 hv =>
      split at h
      · next us s3 hus => cases h; simp_all [List.mapM_cons, -bind_pure_comp]
      · cases h
    · cases h

theorem keepsRegisters_sourceWords {srcs : List XField} {s s1 : State} {vs : List Word}
    (h : sourceWords srcs s = some (vs, s1)) : KeepsRegisters s s1 := by
  induction srcs generalizing s vs with
  | nil => cases h; exact .refl _
  | cons f r ih =>
    rw [sourceWords] at h
    split at h
    · next v s2 hv =>
      split at h
      · next us s3 hus => cases h; exact (keepsRegisters_rdX hv).trans (ih hus)
      · cases h
    · cases h

/-- A word that reads its destination: the register's value before the word, sources popped or not, goes into the result. -/
theorem runOp_readsDst {rd : XField} {srcs : List XField} {s s1 : State} {vs : List Word} (f : Word → List Word → Word)
    (hrd : isQ rd = false) (hfree : operandsFree s srcs (.xq rd) = true) (hs : sourceWords srcs s = some (vs, s1)) :
    runOp (readsDst rd srcs f) s = .next (lateTo s1 (.x rd.toNat) 1
      (BitVec.ofNat 512 (f (xOf s rd) vs).toNat) (BitVec.allOnes 512)) := by
  simp [runOp, readsDst, operands_free (operandsFree_x_of_xq hrd hfree), mapM_rdX_of_sourceWords hs, wrX, hrd, writeLate,
    lateTo, xOf]

theorem gives1Sound_addi (rd ra : XField) (imm : BitVec 13) :
    Gives1Sound (.addi rd ra imm) rd ra (fun a w => w = a + imm.signExtend 64) := by
  rintro s s1 t _ _ hfree hsound hs ⟨a, rfl, rfl⟩ ht
  have hgood : anyBad s [ra] = false := by simpa [soundSources] using hsound
  change runOp (addiOp rd ra imm) s = .next t
  simp [runOp, addiOp, operands_free hfree, sw1 hs, hgood, wrXPredicted, immS, rt ht]

theorem givesX_movi (rd : XField) (imm : BitVec 19) :
    GivesX (.movi rd imm) [] rd 1 (fun _ (w : Word) => w.toInt = imm.toInt) := by
  rintro s s1 t vs w hfree hs hw ht
  cases hs
  obtain rfl : w = immS imm := BitVec.eq_of_toInt_eq (by rw [hw, toInt_immS imm (by omega)])
  change runOp (moviOp rd imm) s = .next t
  simp [runOp, moviOp, operands_free hfree, rt ht]

theorem exec_movhi {rd : XField} (imm : BitVec 19) {s : State} (hrd : isQ rd = false)
    (hfree : operandsFree s [] (.xq rd) = true) :
    exec (.movhi rd imm) s = .next (lateTo s (.x rd.toNat) 1
      (BitVec.ofNat 512 ((xOf s rd).toNat * 2 ^ 19 % 2 ^ 64 + imm.toNat)) (BitVec.allOnes 512)) := by
  rw [← toNat_movhi]
  exact runOp_readsDst (fun d _ => (d <<< (19 : Nat)) ||| imm.zeroExtend 64) hrd hfree rfl

/-- The register that BFI inserts into is the one after its source's pop too: a pop changes no register. -/
theorem exec_bfi {rd ra : XField} {pos wm1 : BitVec 6} {s s1 : State} {a w : Word} (hrd : isQ rd = false)
    (hfree : operandsFree s [ra] (.xq rd) = true) (hs : sourceWords [ra] s = some ([a], s1))
    (hw : ∀ k, w.getLsbD k = if pos.toNat ≤ k ∧ k ≤ pos.toNat + wm1.toNat then a.getLsbD (k - pos.toNat)
      else (xOf s1 rd).getLsbD k) :
    exec (.bfi rd ra pos wm1) s =
      .next (lateTo s1 (.x rd.toNat) 1 (BitVec.ofNat 512 w.toNat) (BitVec.allOnes 512)) := by
  obtain rfl : w = bfiW (xOf s rd) a pos.toNat wm1.toNat := BitVec.eq_of_getLsbD_eq fun k hk => by
    rw [hw, getLsbD_bfiW _ _ _ _ _ hk, (keepsRegisters_sourceWords hs).xOf_eq]
  change runOp (readsDst rd [ra] fun d vs => bfiW d (vs.headD 0#64) pos.toNat wm1.toNat) s = _
  rw [runOp_readsDst _ hrd hfree hs, List.headD_cons]

theorem toNat_beq_one (n : BitVec 1) : (n.toNat == 1) = (n == 1#1) := by
  decide +revert

/-- SEL reads its predicate after its sources; a pop changes no predicate. -/
theorem exec_sel {rd ra rb : XField} {p : PField} {inv : BitVec 1} {s s1 t : State} {a b : Word}
    (hfree : operandsFree s [ra, rb] (.xq rd) = true) (hs : sourceWords [ra, rb] s = some ([a, b], s1))
    (ht : resultTo s1 rd 1 (if getP (curSlot s) p.toNat != (inv == 1#1) then a else b) = some t) :
    exec (.sel rd ra rb p inv) s = .next t := by
  obtain ⟨s2, ha, hb⟩ := sw2 hs
  rw [← (keepsRegisters_sourceWords hs).getP_eq, ← toNat_beq_one] at ht
  change runOp (selOp rd ra rb p inv) s = .next t
  simp [runOp, selOp, operands_free hfree, ha, hb, rt ht, -bne_iff_ne]

/-- Settles O9: each form's value is the one its bits or its number determine, and BFI and SEL read the same register and
predicate before and after their sources' pops. -/
theorem immediateResults : Obligations.ImmediateResults := by
  unfold Obligations.ImmediateResults
  intro rd ra rb imm n
  refine ⟨gives1Sound_addi rd ra imm, ?andi, ?ori, ?xori, ?slli, ?srli, ?srai, fun i12 => ⟨?slti, ?sltiu⟩,
    givesX_movi rd, fun i19 s => exec_movhi i19, fun pos wm1 hfit => ⟨?bfx, ?bfi⟩, ?sel, ?addsh⟩
  case andi => exact gives1_unOp (fun _ => rfl) fun _ _ hw => hw
  case ori => exact gives1_unOp (fun _ => rfl) fun _ _ hw => hw
  case xori => exact gives1_unOp (fun _ => rfl) fun _ _ hw => hw
  case slli => exact gives1_unOp (fun _ => rfl) fun _ _ => eq_shiftLeft_of_toNat
  case srli => exact gives1_unOp (fun _ => rfl) fun _ _ => eq_ushiftRight_of_toNat
  case srai => exact gives1_unOp (fun _ => rfl) fun _ _ => eq_sshiftRight_of_toInt
  case slti =>
    refine gives1_unOp (fun _ => rfl) fun a w hw => ?_
    rw [hw, boolWord_decide, toInt_immS i12 (by omega)]
  case sltiu =>
    refine gives1_unOp (fun _ => rfl) fun a w hw => ?_
    rw [hw, boolWord_decide, immS]
  case bfx =>
    refine gives1_unOp (fun _ => rfl) fun a w hw => BitVec.eq_of_getLsbD_eq fun k _ => ?_
    rw [hw, getLsbD_bfxW _ _ _ _ hfit]
  case bfi => exact fun s s1 a w hrd hfree hs hw => exec_bfi hrd hfree hs hw
  case sel => exact fun p inv s s1 t a b hfree hs ht => exec_sel hfree hs ht
  case addsh => exact gives2_intOp (fun _ => rfl) fun _ _ _ => eq_add_shiftLeft_of_toNat

end Sys2Proof.Proofs

namespace Sys2Proof.Proofs

open Machine

/-! ## Division (08 R163, R170, R171) -/

theorem divS_mul_add_remS (a b : Word) : divS a b * b + remS a b = a := by
  by_cases hb : b = 0#64
  · simp [divS, remS, hb]
  · calc divS a b * b + remS a b
        = BitVec.ofInt 64 (a.toInt.tdiv b.toInt) * BitVec.ofInt 64 b.toInt + BitVec.ofInt 64 (a.toInt.tmod b.toInt) := by
          simp only [divS, remS, hb, if_false, BitVec.ofInt_toInt]
      _ = BitVec.ofInt 64 (a.toInt.tdiv b.toInt * b.toInt + a.toInt.tmod b.toInt) := by
          rw [BitVec.ofInt_add, BitVec.ofInt_mul]
      _ = a := by rw [Int.tdiv_mul_add_tmod, BitVec.ofInt_toInt]

theorem divU_mul_add_remU (a b : Word) : divU a b * b + remU a b = a := by
  by_cases hb : b = 0#64
  · simp [divU, remU, hb]
  · calc divU a b * b + remU a b
        = BitVec.ofNat 64 (a.toNat / b.toNat) * BitVec.ofNat 64 b.toNat + BitVec.ofNat 64 (a.toNat % b.toNat) := by
          simp only [divU, remU, hb, if_false, BitVec.ofNat_toNat, BitVec.setWidth_eq]
      _ = BitVec.ofNat 64 (a.toNat / b.toNat * b.toNat + a.toNat % b.toNat) := by
          rw [BitVec.ofNat_add, BitVec.ofNat_mul]
      _ = a := by rw [Nat.div_add_mod', BitVec.ofNat_toNat, BitVec.setWidth_eq]

theorem eq_divS {a b q : Word} (hzero : b = 0 → q = 0) (hq : b ≠ 0 → q = BitVec.ofInt 64 (a.toInt.tdiv b.toInt)) :
    q = divS a b := by
  by_cases hb : b = 0#64
  · simpa [divS, hb] using hzero hb
  · rw [hq hb, divS, if_neg hb]

theorem eq_remS {a b m : Word} (hzero : b = 0 → m = a) (hm : b ≠ 0 → m = BitVec.ofInt 64 (a.toInt.tmod b.toInt)) :
    m = remS a b := by
  by_cases hb : b = 0#64
  · simpa [remS, hb] using hzero hb
  · rw [hm hb, remS, if_neg hb]

theorem eq_divU {a b q : Word} (hzero : b = 0 → q = 0) (hq : b ≠ 0 → q.toNat = a.toNat / b.toNat) : q = divU a b := by
  by_cases hb : b = 0#64
  · simpa [divU, hb] using hzero hb
  · rw [divU, if_neg hb, ← hq hb, BitVec.ofNat_toNat, BitVec.setWidth_eq]

theorem eq_remU {a b m : Word} (hzero : b = 0 → m = a) (hm : b ≠ 0 → m.toNat = a.toNat % b.toNat) : m = remU a b := by
  by_cases hb : b = 0#64
  · simpa [remU, hb] using hzero hb
  · rw [remU, if_neg hb, ← hm hb, BitVec.ofNat_toNat, BitVec.setWidth_eq]

/-- The divider's queue has room: the operation stands in it and its destination pends. -/
theorem runOp_divOp {rd ra rb : XField} {s s1 : State} {a b : Word} (f : Word → Word → Word)
    (hroom : (getCore s s.cur.core).divQueue.length < 4) (hfree : operandsFree s [ra, rb] (.x rd) = true)
    (hs : sourceWords [ra, rb] s = some ([a, b], s1)) :
    runOp (divOp rd ra rb f) s = .next (divJobOf s1 (.x rd.toNat) (f a b) 36) := by
  obtain ⟨s2, ha, hb⟩ := sw2 hs
  have hgo : divRoom s = .ok ((), s) := by simp [divRoom, Nat.not_le.mpr hroom]
  simp [runOp, divOp, hgo, operands_free hfree, ha, hb, divEnqueue, divJobOf]

/-- A fifth entry: the word does not issue. -/
theorem runOp_divOp_of_full {rd ra rb : XField} {s : State} (f : Word → Word → Word)
    (hfull : 4 ≤ (getCore s s.cur.core).divQueue.length) : runOp (divOp rd ra rb f) s = .next (stallBundle s) := by
  have hstall : divRoom s = .error .stall := by simp [divRoom, hfull]
  simp [runOp, divOp, hstall]

theorem exec_dividerStart {s : State} {c : Nat} {j : DivJob} {r : List DivJob} (hqueue : (getCore s c).divQueue = j :: r)
    (hidle : (getCore s c).divFree ≤ s.cycle) :
    exec (.dividerStart c) s = .next (atCycle (modCore s c fun k =>
      { k with divQueue := r, divRun := k.divRun ++ [j], divFree := s.cycle + j.occ }) (s.cycle + j.occ + 2)
      (.dividerResult c)) := by
  change Host.Outcome.next (dividerStart c s) = _
  simp [dividerStart, hqueue, Nat.not_lt.mpr hidle, modCore]

theorem flights_atCycle (s : State) (due : Nat) (e : Event) :
    ∃ f, (atCycle s due e).flights = s.flights ++ [f] ∧ f.timed = true ∧ f.due = due ∧ f.act = e :=
  ⟨_, rfl, rfl, rfl, rfl⟩

theorem exec_dividerResult {s : State} {c : Nat} {j : DivJob} {r : List DivJob} (hrun : (getCore s c).divRun = j :: r) :
    exec (.dividerResult c) s = .next (deliverReg (modCore s c fun k => { k with divRun := r }) j.who j.dst
      (BitVec.ofNat 512 j.val.toNat)) := by
  change Host.Outcome.next (dividerResult c s) = _
  simp [dividerResult, hrun]

/-- A task that still stands in the slot it sent from gets the result there (08 R171). -/
theorem deliverReg_of_holdsTask {s : State} {w : Who} (d : RegId) (v : Vec)
    (hold : holdsTask (getSlot s w.core w.slot) w.gtid = true) :
    deliverReg s w d v = modSlot s w.core w.slot fun t => wakeSlot (clearPending (putReg t d v) d) := by
  simp [deliverReg, locate, hold, modTask]

theorem deliverReg_of_gone {s : State} {w : Who} (d : RegId) (v : Vec) (hgone : locate s w.core w.slot w.gtid = none) :
    deliverReg s w d v = s := by
  simp [deliverReg, hgone]

/-- The end of a park changes no x register and no pending bit. -/
theorem wakeSlot_x_pendX (t : Slot) : (wakeSlot t).x = t.x ∧ (wakeSlot t).pendX = t.pendX := by
  unfold wakeSlot
  dsimp only
  repeat' split
  all_goals exact ⟨rfl, rfl⟩

@[simp] theorem getX_wakeSlot (t : Slot) (n : Nat) : getX (wakeSlot t) n = getX t n := by
  simp [getX, (wakeSlot_x_pendX t).1]

@[simp] theorem isPending_wakeSlot_x (t : Slot) (n : Nat) : isPending (wakeSlot t) (.x n) = isPending t (.x n) := by
  simp [isPending, (wakeSlot_x_pendX t).2]

@[simp] theorem getX_clearPending (t : Slot) (d : RegId) (n : Nat) : getX (clearPending t d) n = getX t n := by
  cases d <;> rfl

theorem isPending_clearPending_x (t : Slot) (n : Nat) : isPending (clearPending t (.x n)) (.x n) = false := by
  simp [isPending, clearPending, delNat]

theorem getX_putReg_x (t : Slot) {n : Nat} (hn : n ≠ 0) (w : Word) :
    getX (putReg t (.x n) (BitVec.ofNat 512 w.toNat)) n = w := by
  simp only [getX, putReg, hn, if_false, tget_tset_same, BitVec.ofNat_toNat]
  exact BitVec.setWidth_setWidth_of_le w (by omega)

/-- What a result delivered to the slot of its task leaves there. -/
theorem deliverReg_x {s : State} {w : Who} {n : Nat} (hn : n ≠ 0) (v : Word)
    (hold : holdsTask (getSlot s w.core w.slot) w.gtid = true) :
    let t := deliverReg s w (.x n) (BitVec.ofNat 512 v.toNat)
    getX (getSlot t w.core w.slot) n = v ∧ isPending (getSlot t w.core w.slot) (.x n) = false := by
  dsimp only
  simp only [deliverReg_of_holdsTask _ _ hold, getSlot_modSlot_same, getX_wakeSlot, getX_clearPending,
    isPending_wakeSlot_x]
  exact ⟨getX_putReg_x _ hn v, isPending_clearPending_x ..⟩

theorem divRun_modSlot (s : State) (c i : Nat) (f : Slot → Slot) :
    (getCore (modSlot s c i f) c).divRun = (getCore s c).divRun := by
  simp [modSlot, setSlot]

/-- The oldest entry starts when the divider is free (08 R170). -/
theorem dividerStart_spec {s : State} {c : Nat} {j : DivJob} {r : List DivJob} (hqueue : (getCore s c).divQueue = j :: r)
    (hidle : (getCore s c).divFree ≤ s.cycle) :
    ∃ t, exec (.dividerStart c) s = .next t ∧ (getCore t c).divQueue = r ∧
      (getCore t c).divRun = (getCore s c).divRun ++ [j] ∧ (getCore t c).divFree = s.cycle + j.occ ∧ t.mem = s.mem ∧
      ∃ f, t.flights = s.flights ++ [f] ∧ f.timed = true ∧ f.due = s.cycle + j.occ + 2 ∧ f.act = .dividerResult c := by
  refine ⟨_, exec_dividerStart hqueue hidle, ?_, ?_, ?_, ?_, flights_atCycle ..⟩ <;> simp

/-- The oldest running operation's result reaches the task's register (08 R171). -/
theorem dividerResult_spec {s : State} {c n : Nat} {j : DivJob} {r : List DivJob} (hrun : (getCore s c).divRun = j :: r)
    (hdst : j.dst = .x n) (hn : n ≠ 0) (hcore : j.who.core = c)
    (hold : holdsTask (getSlot s c j.who.slot) j.who.gtid = true) :
    ∃ t, exec (.dividerResult c) s = .next t ∧ (getCore t c).divRun = r ∧ getX (getSlot t c j.who.slot) n = j.val ∧
      isPending (getSlot t c j.who.slot) (.x n) = false := by
  subst hcore
  have hold' : holdsTask (getSlot (modCore s j.who.core fun k => { k with divRun := r }) j.who.core j.who.slot)
      j.who.gtid = true := by
    rw [getSlot_modCore_of_slots]
    · exact hold
    · exact fun _ => rfl
  refine ⟨_, hdst ▸ exec_dividerResult hrun, ?_, deliverReg_x hn j.val hold'⟩
  rw [deliverReg_of_holdsTask _ _ hold', divRun_modSlot]
  simp

/-- Settles O14: an operation enters the divider queue with the quotient or remainder of R163, and the divider's two steps
change that queue, what runs and the register of the task that still stands in its slot. -/
theorem divisions : Obligations.Divisions := by
  unfold Obligations.Divisions
  refine ⟨⟨fun rd ra rb s s1 a b hfree hs => ⟨fun hroom => ⟨?div, ?divu, ?rem, ?remu⟩, fun hfull => ?full⟩, ?identity⟩,
    ?start, ?result, ?gone⟩
  case div => exact fun q hzero hq => eq_divS hzero hq ▸ runOp_divOp divS hroom hfree hs
  case divu => exact fun q hzero hq => eq_divU hzero hq ▸ runOp_divOp divU hroom hfree hs
  case rem => exact fun m hzero hm => eq_remS hzero hm ▸ runOp_divOp remS hroom hfree hs
  case remu => exact fun m hzero hm => eq_remU hzero hm ▸ runOp_divOp remU hroom hfree hs
  case full =>
    exact ⟨runOp_divOp_of_full divS hfull, runOp_divOp_of_full divU hfull, runOp_divOp_of_full remS hfull,
      runOp_divOp_of_full remU hfull⟩
  case identity => exact fun a b => ⟨divS_mul_add_remS a b, divU_mul_add_remU a b⟩
  case start => exact fun s c j r hqueue hidle => dividerStart_spec hqueue hidle
  case result =>
    rintro s c j r n _ hrun hdst hn rfl hcore hold
    exact dividerResult_spec hrun hdst hn hcore hold
  case gone =>
    intro s c j r hrun hgone
    rw [exec_dividerResult hrun, deliverReg_of_gone _ _ hgone]

end Sys2Proof.Proofs
